-- ==== Sys2Proof/Word.lean ====
section
/-!
DEFINITION. The word types of the Dalwen D12 (00 R7, 02 R43, R48) and the sparse maps that hold
memories and tables: lists of (key, value) pairs in rising key order.
-/

namespace Sys2Proof

/-- A CP register or CSR: 64 bits (02 R48, R50). -/
abbrev Word := BitVec 64

/-- A grid lane or an instruction word: 32 bits (02 R43, R52). -/
abbrev Word32 := BitVec 32

/-- A byte of memory, scratchpad or code buffer. -/
abbrev Byte := BitVec 8

/-- A 6-bit register field: x0 to x63 (02 R45). -/
abbrev Reg := BitVec 6

/-- A grid vector: 16 lanes of 32 bits (02 R52). -/
abbrev Vec := Vector (BitVec 32) 16

/-- A sparse map from natural keys, kept as a list with strictly rising keys. -/
abbrev SMap (α : Type) := List (Nat × α)

/-- The value at key `i`; `d` where the map lists none. -/
def SMap.get {α : Type} (d : α) : SMap α → Nat → α
  | [], _ => d
  | (k, v) :: m, i => if i = k then v else SMap.get d m i

/-- Lists `v` at key `i`, in key order. -/
def SMap.put {α : Type} : SMap α → Nat → α → SMap α
  | [], i, v => [(i, v)]
  | (k, w) :: m, i, v =>
    if i < k then (i, v) :: (k, w) :: m
    else if i = k then (i, v) :: m
    else (k, w) :: SMap.put m i v

/-- Takes key `i` off the list. -/
def SMap.del {α : Type} : SMap α → Nat → SMap α
  | [], _ => []
  | (k, w) :: m, i => if i = k then SMap.del m i else (k, w) :: SMap.del m i

/-- Sets key `i` to `v` in the canonical form whose unlisted keys read `d`. -/
def SMap.set {α : Type} [DecidableEq α] (d : α) (m : SMap α) (i : Nat) (v : α) : SMap α :=
  if v = d then SMap.del m i else SMap.put m i v

/-- Whether the map lists key `i`. -/
def SMap.has {α : Type} (m : SMap α) (i : Nat) : Bool := m.any fun p => p.1 == i

/-- Keys strictly rising. -/
def SMap.rising {α : Type} : SMap α → Bool
  | [] => true
  | [_] => true
  | (a, _) :: (b, w) :: m => decide (a < b) && SMap.rising ((b, w) :: m)

/-- The canonical form: keys strictly rising, and no entry equal to what an unlisted key reads. -/
def SMap.wf {α : Type} [DecidableEq α] (d : α) (m : SMap α) : Bool :=
  SMap.rising m && m.all fun p => decide (p.2 ≠ d)

end Sys2Proof
end

