-- ==== Sys2Proof/Config.lean ====
section
/-!
DEFINITION. What the spec fixes for the product, and the FREE VALUES: opaque constants with no body, so
that nothing in Lean can evaluate them and every statement holds whatever they are.
-/

namespace Sys2Proof.Config

/-- A duration in ticks that the spec leaves unarchitected (service, landing, loading, loose-code issue),
drawn from the counter `fresh` (DESIGN CHOICE, notes/assumptions/4.md). -/
opaque delay : Nat → Nat

/-- A choice the spec leaves open among `n` candidates is `choose fresh % n` (DESIGN CHOICE, notes/assumptions/7.md). -/
opaque choose : Nat → Nat

/-- A yes-or-no fact the spec leaves open: slice residency (03 R117 events 0x08, 0x09), whether a TLB entry
has been kept (11 R311) (DESIGN CHOICE, notes/assumptions/16.md, 17.md). -/
opaque freeBool : Nat → Bool

/-- A 64-bit value the spec draws from a random source or leaves undefined (DESIGN CHOICE, notes/assumptions/12.md, 22.md,
58.md). -/
opaque freeWord : Nat → BitVec 64

/-- Lines of the Hedgerow pool that firmware reserves (12 R333; DESIGN CHOICE, notes/assumptions/48.md). -/
opaque hedgePool : Nat

/-- Lines of firmware's reserve for the shadows of the system checkpoint (12 R336; DESIGN CHOICE, notes/assumptions/48.md). -/
opaque checkpointReserve : Nat

/-- Fuses (02 R50 reset column "fuse", 18 R406): the replacement request at bring-up (DESIGN CHOICE, notes/assumptions/21.md). -/
opaque fuseReplReq : Bool

/-- Fuses: which two physical slices of a die are the spares (14 R353; DESIGN CHOICE, notes/assumptions/21.md). -/
opaque fuseSpareSlices : Nat → Nat × Nat

/-- Fuses: physical slices of a die that were retired at fuse time, of which a spare has taken the place (14 R353;
DESIGN CHOICE, notes/assumptions/21.md). -/
opaque fuseRetiredSlices : Nat → List Nat

/-- The digest of a measurement block's content where the content is outside the spec: boot ROM, firmware
image (18 R396), by block index and the number of the firmware image. -/
opaque romDigest : Nat → Nat → BitVec 512

/-- The junction-temperature limit of a die (18 R397, R407, which give no number; DESIGN CHOICE, notes/assumptions/68.md). -/
opaque junctionLimit : Nat → Nat

/-- ECDSA P-521 over SHA-512 with a key of the device, as a function of the key slot and the message digest (18 R395;
DESIGN CHOICE, notes/assumptions/12.md, as for the other functions of keys below). -/
opaque sign : Nat → Nat → BitVec 1056

/-- Whether an ECDSA P-521 signature over a digest is the slot-1 alias key's (18 R405). -/
opaque verify : BitVec 1056 → Nat → Bool

/-- The stored ciphertext of a sealed line's byte: AES-256-XTS at a line address, under the key that has this wrapped form
(18 R393). -/
opaque cipherByte : BitVec 320 → Nat → BitVec 8 → BitVec 8

/-- The bytes of the certificate chain of a slot (18 R395). -/
opaque certChain : Nat → List (BitVec 8)

/-- The plaintext of a stored byte of a sealed line: the inverse of `cipherByte` (18 R405). -/
opaque decipherByte : BitVec 320 → Nat → BitVec 8 → BitVec 8

/-- The wrapped form of the key of a seal, by the number of its draw: AES Key Wrap under a key derived from the device identity
key (18 R393, R405). -/
opaque wrappedKey : Nat → BitVec 320

/-- A wrapped key unwraps under this part's device identity key: this part has drained it (18 R405). -/
opaque unwraps : BitVec 320 → Bool

/-- Whether the stack of a memory channel of a die has a spare channel left, by the units of the die's memory retired before it
(17 R384, which gives no number; DESIGN CHOICE, notes/assumptions/46.md). -/
opaque channelSpare : Nat → Nat → List Nat → Bool
/-- The memory channel or device region in which a storage address stands, which only the part knows (17 R386; DESIGN CHOICE,
notes/assumptions/46.md). -/
opaque channelOf : Nat → Nat

/-! Facts the spec fixes. -/

/-- Thavy ports of a package (00 R3, 18 R398). -/
def thavyPorts : Nat := 16
/-- The MX die of a Thavy port: two ports on each, by ascending die (00 R3, 18 R398; which port stands on which die is a
DESIGN CHOICE, notes/assumptions/60.md). -/
def portDie (port : Nat) : Nat := [1, 2, 4, 5, 6, 7, 9, 10].getD (port / 2) 0
/-- The host ports: the BX die of each, and the dies of its group (00 R3, 18 R387, R404). -/
def hostPorts : List (Nat × List Nat) := [(0, [0, 1, 4]), (3, [3, 2, 7]), (8, [8, 5, 9]), (11, [11, 6, 10])]

/-- The module's hardware limit in watts (18 R407). -/
def powerLimit : Nat := 6000
/-- The function of a host port: functions 0 to 63 are the function port's, 64 to 66 stand for those of the data ports, which have no
BAR (18 R387); the port, by its place in `hostPorts`. -/
def portOfFn (fn : Nat) : Nat := fn - 63
/-- Functions of the four host ports (18 R387). -/
def functions : Nat := 67

/-- Bytes of one scratchpad (06 R186). -/
def scratchBytes : Nat := 0x180000
/-- Bytes of one code buffer (02 R44). -/
def codeBytes : Nat := 0x10000
/-- Dies of a package (00 R1). -/
def numDies : Nat := 12
/-- Dies 0, 3, 8 and 11 are BX dies (00 R1). -/
def isBX (die : Nat) : Bool := die == 0 || die == 3 || die == 8 || die == 11
/-- Enabled cores of a die (00 R3). -/
def enabledCores (die : Nat) : Nat := if isBX die then 20 else 30
/-- Spare cores of a die (17 R384). -/
def spareCores (die : Nat) : Nat := if isBX die then 4 else 2
/-- Copy engines of a die (06 R409). -/
def copyEngines (die : Nat) : Nat := if isBX die then 8 else 4
/-- Matrix arrays of a core on a die of this class (00 R4). -/
def arrays (bx : Bool) : Nat := if bx then 2 else 4
/-- In-service slices of a die (14 R353). -/
def slices (die : Nat) : Nat := if isBX die then 32 else 24
/-- Row of a die in the package (00 R1). -/
def dieRow (die : Nat) : Nat := die / 4
/-- Column of a die in the package (00 R1). -/
def dieCol (die : Nat) : Nat := die % 4
/-- Manhattan distance of two dies (00 R2). -/
def distance (a b : Nat) : Nat :=
  (dieRow a - dieRow b) + (dieRow b - dieRow a) + (dieCol a - dieCol b) + (dieCol b - dieCol a)
/-- The die-pair latency of two different dies (05 R162). -/
def dpl (a b : Nat) : Nat := 32 + 24 * distance a b
/-- The latency between a unit of die `a` and one of die `b`: 24 within a die (05 R161), dpl between dies. -/
def dieLatency (a b : Nat) : Nat := if a = b then 24 else dpl a b
/-- Device-memory bytes homed on a die (11 R301). -/
def dieMemory (die : Nat) : Nat := if isBX die then 0x4000000000 else 0x600000000
/-- The first physical address of host memory (11 R301). -/
def hostBase : Nat := 2 ^ 51
/-- The end of the physical space (11 R301). -/
def physEnd : Nat := 2 ^ 52
/-- The die that PA [43:40] names (11 R301). -/
def paDie (pa : Nat) : Nat := pa / 2 ^ 40 % 16
/-- Device memory with storage (11 R301). -/
def deviceStorage (pa : Nat) : Bool :=
  decide (pa / 2 ^ 40 < 12) && decide (pa % 2 ^ 40 < dieMemory (pa / 2 ^ 40))
/-- Any storage, device or host (11 R301). -/
def hasStorage (pa : Nat) : Bool :=
  deviceStorage pa || (decide (hostBase ≤ pa) && decide (pa < physEnd))

end Sys2Proof.Config
end

