-- ==== Sys2Proof/Syntax.lean ====
section
/-!
DEFINITION. The rows of spec/opcode_table.json, one constructor each: the 111 CP instructions with the fields of
their words (02 R45, R46), the grid-private operations with the fields of R47, and the events that are no word,
each with the data that says which event it is. Which task, core, element and slot an instruction or event
belongs to is the focus of the state, not a field here.
-/

namespace Sys2Proof

/-- The fields of a grid-private word (02 R47): d, a, b, c and mod. -/
structure GridWord where
  d : BitVec 5
  a : BitVec 5
  b : BitVec 5
  c : BitVec 5
  m : BitVec 5
  deriving DecidableEq, Repr

/-- What a grid operation delivers at its due cycle (04 R129 to R133, R157). -/
inductive GridWrite where
  /-- a vector to a destination code of 02 R53: v0 to v15, an out-port, the stream out-port, a mask, or discard -/
  | vec (code : BitVec 5) (v : Vec)
  /-- a scalar to x0 to x7 of the element -/
  | scalar (n : BitVec 3) (v : BitVec 32)
  /-- pairs to the row's deferral stream -/
  | append (pairs : List (BitVec 32 × BitVec 32))
  deriving DecidableEq, Repr

/-- A partial sum in transfer (07 R232): the element bits as the receiving link takes them, and the X64 states. -/
structure Partial where
  /-- an X64 partial carries integers and states; any other carries binary64 values -/
  x64 : Bool
  elems : SMap (BitVec 64)
  states : SMap (BitVec 2)
  /-- B of 07 R232 -/
  size : Nat
  /-- perform cycle of the hop that carries it -/
  due : Nat := 0
  /-- h of 07 R233, for a partial in E4M3-EF -/
  scale : Int := 0
  deriving DecidableEq, Repr

/-- What one package of a joined region tells another of a chain's configuration or splice (07 R235, R245, 18 R403): the
arrival cycle, the chain's id, the logical core and code offset of its CHBUILD, and the descriptor. -/
structure ChainMsg where
  due : Nat
  id : Nat
  by' : Nat
  pc : Nat
  bytes : List Byte
  deriving DecidableEq, Repr

/-- How a configuration comes (07 R235, R245): by a CHBUILD or a CHSPLICE, with a message where another package sends it. -/
structure Arrival where
  splice : Bool
  msg : Option ChainMsg := none
  deriving DecidableEq, Repr

/-- A slot that a chain releases (07 R242), with the hop and the release cycle where another package closes or frees the
chain. -/
structure Release where
  slot : Nat
  far : Option (Nat × Nat) := none
  deriving DecidableEq, Repr

/-- A member of the join of a context (18 R402). -/
structure JoinWho where
  ctx : Nat
  member : Nat
  deriving DecidableEq, Repr

/-- What a member of a joined region tells the others at its RGENTER: its proposal of E (0: it takes its RGENTER back), its cores, the
greatest latency between dies that it uses (05 R172), and the tick of its RGENTER (18 R402). -/
structure JoinSize where
  proposal : Nat
  cores : Nat
  dpl : Nat
  issued : Nat
  deriving DecidableEq, Repr

/-- A write of a producer into a ring slot (06 R191). -/
structure RingWrite where
  ring : Nat
  seq : Nat
  off : Nat
  bytes : List Byte
  /-- the last write of the sequence number -/
  last : Bool
  /-- code-buffer offset of the producing command (17 R408) -/
  pc : Nat
  /-- core that issued the command -/
  by' : Nat
  /-- offsets of its bytes that come from poisoned granules (17 R382) -/
  poison : List Nat
  deriving DecidableEq, Repr

/-- Where an output beat goes (06 R199). -/
inductive BeatDest where
  | scratch (addr : Nat)
  | ring (w : RingWrite)
  | mem (va : Nat)
  deriving DecidableEq, Repr

/-- A stationary weight tile (07 R215). -/
structure Tile where
  fmt : Nat
  bytes : List Byte
  /-- largest floor(log2 |w|) over finite non-zero weights; none when there is none (07 R219) -/
  eW : Option Int
  deriving DecidableEq, Repr

/-- Where a region stops, and why (05 R174, R182, 03 R113). -/
inductive FreezeWhy where
  | slide | preempt | throttle | cancel
  deriving DecidableEq, Repr

/-- A freeze: why, and at which cycle; as a notice between members of a joined region it also says, with the tick of the last landing
there, that its sender lets the region resume (05 R174, 18 R402). -/
structure FreezeNote where
  why : FreezeWhy
  cycle : Nat
  landed : Option Nat := none
  deriving DecidableEq, Repr

/-- How a task ends (10 R292). -/
inductive EndKind where
  | retired | faulted | cancelled
  deriving DecidableEq, Repr

/-- A place that an error code covers (17 R382). -/
inductive StoragePlace where
  /-- device-memory line by physical address -/
  | line (pa : Nat)
  /-- a die's copy of a line -/
  | copy (die pa : Nat)
  /-- 64-byte scratchpad granule of a task's core -/
  | scratch (task core addr : Nat)
  /-- code-buffer word by its offset, or a word fetched for loose code by its address -/
  | code (task core off : Nat)
  /-- CP register -/
  | reg (task core : Nat) (r : Reg)
  /-- load-queue entry, counted from the oldest -/
  | loadEntry (task core i : Nat)
  /-- store-queue entry, counted from the oldest -/
  | storeEntry (task core i : Nat)
  /-- format-queue entry of an array, counted from the oldest -/
  | formatEntry (task core arr i : Nat)
  /-- pending write of a core, counted in issue order -/
  | pending (task core i : Nat)
  /-- register of an element: v0 to v15 from 0, in-ports N, E, S, W from 16, stream in-port 20, k0 to k7 from 21, m0 to m3 from 32, x0 to
  x7 from 40, stream out-port 48 -/
  | gridReg (task core el r : Nat)
  /-- link slot's elements -/
  | link (task core slot : Nat)
  /-- link slot's incoming buffer -/
  | incoming (task core slot : Nat)
  /-- a residual slot -/
  | residual (task core slot : Nat)
  deriving DecidableEq, Repr

/-- A physical resource that firmware retires (17 R384). -/
inductive Resource where
  | core (die i : Nat)
  | linkSlot (die core i : Nat)
  | slice (die i : Nat)
  | hbmChannel (die i : Nat)
  | gddrRegion (die i : Nat)
  deriving DecidableEq, Repr

/-- Registers and tables that the host, system software or firmware writes and that have no behaviour of their own
beyond holding the value and refusing a bad one (10 R274, R275, R282, R287, 11 R302, 17 R381, 18 R389, R397). -/
inductive RegWrite where
  /-- submit-window RECORD bytes of queue q, by function fn -/
  | windowRecord (fn q off : Nat) (bytes : List Byte)
  | notify (fn : Nat) (off : Nat) (bytes : List Byte)
  | rassel (fn : Nat) (v : Word)
  | msixMask (fn vec : Nat) (masked : Bool)
  /-- queue table BASE, LOG2N and CTX -/
  | queueBase (q : Nat) (base : Word) (log2n ctx : Nat)
  | queuePrio (q prio : Nat)
  | queueDisable (q : Nat)
  | ptroot (ctx : Nat) (pa : Nat)
  | saveArea (ctx : Nat) (base stride count : Nat)
  | faultQueue (ctx : Nat) (base : Nat) (log2n : Nat)
  | quota (ctx : Nat) (lines : Nat)
  | cePolicy (ctx : Nat) (mx bx : Nat)
  | aging (ticks : Nat)
  /-- Thavy time-root choice: the package's upstream port, none for the root (18 R401) -/
  | upstream (port : Option Nat)
  /-- the join configuration of a context: this package's member index, first logical core of each member in order,
      greatest route latency of a pair of other members, every link between other members aligned, and the links that end
      here: the member at the other end, this package's port, and the latencies behind the peer's port (18 R402, R403) -/
  | join (ctx self : Nat) (bases : List Nat) (latency : Nat) (aligned : Bool) (links : List (Nat × Nat × SMap Nat))
  /-- a vector's entry in the MSI-X table of a function (18 R388) -/
  | msixEntry (fn vec addr data : Nat)
  /-- a host read of BAR0, which changes no register: n bytes from offset off (18 R388, R389) -/
  | barRead (fn off n : Nat)
  /-- firmware's power target in watts, and a die's junction-temperature target (18 R397) -/
  | powerTarget (watts : Nat)
  | thermalTarget (die degrees : Nat)
  /-- firmware issues a peer transfer over a port (18 R399) -/
  | peerSend (port ctx va : Nat) (bytes : List Byte)
  | tdiLock (fn : Nat)
  deriving DecidableEq, Repr

/-- A Thavy flit as the link layer sees it (18 R398): the 248 bytes under the CRC, and the CRC. -/
structure Flit where
  bytes : List Byte
  crc : BitVec 64
  deriving DecidableEq, Repr

/-- The states of a TDI (18 R389). -/
inductive TdiState where
  | unlocked | locked | run | error
  deriving DecidableEq, Repr

/-- A granule record of a checkpoint image (18 R405). -/
structure GranuleRecord where
  granule : Nat
  owner : Nat
  content : SMap Byte
  digest : BitVec 512
  deriving DecidableEq, Repr

/-- A checkpoint image (18 R405): its granules, the retired units (die, kind, index) and the wrapped keys. -/
structure CheckpointImage where
  granules : List GranuleRecord
  retired : List (Nat × Nat × Nat)
  keys : List (Nat × BitVec 320)
  deriving DecidableEq, Repr

/-- Whence an SPDM request comes, and the version it names: a transport, and major and minor number as one byte (18 R395). -/
structure Req where
  tr : Nat
  version : Nat
  deriving DecidableEq, Repr

/-- A TDISP request for a function, within an SPDM session (18 R392, R395). -/
structure TdiReq where
  rq : Req
  session : Nat
  fn : Nat
  deriving DecidableEq, Repr

/-- What IDE_KM asks: to program the key of a selective stream, or to end the stream (18 R392). -/
structure IdeOp where
  stream : Nat
  bind : Bool
  deriving DecidableEq, Repr

/-- One constructor per row of spec/opcode_table.json. -/
inductive Instr where
  -- shared half (02 R54 to R57)
  | idle (n : BitVec 19)
  | waitt (a : Reg) (i : BitVec 13)
  | add (d a b : Reg)
  | sub (d a b : Reg)
  | and (d a b : Reg)
  | or (d a b : Reg)
  | xor (d a b : Reg)
  | sll (d a b : Reg)
  | srl (d a b : Reg)
  | sra (d a b : Reg)
  | slt (d a b : Reg)
  | sltn (d a b : Reg)
  | min (d a b : Reg)
  | max (d a b : Reg)
  | minn (d a b : Reg)
  | maxn (d a b : Reg)
  | clz (d a : Reg)
  | ctz (d a : Reg)
  | popc (d a : Reg)
  | sext (d a : Reg) (w : BitVec 6)
  | mul (d a b : Reg)
  | mulh (d a b : Reg)
  | mulhn (d a b : Reg)
  | div (d a b : Reg)
  | divn (d a b : Reg)
  | rem (d a b : Reg)
  | remn (d a b : Reg)
  | addi (d a : Reg) (i : BitVec 13)
  | andi (d a : Reg) (i : BitVec 13)
  | ori (d a : Reg) (i : BitVec 13)
  | xori (d a : Reg) (i : BitVec 13)
  | slti (d a : Reg) (i : BitVec 13)
  | sltni (d a : Reg) (i : BitVec 13)
  | slli (d a : Reg) (sh : BitVec 6)
  | srli (d a : Reg) (sh : BitVec 6)
  | srai (d a : Reg) (sh : BitVec 6)
  | lui (d : Reg) (i : BitVec 19)
  | addsh (d a b : Reg) (sh : BitVec 6)
  | madi (d a b : Reg) (i : BitVec 7)
  | beq (a b : Reg) (o : BitVec 13)
  | bne (a b : Reg) (o : BitVec 13)
  | blt (a b : Reg) (o : BitVec 13)
  | bge (a b : Reg) (o : BitVec 13)
  | bltn (a b : Reg) (o : BitVec 13)
  | bgen (a b : Reg) (o : BitVec 13)
  | j (o : BitVec 25)
  | jal (d : Reg) (o : BitVec 19)
  | jr (d a : Reg) (i : BitVec 13)
  | loop (l : BitVec 2) (a : Reg) (e : BitVec 13)
  | loopi (l : BitVec 2) (c : BitVec 12) (e : BitVec 11)
  | loops (l : BitVec 2) (k : BitVec 6) (e : BitVec 11)
  | lregRead (d : Reg) (f : BitVec 6)
  | lregWrite (a : Reg) (f : BitVec 6)
  -- CP private half (02 R58)
  | ldq (d a : Reg) (z c : BitVec 2) (o : BitVec 9)
  | lqpop (d : Reg)
  | stq (d a : Reg) (z : BitVec 2) (o : BitVec 9)
  | lds (d a : Reg) (z : BitVec 2) (o : BitVec 9)
  | sts (d a : Reg) (z : BitVec 2) (o : BitVec 9)
  | mark (g s : BitVec 3)
  | amo (a b : Reg) (p : BitVec 4) (acq rel w : BitVec 1)
  | amoCas (d a b : Reg) (acq rel w : BitVec 1)
  | csrr (d : Reg) (c : BitVec 11)
  | csrw (d a : Reg) (c : BitVec 11)
  | csrs (d a : Reg) (c : BitVec 11)
  | csrc (d a : Reg) (c : BitVec 11)
  | trap (n : BitVec 19)
  | brk (n : BitVec 19)
  | tret
  | retire
  | taskEndSignal (t : Nat)
  | rgenter (d a : Reg)
  | allotCopyEngines
  | regionEntry
  | joinEntry (who : JoinWho) (what : JoinSize)
  | joinEntryTimeout (core : Nat)
  | rgexit
  | regionExit
  | realign (a : Reg) (i : BitVec 13)
  | ringcfg (a n : Reg)
  | ringq (d : Reg) (n : Reg) (s : BitVec 3)
  | fmtw (u : BitVec 2) (a : Reg)
  | wload (u : BitVec 2) (m : Reg)
  | mmaR (u : BitVec 2) (l : BitVec 8) (m : Reg)
  | mmaC (u : BitVec 2) (l : BitVec 8) (m : Reg)
  | arrayCommandStart (arr : Nat)
  | wloadTileReplace (arr : Nat) (t : Tile)
  | contributionPerform (arr uid : Nat)
  | hopPerform (chain hop slot : Nat) (p : Partial)
  | chbuild (i : BitVec 8) (a : Reg)
  | chainConfigArrival (chain hop slot : Nat) (residual : Bool) (splice : Arrival)
  | chclose (i : BitVec 8)
  | closeRowPerform (w : RingWrite)
  | normContribution (slot pc by' : Nat) (q : Word)
  | chainRelease (chain : Nat) (slot : Release)
  | chfree (i : BitVec 8)
  | chstat (i : BitVec 8) (a : Reg)
  | chsplice (i : BitVec 8) (a k : Reg)
  | chainFreeze (chain hop reason : Nat)
  | lzero (s : BitVec 8)
  | lread (s : BitVec 8) (m : Reg)
  | lreadM (s : BitVec 8) (m : Reg)
  | sstr (a n : Reg)
  | gcfg (a : Reg)
  | configReady (uid : Nat)
  | grun (a : Reg)
  | grunC (a : Reg)
  | grunS (k : Reg)
  | grunCS (k : Reg)
  | gridRunStart (run : Nat)
  | gridBundleIssue (run : Nat)
  | gridRunEnd (run : Nat)
  | streamBeat (se run beat : Nat)
  | streamWritePerform (se run : Nat) (dst : BeatDest) (bytes : List Byte)
  | copy (a n : Reg)
  | copyd (a n : Reg)
  | copyRowStage (uid row : Nat)
  | copyRowPerform (uid row : Nat)
  | copydDigestPerform (uid : Nat)
  | erchkOn (a b : Reg)
  | erchkOff
  | cwb (a b : Reg)
  | cinv (a b : Reg)
  | cwbi (a b : Reg)
  | cpf (a b : Reg) (c : BitVec 7)
  | launch (d a b : Reg)
  | fork (d a : Reg)
  | greport (a : Reg)
  | gwait (d a : Reg)
  | gwaitY (d a : Reg)
  | gcancel (d a b : Reg)
  | gstat (d a b : Reg) (sel : BitVec 7)
  | snap (d a b : Reg)
  | accept (d a : Reg)
  | reject (d a : Reg)
  | snapq (d a : Reg) (sel : BitVec 7)
  -- grid private half (02 R60, 04 R141)
  | fadd (f : GridWord)
  | fsub (f : GridWord)
  | fmul (f : GridWord)
  | fma (f : GridWord)
  | fms (f : GridWord)
  | fmin (f : GridWord)
  | fmax (f : GridWord)
  | fcmp (f : GridWord)
  | fsel (f : GridWord)
  | fsgn (f : GridWord)
  | fspec (f : GridWord)
  | cvt (f : GridWord)
  | bf2 (f : GridWord)
  | iadd (f : GridWord)
  | isub (f : GridWord)
  | imul (f : GridWord)
  | ilog (f : GridWord)
  | ish (f : GridWord)
  | icmp (f : GridWord)
  | iminmax (f : GridWord)
  | mov (f : GridWord)
  | lperm (f : GridWord)
  | lbcast (f : GridWord)
  | lred (f : GridWord)
  | lshift (f : GridWord)
  | msk (f : GridWord)
  | rngc (f : GridWord)
  | defer (f : GridWord)
  /-- a shared-half word in slot C (04 R158) -/
  | gridSlotCScalar (w : Word32)
  -- events (95)
  | gridResultPerform (w : GridWrite)
  | cpResultPerform (d : Reg) (v : Word)
  | loadReplyLand (seq : Nat)
  | storePerform (seq : Nat)
  | storeQueueAccept (seq : Nat)
  | regionFreeze (note : FreezeNote)
  | itemLand
  | regionResume
  | slideTimeout
  | regionDeadline
  | taskBudgetExpiry
  | preemptionRequest (t : Nat)
  | saveComplete
  | restoreBind
  | restoreResume
  | selection
  | taskBind
  | taskRefused (q reason : Nat)
  | submit (fn q : Nat)
  | cancelQueued (fn q : Nat)
  | cancelAll (fn q : Nat)
  | registerWrite (r : RegWrite)
  | queueEnable (q : Nat)
  | slidemaxWrite (v : Word)
  | groupDeadline (g : Nat)
  | groupReportApply (g i : Nat)
  | groupMemberEnd (g i : Nat)
  | groupCancelApply (g : Nat)
  | gwaitRelease (g : Nat)
  | quotaGrow (ctx : Nat) (lines : Option Nat)
  | translationFaultResolve (ctx : Nat) (edit : List (Nat × Word))
  | translationFaultUnresolvable (t : Nat)
  | translationFlush (ctx : Nat)
  | migrationCopy (granule target : Nat)
  | migrationFlip (granule : Nat)
  | migrationCleanup (granule : Nat) (edit : List (Nat × Word))
  | sliceRetire (die slice : Nat)
  | remapResponse (task core seq : Nat)
  | copyEviction (die line : Nat)
  | correctableError (p : StoragePlace)
  | uncorrectableError (p : StoragePlace) (consumed : Bool)
  | resourceRetire (r : Resource)
  | hostMemoryRead (fn va n : Nat)
  | hostMemoryWrite (fn va : Nat) (bytes : List Byte)
  | msixMessage (fn vec : Nat)
  | getVersion (rq : Req)
  | getCapabilities (rq : Req)
  | negotiateAlgorithms (rq : Req) (p521 sha512 secp521r1 aes256gcm : Bool)
  | getDigests (rq : Req)
  | getCertificate (rq : Req) (slot off len : Nat)
  | challenge (rq : Req) (slot : Nat) (nonce : BitVec 256)
  | getMeasurements (rq : Req) (index : Nat)
  | keyExchange (rq : Req) (slot : Nat)
  | finish (rq : Req) (session : Nat)
  | heartbeat (rq : Req) (session : Nat)
  | endSession (rq : Req) (session : Nat)
  | ideKm (rq : Req) (session fn : Nat) (op : IdeOp)
  | tdispRequest (q : TdiReq) (to' : TdiState)
  | sealContext (ctx : Nat)
  | tdiUnlock (fn : Nat) (error : Bool)
  | flitReceive (port : Nat) (f : Flit)
  | nak (port : Nat) (seq : Nat)
  | linkFail (port : Nat)
  | linkRetrain (port latency : Nat)
  | counterFlitSend (port : Nat)
  | counterFlitReceive (port : Nat) (ts : Nat)
  | peerTransfer (ctx va : Nat) (bytes : List Byte)
  | memoryCheckpoint
  | fullCheckpoint
  | checkpointRestore (image : CheckpointImage) (signature : BitVec 1056)
  | powerOnReset
  | bringUp (ok : Bool)
  | throttle
  | throttleResume
  | thermalTrip (die : Nat)
  | illegalInstruction (w : Word32)
  | contextDestroy (ctx : Nat)
  | checkpointDrainComplete
  deriving DecidableEq, Repr

end Sys2Proof
end

