-- ==== Sys2Proof/WellFormed.lean ====
section
/-!
DEFINITION. Which instructions have a word: the ranges of their fields (02 R45 to R60, R61, R64, 04 R141).
An event has no word and no condition.
-/

namespace Sys2Proof

/-- The assigned CSR numbers (02 R50). -/
def csrAssigned (c : Nat) : Bool :=
  decide (c ≤ 4) || (decide (8 ≤ c) && decide (c ≤ 0xB)) || (decide (0x10 ≤ c) && decide (c ≤ 0x13)) ||
  decide (c = 0x18) || decide (c = 0x19) || (decide (0x20 ≤ c) && decide (c ≤ 0x23)) ||
  (decide (0x28 ≤ c) && decide (c ≤ 0x2B))

/-- The CSRs whose Written by column includes SW (02 R50, R51). -/
def csrWritable (c : Nat) : Bool :=
  (decide (0x10 ≤ c) && decide (c ≤ 0x13)) || decide (c = 0x18) ||
  (decide (0x20 ≤ c) && decide (c ≤ 0x23)) || (decide (0x28 ≤ c) && decide (c ≤ 0x2B))

/-- The numbers of the loop registers in the fb field of LREG (02 R49). -/
def loopRegField (f : Nat) : Bool := decide (f ≤ 10) && decide (f % 4 ≠ 3)

/-- A destination code of 02 R53 that an operation other than DEFER may name (02 R64, 04 R138). -/
def gridDest (d : BitVec 5) : Bool :=
  decide (d.toNat ≤ 20) || (decide (22 ≤ d.toNat) && decide (d.toNat ≤ 25)) || decide (d.toNat = 31)

/-- Two sources, mod at most `top`. -/
def gridTwo (f : GridWord) (top : Nat) : Bool := gridDest f.d && decide (f.c = 0) && decide (f.m.toNat ≤ top)

/-- One source, mod at most `top`. -/
def gridOne (f : GridWord) (top : Nat) : Bool :=
  gridDest f.d && decide (f.b = 0) && decide (f.c = 0) && decide (f.m.toNat ≤ top)

/-- CVT's kinds that take a pair of sources (04 R148). -/
def cvtPair (m : BitVec 5) : Bool := decide (m.toNat / 2 = 7) || decide (10 ≤ m.toNat / 2)

/-- MSK's functions that take a vector source (04 R155). -/
def mskSource (m : BitVec 5) : Bool := decide (2 ≤ m.toNat / 4) && decide (m.toNat / 4 ≤ 4)

/-- The fields of a well-formed instruction lie in the ranges the encoding rules give. -/
def wellFormed : Instr → Bool
  | .sext _ _ w => decide (w.toNat ≤ 2)
  | .loop l _ e => decide (l ≠ 3) && decide (1 ≤ e.toNat) && decide (e.toNat ≤ 4095)
  | .loopi l _ e => decide (l ≠ 3) && decide (1 ≤ e.toNat)
  | .loops l _ e => decide (l ≠ 3) && decide (1 ≤ e.toNat)
  | .lregRead _ f => loopRegField f.toNat
  | .lregWrite _ f => loopRegField f.toNat
  | .mark g s => decide (g.toNat ≤ 4) && decide (s ≠ 0)
  | .amo _ _ p _ _ _ => decide (p.toNat ≤ 10) && decide (p ≠ 9)
  | .csrr _ c => csrAssigned c.toNat
  | .csrw _ _ c => csrWritable c.toNat
  | .csrs _ _ c => csrWritable c.toNat
  | .csrc _ _ c => csrWritable c.toNat
  | .ringcfg _ n => decide (n.toNat ≤ 15)
  | .ringq _ n s => decide (n.toNat ≤ 15) && decide (s.toNat ≤ 3)
  | .wload _ m => decide (m.toNat ≤ 15)
  | .mmaR _ _ m => decide (m.toNat ≤ 15)
  | .mmaC _ _ m => decide (m.toNat ≤ 15)
  | .chsplice _ _ k => decide (k.toNat ≤ 15)
  | .lread _ m => decide (m.toNat ≤ 15)
  | .lreadM _ m => decide (m.toNat ≤ 15)
  | .sstr _ n => decide (n.toNat ≤ 7)
  | .cpf _ _ c => decide (c ≠ 0)
  | .gstat _ _ _ s => decide (s.toNat ≤ 4)
  | .snapq _ _ s => decide (s.toNat ≤ 5)
  | .fadd f => gridTwo f 0
  | .fsub f => gridTwo f 0
  | .fmul f => gridTwo f 0
  | .fma f => gridDest f.d && decide (f.m = 0)
  | .fms f => gridDest f.d && decide (f.m = 0)
  | .fmin f => gridTwo f 0
  | .fmax f => gridTwo f 0
  | .fcmp f => gridTwo f 7
  | .fsel f => gridTwo f 7
  | .fsgn f => gridTwo f 2 && (decide (f.m = 2) || decide (f.b = 0))
  | .fspec f => gridOne f 4
  | .cvt f => gridDest f.d && decide (f.c = 0) && (cvtPair f.m || decide (f.b = 0)) &&
      (decide (7 ≤ f.m.toNat / 2) || decide (f.m.toNat % 2 = 0))
  | .bf2 f => gridDest f.d && decide (f.m.toNat ≤ 3) && (decide (f.m = 3) || decide (f.c = 0))
  | .iadd f => gridTwo f 2
  | .isub f => gridTwo f 2
  | .imul f => gridTwo f 2
  | .ilog f => gridTwo f 3
  | .ish f => gridTwo f 2
  | .icmp f => gridTwo f 5
  | .iminmax f => gridTwo f 3
  | .mov f => decide (f.b = 0) && decide (f.c = 0) &&
      ((decide (f.m = 0) && gridDest f.d) || (decide (f.m = 1) && gridDest f.d && decide (f.a.toNat ≤ 7)) ||
       (decide (16 ≤ f.m.toNat) && decide (f.d.toNat ≤ 7)))
  | .lperm f => gridTwo f 0
  | .lbcast f => gridOne f 15
  | .lred f => gridOne f 31 && (decide (f.m.toNat / 4 % 2 = 1) || decide (f.m.toNat / 8 = 0))
  | .lshift f => gridTwo f 15
  | .msk f => gridOne f 31 && (mskSource f.m || decide (f.a = 0))
  | .rngc f => gridDest f.d && decide (f.m.toNat ≤ 7)
  | .defer f => decide (f.d = 21) && decide (f.c = 0) && decide (f.m.toNat ≤ 3)
  | _ => true

end Sys2Proof
end

