-- ==== Sys2Proof/Decode.lean ====
section
/-!
DEFINITION. The decoder of CP words and of grid slot words, and after it the encoder, both from the encoding
tables of 02 R43 to R60. Every word that is no instruction decodes to nothing (02 R61); every slot word that the
loader refuses by 02 R64 decodes to nothing.
-/

namespace Sys2Proof

/-- Bits [lo + n - 1 : lo] of a word (00 R7). -/
def fld (w : Word32) (lo n : Nat) : BitVec n := w.extractLsb' lo n

/-- d of RR, RRI, RI, U, Q, CR: [24:19] (02 R45). -/
def fd (w : Word32) : Reg := fld w 19 6
/-- a of RR, RRI, RI, Q, CR: [18:13] (02 R45). -/
def fa (w : Word32) : Reg := fld w 13 6
/-- b of RR, RRI, AM: [12:7] (02 R45). -/
def fb (w : Word32) : Reg := fld w 7 6
/-- fa of format E: [11:6] (02 R46). -/
def ea (w : Word32) : Reg := fld w 6 6
/-- fb of format E: [5:0] (02 R46). -/
def eb (w : Word32) : Reg := fld w 0 6
/-- unit of format E: [24:23] (02 R46). -/
def eu (w : Word32) : BitVec 2 := fld w 23 2
/-- fl of format E: [22:20] (02 R46). -/
def ef (w : Word32) : BitVec 3 := fld w 20 3
/-- idx of format E: [19:12] (02 R46). -/
def ei (w : Word32) : BitVec 8 := fld w 12 8

/-- Keeps an instruction when the reserved fields are zero and its own fields are in range (02 R61). -/
def keep (reservedZero : Bool) (i : Instr) : Option Instr := if reservedZero && wellFormed i then some i else none

/-- OP, major 0x04 (02 R55). -/
def decodeOp (w : Word32) : Option Instr :=
  match (fld w 0 7).toNat with
  | 0 => keep true (.add (fd w) (fa w) (fb w))
  | 1 => keep true (.sub (fd w) (fa w) (fb w))
  | 2 => keep true (.and (fd w) (fa w) (fb w))
  | 3 => keep true (.or (fd w) (fa w) (fb w))
  | 4 => keep true (.xor (fd w) (fa w) (fb w))
  | 5 => keep true (.sll (fd w) (fa w) (fb w))
  | 6 => keep true (.srl (fd w) (fa w) (fb w))
  | 7 => keep true (.sra (fd w) (fa w) (fb w))
  | 8 => keep true (.slt (fd w) (fa w) (fb w))
  | 9 => keep true (.sltn (fd w) (fa w) (fb w))
  | 10 => keep true (.min (fd w) (fa w) (fb w))
  | 11 => keep true (.max (fd w) (fa w) (fb w))
  | 12 => keep true (.minn (fd w) (fa w) (fb w))
  | 13 => keep true (.maxn (fd w) (fa w) (fb w))
  | 16 => keep (decide (fb w = 0)) (.clz (fd w) (fa w))
  | 17 => keep (decide (fb w = 0)) (.ctz (fd w) (fa w))
  | 18 => keep (decide (fb w = 0)) (.popc (fd w) (fa w))
  | 19 => keep true (.sext (fd w) (fa w) (fb w))
  | _ => none

/-- MULDIV, major 0x06 (02 R56). -/
def decodeMuldiv (w : Word32) : Option Instr :=
  match (fld w 0 7).toNat with
  | 0 => keep true (.mul (fd w) (fa w) (fb w))
  | 1 => keep true (.mulh (fd w) (fa w) (fb w))
  | 2 => keep true (.mulhn (fd w) (fa w) (fb w))
  | 4 => keep true (.div (fd w) (fa w) (fb w))
  | 5 => keep true (.divn (fd w) (fa w) (fb w))
  | 6 => keep true (.rem (fd w) (fa w) (fb w))
  | 7 => keep true (.remn (fd w) (fa w) (fb w))
  | _ => none

/-- Immediate shifts, major 0x0E (02 R57). -/
def decodeShift (w : Word32) : Option Instr :=
  match (fld w 6 7).toNat with
  | 0 => keep true (.slli (fd w) (fa w) (fld w 0 6))
  | 32 => keep true (.srli (fd w) (fa w) (fld w 0 6))
  | 64 => keep true (.srai (fd w) (fa w) (fld w 0 6))
  | _ => none

/-- LREG, major 0x27 (02 R57). -/
def decodeLreg (w : Word32) : Option Instr :=
  match (fld w 0 7).toNat with
  | 0 => keep (decide (fa w = 0)) (.lregRead (fd w) (fb w))
  | 1 => keep (decide (fd w = 0)) (.lregWrite (fa w) (fb w))
  | _ => none

/-- AMO, upper major 0x06 (02 R46, R59). -/
def decodeAmo (w : Word32) : Option Instr :=
  if fld w 3 4 = 9 then keep true (.amoCas (fd w) (fa w) (fb w) (fld w 2 1) (fld w 1 1) (fld w 0 1))
  else keep (decide (fd w = 0)) (.amo (fa w) (fb w) (fld w 3 4) (fld w 2 1) (fld w 1 1) (fld w 0 1))

/-- CSR access, upper major 0x07 (02 R46, R59, R51). -/
def decodeCsr (w : Word32) : Option Instr :=
  match (fld w 11 2).toNat with
  | 0 => keep (decide (fa w = 0)) (.csrr (fd w) (fld w 0 11))
  | 1 => keep true (.csrw (fd w) (fa w) (fld w 0 11))
  | 2 => keep true (.csrs (fd w) (fa w) (fld w 0 11))
  | _ => keep true (.csrc (fd w) (fa w) (fld w 0 11))

/-- MMA, upper major 0x14 (07 R221). -/
def decodeMma (w : Word32) : Option Instr :=
  match (ef w).toNat with
  | 0 => keep (decide (ea w = 0)) (.mmaR (eu w) (ei w) (eb w))
  | 1 => keep (decide (ea w = 0)) (.mmaC (eu w) (ei w) (eb w))
  | _ => none

/-- LREAD, upper major 0x1C (07 R248). -/
def decodeLread (w : Word32) : Option Instr :=
  match (ef w).toNat with
  | 0 => keep (decide (eu w = 0) && decide (ea w = 0)) (.lread (ei w) (eb w))
  | 1 => keep (decide (eu w = 0) && decide (ea w = 0)) (.lreadM (ei w) (eb w))
  | _ => none

/-- GRUN, upper major 0x22 (06 R204). -/
def decodeGrun (w : Word32) : Option Instr :=
  if eu w = 0 && ei w = 0 && eb w = 0 then
    match (ef w).toNat with
    | 0 => keep true (.grun (ea w))
    | 1 => keep true (.grunC (ea w))
    | 2 => keep true (.grunS (ea w))
    | 3 => keep true (.grunCS (ea w))
    | _ => none
  else none

/-- ERCHK, upper major 0x26 (06 R213). -/
def decodeErchk (w : Word32) : Option Instr :=
  if eu w = 0 && ei w = 0 then
    match (ef w).toNat with
    | 0 => keep (decide (ea w = 0) && decide (eb w = 0)) .erchkOff
    | 1 => keep true (.erchkOn (ea w) (eb w))
    | _ => none
  else none

/-- GWAIT, upper major 0x32 (13 R340). -/
def decodeGwait (w : Word32) : Option Instr :=
  match (fld w 0 13).toNat with
  | 0 => keep true (.gwait (fd w) (fa w))
  | 1 => keep true (.gwaitY (fd w) (fa w))
  | _ => none

/-- The CP's decoder (02 R54, R58): opcode is H and the major opcode, bits [31:25]. -/
def decode (w : Word32) : Option Instr :=
  match (fld w 25 7).toNat with
  | 0x01 => keep (decide (fd w = 0)) (.idle (fld w 0 19))
  | 0x02 => keep (decide (fd w = 0)) (.waitt (fa w) (fld w 0 13))
  | 0x04 => decodeOp w
  | 0x06 => decodeMuldiv w
  | 0x08 => keep true (.addi (fd w) (fa w) (fld w 0 13))
  | 0x09 => keep true (.andi (fd w) (fa w) (fld w 0 13))
  | 0x0A => keep true (.ori (fd w) (fa w) (fld w 0 13))
  | 0x0B => keep true (.xori (fd w) (fa w) (fld w 0 13))
  | 0x0C => keep true (.slti (fd w) (fa w) (fld w 0 13))
  | 0x0D => keep true (.sltni (fd w) (fa w) (fld w 0 13))
  | 0x0E => decodeShift w
  | 0x0F => keep true (.lui (fd w) (fld w 0 19))
  | 0x10 => keep (decide (fld w 6 1 = 0)) (.addsh (fd w) (fa w) (fb w) (fld w 0 6))
  | 0x11 => keep true (.madi (fd w) (fa w) (fb w) (fld w 0 7))
  | 0x18 => keep true (.beq (fd w) (fa w) (fld w 0 13))
  | 0x19 => keep true (.bne (fd w) (fa w) (fld w 0 13))
  | 0x1A => keep true (.blt (fd w) (fa w) (fld w 0 13))
  | 0x1B => keep true (.bge (fd w) (fa w) (fld w 0 13))
  | 0x1C => keep true (.bltn (fd w) (fa w) (fld w 0 13))
  | 0x1D => keep true (.bgen (fd w) (fa w) (fld w 0 13))
  | 0x1E => keep true (.j (fld w 0 25))
  | 0x1F => keep true (.jal (fd w) (fld w 0 19))
  | 0x20 => keep true (.jr (fd w) (fa w) (fld w 0 13))
  | 0x24 => keep (decide (fld w 21 4 = 0)) (.loop (fld w 19 2) (fa w) (fld w 0 13))
  | 0x25 => keep true (.loopi (fld w 23 2) (fld w 11 12) (fld w 0 11))
  | 0x26 => keep (decide (fld w 11 6 = 0)) (.loops (fld w 23 2) (fld w 17 6) (fld w 0 11))
  | 0x27 => decodeLreg w
  | 0x40 => keep true (.ldq (fd w) (fa w) (fld w 11 2) (fld w 9 2) (fld w 0 9))
  | 0x41 => keep (decide (fld w 0 19 = 0)) (.lqpop (fd w))
  | 0x42 => keep (decide (fld w 9 2 = 0)) (.stq (fd w) (fa w) (fld w 11 2) (fld w 0 9))
  | 0x43 => keep (decide (fld w 9 2 = 0)) (.lds (fd w) (fa w) (fld w 11 2) (fld w 0 9))
  | 0x44 => keep (decide (fld w 9 2 = 0)) (.sts (fd w) (fa w) (fld w 11 2) (fld w 0 9))
  | 0x45 => keep (decide (fld w 0 19 = 0)) (.mark (fld w 22 3) (fld w 19 3))
  | 0x46 => decodeAmo w
  | 0x47 => decodeCsr w
  | 0x48 => keep (decide (fd w = 0)) (.trap (fld w 0 19))
  | 0x49 => keep (decide (fd w = 0)) (.brk (fld w 0 19))
  | 0x4A => keep (decide (fld w 0 25 = 0)) .tret
  | 0x4B => keep (decide (fld w 0 25 = 0)) .retire
  | 0x4C => keep (decide (fld w 0 13 = 0)) (.rgenter (fd w) (fa w))
  | 0x4D => keep (decide (fld w 0 25 = 0)) .rgexit
  | 0x4E => keep (decide (fd w = 0)) (.realign (fa w) (fld w 0 13))
  | 0x50 => keep (decide (fld w 12 13 = 0)) (.ringcfg (ea w) (eb w))
  | 0x51 => keep (decide (eu w = 0) && decide (ei w = 0)) (.ringq (ea w) (eb w) (ef w))
  | 0x52 => keep (decide (ef w = 0) && decide (ei w = 0) && decide (eb w = 0)) (.fmtw (eu w) (ea w))
  | 0x53 => keep (decide (ef w = 0) && decide (ei w = 0) && decide (ea w = 0)) (.wload (eu w) (eb w))
  | 0x54 => decodeMma w
  | 0x56 => keep (decide (eu w = 0) && decide (ef w = 0) && decide (eb w = 0)) (.chbuild (ei w) (ea w))
  | 0x57 => keep (decide (eu w = 0) && decide (ef w = 0) && decide (fld w 0 12 = 0)) (.chclose (ei w))
  | 0x58 => keep (decide (eu w = 0) && decide (ef w = 0) && decide (fld w 0 12 = 0)) (.chfree (ei w))
  | 0x59 => keep (decide (eu w = 0) && decide (ef w = 0) && decide (eb w = 0)) (.chstat (ei w) (ea w))
  | 0x5A => keep (decide (eu w = 0) && decide (ef w = 0)) (.chsplice (ei w) (ea w) (eb w))
  | 0x5B => keep (decide (eu w = 0) && decide (ef w = 0) && decide (fld w 0 12 = 0)) (.lzero (ei w))
  | 0x5C => decodeLread w
  | 0x60 => keep (decide (fld w 12 13 = 0)) (.sstr (ea w) (eb w))
  | 0x61 => keep (decide (fld w 12 13 = 0) && decide (eb w = 0)) (.gcfg (ea w))
  | 0x62 => decodeGrun w
  | 0x64 => keep (decide (fld w 12 13 = 0)) (.copy (ea w) (eb w))
  | 0x65 => keep (decide (fld w 12 13 = 0)) (.copyd (ea w) (eb w))
  | 0x66 => decodeErchk w
  | 0x68 => keep (decide (fd w = 0) && decide (fld w 0 7 = 0)) (.cwb (fa w) (fb w))
  | 0x69 => keep (decide (fd w = 0) && decide (fld w 0 7 = 0)) (.cinv (fa w) (fb w))
  | 0x6A => keep (decide (fd w = 0) && decide (fld w 0 7 = 0)) (.cwbi (fa w) (fb w))
  | 0x6B => keep (decide (fd w = 0)) (.cpf (fa w) (fb w) (fld w 0 7))
  | 0x6C => keep (decide (fld w 0 7 = 0)) (.launch (fd w) (fa w) (fb w))
  | 0x70 => keep (decide (fld w 0 13 = 0)) (.fork (fd w) (fa w))
  | 0x71 => keep (decide (fd w = 0) && decide (fld w 0 13 = 0)) (.greport (fa w))
  | 0x72 => decodeGwait w
  | 0x73 => keep (decide (fld w 0 7 = 0)) (.gcancel (fd w) (fa w) (fb w))
  | 0x74 => keep true (.gstat (fd w) (fa w) (fb w) (fld w 0 7))
  | 0x78 => keep (decide (fld w 0 7 = 0)) (.snap (fd w) (fa w) (fb w))
  | 0x79 => keep (decide (fld w 0 13 = 0)) (.accept (fd w) (fa w))
  | 0x7A => keep (decide (fld w 0 13 = 0)) (.reject (fd w) (fa w))
  | 0x7B => keep (decide (fb w = 0)) (.snapq (fd w) (fa w) (fld w 0 7))
  | _ => none

/-! ### Grid slot words (02 R47, R60, R64) -/

/-- The fields of a grid-private word (02 R47). -/
def gridFields (w : Word32) : GridWord := ⟨fld w 20 5, fld w 15 5, fld w 10 5, fld w 5 5, fld w 0 5⟩

/-- Slot-C register fields name only x0 to x7, and immediate shifts are below 32 (02 R52, R64). -/
def slotCWord (w : Word32) : Bool :=
  let low : Reg → Bool := fun r => decide (r.toNat ≤ 7)
  match decode w with
  | some (.add d a b) | some (.sub d a b) | some (.and d a b) | some (.or d a b) | some (.xor d a b)
  | some (.sll d a b) | some (.srl d a b) | some (.sra d a b) | some (.slt d a b) | some (.sltn d a b)
  | some (.min d a b) | some (.max d a b) | some (.minn d a b) | some (.maxn d a b)
  | some (.mul d a b) | some (.mulh d a b) | some (.mulhn d a b) | some (.div d a b) | some (.divn d a b)
  | some (.rem d a b) | some (.remn d a b) => low d && low a && low b
  | some (.addsh d a b _) | some (.madi d a b _) => low d && low a && low b
  | some (.clz d a) | some (.ctz d a) | some (.popc d a) | some (.sext d a _) => low d && low a
  | some (.addi d a _) | some (.andi d a _) | some (.ori d a _) | some (.xori d a _)
  | some (.slti d a _) | some (.sltni d a _) => low d && low a
  | some (.slli d a s) | some (.srli d a s) | some (.srai d a s) => low d && low a && decide (s.toNat < 32)
  | some (.lui d _) => low d
  | _ => false

/-- A scalar word of slot C is one that slot C accepts (04 R158); nothing is asked of any other instruction. -/
def slotWordOk : Instr → Bool
  | .gridSlotCScalar w => slotCWord w
  | _ => true

/-- The grid-private operation a slot holds: slot 0 is A, 1 is B, 2 is C (02 R60). -/
def decodeGridOp (slot : Nat) (w : Word32) : Option Instr :=
  match slot, (fld w 25 7).toNat with
  | 0, 0x40 => keep true (.fadd (gridFields w))
  | 0, 0x41 => keep true (.fsub (gridFields w))
  | 0, 0x42 => keep true (.fmul (gridFields w))
  | 0, 0x43 => keep true (.fma (gridFields w))
  | 0, 0x44 => keep true (.fms (gridFields w))
  | 0, 0x45 => keep true (.fmin (gridFields w))
  | 0, 0x46 => keep true (.fmax (gridFields w))
  | 0, 0x47 => keep true (.fcmp (gridFields w))
  | 1, 0x48 => keep true (.fsel (gridFields w))
  | 0, 0x49 => keep true (.fsgn (gridFields w))
  | 1, 0x4A => keep true (.fspec (gridFields w))
  | 1, 0x4B => keep true (.cvt (gridFields w))
  | 0, 0x4C => keep true (.bf2 (gridFields w))
  | 0, 0x50 => keep true (.iadd (gridFields w))
  | 0, 0x51 => keep true (.isub (gridFields w))
  | 0, 0x52 => keep true (.imul (gridFields w))
  | 0, 0x53 => keep true (.ilog (gridFields w))
  | 0, 0x54 => keep true (.ish (gridFields w))
  | 0, 0x55 => keep true (.icmp (gridFields w))
  | 0, 0x56 => keep true (.iminmax (gridFields w))
  | 2, 0x58 => keep true (.mov (gridFields w))
  | 1, 0x59 => keep true (.lperm (gridFields w))
  | 1, 0x5A => keep true (.lbcast (gridFields w))
  | 1, 0x5B => keep true (.lred (gridFields w))
  | 1, 0x5C => keep true (.lshift (gridFields w))
  | 1, 0x5D => keep true (.msk (gridFields w))
  | 1, 0x60 => keep true (.rngc (gridFields w))
  | 1, 0x61 => keep true (.defer (gridFields w))
  | _, _ => none

/-- A slot word the loader accepts: IDLE 0 in any slot, a grid operation in its slot, a scalar word in slot C. -/
def decodeGrid (slot : Nat) (w : Word32) : Option Instr :=
  if w = 0x02000000#32 then some (.idle 0)
  else if slot = 2 && slotCWord w then some (.gridSlotCScalar w)
  else decodeGridOp slot w

/-! ### Encoding -/

/-- A word from its opcode [31:25] and the 25 bits below. -/
def pack (op : BitVec 7) (rest : BitVec 25) : Word32 := op ++ rest
/-- RR, and RRI with imm7 in place of func (02 R45). -/
def packRR (op : BitVec 7) (d a b : Reg) (f : BitVec 7) : Word32 := pack op (d ++ a ++ b ++ f)
/-- RI; B with a, b in the places of d, a (02 R45). -/
def packRI (op : BitVec 7) (d a : Reg) (i : BitVec 13) : Word32 := pack op (d ++ a ++ i)
/-- U (02 R45). -/
def packU (op : BitVec 7) (d : Reg) (i : BitVec 19) : Word32 := pack op (d ++ i)
/-- Q (02 R46). -/
def packQ (op : BitVec 7) (d a : Reg) (z c : BitVec 2) (o : BitVec 9) : Word32 := pack op (d ++ a ++ z ++ c ++ o)
/-- AM (02 R46). -/
def packAM (d a b : Reg) (p : BitVec 4) (q r w : BitVec 1) : Word32 := pack 0x46 (d ++ a ++ b ++ p ++ q ++ r ++ w)
/-- CR (02 R46). -/
def packCR (cop : BitVec 2) (d a : Reg) (c : BitVec 11) : Word32 := pack 0x47 (d ++ a ++ cop ++ c)
/-- E (02 R46). -/
def packE (op : BitVec 7) (u : BitVec 2) (f : BitVec 3) (i : BitVec 8) (a b : Reg) : Word32 :=
  pack op (u ++ f ++ i ++ a ++ b)
/-- A grid-private word (02 R47). -/
def packG (op : BitVec 7) (f : GridWord) : Word32 := pack op (f.d ++ f.a ++ f.b ++ f.c ++ f.m)

/-- The word of an instruction; an event has none. -/
def encode : Instr → Option Word32
  | .idle n => some (packU 0x01 0 n)
  | .waitt a i => some (packRI 0x02 0 a i)
  | .add d a b => some (packRR 0x04 d a b 0)
  | .sub d a b => some (packRR 0x04 d a b 1)
  | .and d a b => some (packRR 0x04 d a b 2)
  | .or d a b => some (packRR 0x04 d a b 3)
  | .xor d a b => some (packRR 0x04 d a b 4)
  | .sll d a b => some (packRR 0x04 d a b 5)
  | .srl d a b => some (packRR 0x04 d a b 6)
  | .sra d a b => some (packRR 0x04 d a b 7)
  | .slt d a b => some (packRR 0x04 d a b 8)
  | .sltn d a b => some (packRR 0x04 d a b 9)
  | .min d a b => some (packRR 0x04 d a b 10)
  | .max d a b => some (packRR 0x04 d a b 11)
  | .minn d a b => some (packRR 0x04 d a b 12)
  | .maxn d a b => some (packRR 0x04 d a b 13)
  | .clz d a => some (packRR 0x04 d a 0 16)
  | .ctz d a => some (packRR 0x04 d a 0 17)
  | .popc d a => some (packRR 0x04 d a 0 18)
  | .sext d a x => some (packRR 0x04 d a x 19)
  | .mul d a b => some (packRR 0x06 d a b 0)
  | .mulh d a b => some (packRR 0x06 d a b 1)
  | .mulhn d a b => some (packRR 0x06 d a b 2)
  | .div d a b => some (packRR 0x06 d a b 4)
  | .divn d a b => some (packRR 0x06 d a b 5)
  | .rem d a b => some (packRR 0x06 d a b 6)
  | .remn d a b => some (packRR 0x06 d a b 7)
  | .addi d a i => some (packRI 0x08 d a i)
  | .andi d a i => some (packRI 0x09 d a i)
  | .ori d a i => some (packRI 0x0A d a i)
  | .xori d a i => some (packRI 0x0B d a i)
  | .slti d a i => some (packRI 0x0C d a i)
  | .sltni d a i => some (packRI 0x0D d a i)
  | .slli d a s => some (packRI 0x0E d a ((0 : BitVec 7) ++ s))
  | .srli d a s => some (packRI 0x0E d a ((32 : BitVec 7) ++ s))
  | .srai d a s => some (packRI 0x0E d a ((64 : BitVec 7) ++ s))
  | .lui d i => some (packU 0x0F d i)
  | .addsh d a b s => some (packRR 0x10 d a b ((0 : BitVec 1) ++ s))
  | .madi d a b i => some (packRR 0x11 d a b i)
  | .beq a b o => some (packRI 0x18 a b o)
  | .bne a b o => some (packRI 0x19 a b o)
  | .blt a b o => some (packRI 0x1A a b o)
  | .bge a b o => some (packRI 0x1B a b o)
  | .bltn a b o => some (packRI 0x1C a b o)
  | .bgen a b o => some (packRI 0x1D a b o)
  | .j o => some (pack 0x1E o)
  | .jal d o => some (packU 0x1F d o)
  | .jr d a i => some (packRI 0x20 d a i)
  | .loop l a e => some (packRI 0x24 ((0 : BitVec 4) ++ l) a e)
  | .loopi l c e => some (pack 0x25 (l ++ c ++ e))
  | .loops l k e => some (pack 0x26 (l ++ k ++ (0 : BitVec 6) ++ e))
  | .lregRead d f => some (packRR 0x27 d 0 f 0)
  | .lregWrite a f => some (packRR 0x27 0 a f 1)
  | .ldq d a z c o => some (packQ 0x40 d a z c o)
  | .lqpop d => some (packU 0x41 d 0)
  | .stq d a z o => some (packQ 0x42 d a z 0 o)
  | .lds d a z o => some (packQ 0x43 d a z 0 o)
  | .sts d a z o => some (packQ 0x44 d a z 0 o)
  | .mark g s => some (pack 0x45 (g ++ s ++ (0 : BitVec 19)))
  | .amo a b p q r x => some (packAM 0 a b p q r x)
  | .amoCas d a b q r x => some (packAM d a b 9 q r x)
  | .csrr d c => some (packCR 0 d 0 c)
  | .csrw d a c => some (packCR 1 d a c)
  | .csrs d a c => some (packCR 2 d a c)
  | .csrc d a c => some (packCR 3 d a c)
  | .trap n => some (packU 0x48 0 n)
  | .brk n => some (packU 0x49 0 n)
  | .tret => some (pack 0x4A 0)
  | .retire => some (pack 0x4B 0)
  | .rgenter d a => some (packRI 0x4C d a 0)
  | .rgexit => some (pack 0x4D 0)
  | .realign a i => some (packRI 0x4E 0 a i)
  | .ringcfg a n => some (packE 0x50 0 0 0 a n)
  | .ringq d n s => some (packE 0x51 0 s 0 d n)
  | .fmtw u a => some (packE 0x52 u 0 0 a 0)
  | .wload u m => some (packE 0x53 u 0 0 0 m)
  | .mmaR u l m => some (packE 0x54 u 0 l 0 m)
  | .mmaC u l m => some (packE 0x54 u 1 l 0 m)
  | .chbuild i a => some (packE 0x56 0 0 i a 0)
  | .chclose i => some (packE 0x57 0 0 i 0 0)
  | .chfree i => some (packE 0x58 0 0 i 0 0)
  | .chstat i a => some (packE 0x59 0 0 i a 0)
  | .chsplice i a k => some (packE 0x5A 0 0 i a k)
  | .lzero s => some (packE 0x5B 0 0 s 0 0)
  | .lread s m => some (packE 0x5C 0 0 s 0 m)
  | .lreadM s m => some (packE 0x5C 0 1 s 0 m)
  | .sstr a n => some (packE 0x60 0 0 0 a n)
  | .gcfg a => some (packE 0x61 0 0 0 a 0)
  | .grun a => some (packE 0x62 0 0 0 a 0)
  | .grunC a => some (packE 0x62 0 1 0 a 0)
  | .grunS k => some (packE 0x62 0 2 0 k 0)
  | .grunCS k => some (packE 0x62 0 3 0 k 0)
  | .copy a n => some (packE 0x64 0 0 0 a n)
  | .copyd a n => some (packE 0x65 0 0 0 a n)
  | .erchkOn a b => some (packE 0x66 0 1 0 a b)
  | .erchkOff => some (packE 0x66 0 0 0 0 0)
  | .cwb a b => some (packRR 0x68 0 a b 0)
  | .cinv a b => some (packRR 0x69 0 a b 0)
  | .cwbi a b => some (packRR 0x6A 0 a b 0)
  | .cpf a b c => some (packRR 0x6B 0 a b c)
  | .launch d a b => some (packRR 0x6C d a b 0)
  | .fork d a => some (packRR 0x70 d a 0 0)
  | .greport a => some (packRR 0x71 0 a 0 0)
  | .gwait d a => some (packRR 0x72 d a 0 0)
  | .gwaitY d a => some (packRR 0x72 d a 0 1)
  | .gcancel d a b => some (packRR 0x73 d a b 0)
  | .gstat d a b s => some (packRR 0x74 d a b s)
  | .snap d a b => some (packRR 0x78 d a b 0)
  | .accept d a => some (packRR 0x79 d a 0 0)
  | .reject d a => some (packRR 0x7A d a 0 0)
  | .snapq d a s => some (packRR 0x7B d a 0 s)
  | .fadd f => some (packG 0x40 f)
  | .fsub f => some (packG 0x41 f)
  | .fmul f => some (packG 0x42 f)
  | .fma f => some (packG 0x43 f)
  | .fms f => some (packG 0x44 f)
  | .fmin f => some (packG 0x45 f)
  | .fmax f => some (packG 0x46 f)
  | .fcmp f => some (packG 0x47 f)
  | .fsel f => some (packG 0x48 f)
  | .fsgn f => some (packG 0x49 f)
  | .fspec f => some (packG 0x4A f)
  | .cvt f => some (packG 0x4B f)
  | .bf2 f => some (packG 0x4C f)
  | .iadd f => some (packG 0x50 f)
  | .isub f => some (packG 0x51 f)
  | .imul f => some (packG 0x52 f)
  | .ilog f => some (packG 0x53 f)
  | .ish f => some (packG 0x54 f)
  | .icmp f => some (packG 0x55 f)
  | .iminmax f => some (packG 0x56 f)
  | .mov f => some (packG 0x58 f)
  | .lperm f => some (packG 0x59 f)
  | .lbcast f => some (packG 0x5A f)
  | .lred f => some (packG 0x5B f)
  | .lshift f => some (packG 0x5C f)
  | .msk f => some (packG 0x5D f)
  | .rngc f => some (packG 0x60 f)
  | .defer f => some (packG 0x61 f)
  | .gridSlotCScalar x => some x
  | _ => none

/-- The slot that R60 assigns a grid-private operation: 0 is A, 1 is B, 2 is C; 3 for anything else. -/
def gridSlot : Instr → Nat
  | .fadd _ | .fsub _ | .fmul _ | .fma _ | .fms _ | .fmin _ | .fmax _ | .fcmp _ | .fsgn _ | .bf2 _ | .iadd _ | .isub _ | .imul _ | .ilog _ | .ish _ | .icmp _ | .iminmax _ => 0
  | .cvt _ | .defer _ | .fsel _ | .fspec _ | .lbcast _ | .lperm _ | .lred _ | .lshift _ | .msk _ | .rngc _ => 1
  | .mov _ | .gridSlotCScalar _ => 2
  | _ => 3

/-! ### Words as bytes (00 R7: little-endian) -/

/-- The `n` bytes of a number, least significant first. -/
def toBytes : Nat → Nat → List Byte
  | 0, _ => []
  | n + 1, v => BitVec.ofNat 8 v :: toBytes n (v / 256)

/-- The number whose bytes, least significant first, are the list. -/
def ofBytes : List Byte → Nat
  | [] => 0
  | b :: bs => b.toNat + 256 * ofBytes bs

/-- The instruction in a row's bits, laid out as the hardware stores the word and read back by the decoder. -/
def decodeTableWord (nbits w : Nat) : Option Instr :=
  decode (BitVec.ofNat 32 (ofBytes (toBytes 4 (w % 2 ^ nbits))))

end Sys2Proof
end

