-- ==== Sys2Proof/Machine/Num.lean ====
section
/-!
DEFINITION. Number formats and exact arithmetic (01 R15 to R42): a floating-point value is decoded to an exact
number, arithmetic is exact, and one rounding brings the result back into a format (R29).
-/

namespace Sys2Proof.Machine

/-- A binary floating-point format (R15). -/
structure Fmt where
  ebits : Nat
  fbits : Nat
  bias : Int
  /-- E4M3 has no infinities (R16) -/
  hasInf : Bool
  deriving DecidableEq, Repr

/-- binary64 (R15). -/
def f64 : Fmt := ⟨11, 52, 1023, true⟩
/-- FP32 (R15). -/
def f32 : Fmt := ⟨8, 23, 127, true⟩
/-- BF16 (R15). -/
def fbf : Fmt := ⟨8, 7, 127, true⟩
/-- FP16 (R15). -/
def f16 : Fmt := ⟨5, 10, 15, true⟩
/-- E4M3 (R15). -/
def e4m3 : Fmt := ⟨4, 3, 7, false⟩
/-- E5M2 (R15). -/
def e5m2 : Fmt := ⟨5, 2, 15, true⟩

/-- The exponent of the smallest subnormal (R15). -/
def Fmt.sub (f : Fmt) : Int := 1 - f.bias - f.fbits
/-- All-ones exponent, zero fraction. -/
def Fmt.top (f : Fmt) : Nat := (2 ^ f.ebits - 1) * 2 ^ f.fbits
/-- The canonical NaN (R15, R18). -/
def Fmt.nan (f : Fmt) : Nat := if f.hasInf then f.top + 2 ^ (f.fbits - 1) else f.top + 2 ^ f.fbits - 1
/-- The largest finite pattern (R15, R16). -/
def Fmt.maxFin (f : Fmt) : Nat := if f.hasInf then f.top - 1 else f.top + 2 ^ f.fbits - 2
/-- The sign bit. -/
def Fmt.signBit (f : Fmt) (neg : Bool) : Nat := if neg then 2 ^ (f.ebits + f.fbits) else 0

/-- An exact value: NaN, an infinity, or (-1)^neg * mag * 2^exp, keeping the sign of a zero (R16, R31). -/
inductive Fp where
  | nan
  | inf (neg : Bool)
  | fin (neg : Bool) (mag : Nat) (exp : Int)
  deriving DecidableEq, Repr

/-- The value of a pattern (R15, R16, R17, R19). -/
def Fmt.decode (f : Fmt) (bits : Nat) : Fp :=
  let neg := bits / 2 ^ (f.ebits + f.fbits) % 2 = 1
  let mag := bits % 2 ^ (f.ebits + f.fbits)
  if f.hasInf && decide (f.top < mag) then .nan
  else if f.hasInf && decide (mag = f.top) then .inf neg
  else if !f.hasInf && decide (mag = f.top + 2 ^ f.fbits - 1) then .nan
  else
    let e := mag / 2 ^ f.fbits
    let m := mag % 2 ^ f.fbits
    if e = 0 then .fin neg m f.sub else .fin neg (m + 2 ^ f.fbits) (f.sub + e - 1)

/-- The number of bits of a natural number. -/
def bitLen (n : Nat) : Nat := if n = 0 then 0 else Nat.log2 n + 1

/-- m * 2^e as an integer over a step of 2^s: quotient and, where s is above e, the discarded part. -/
def roundAt (rtz : Bool) (m : Nat) (e s : Int) : Nat :=
  if s ≤ e then m * 2 ^ (e - s).toNat
  else
    let k := (s - e).toNat
    let q := m / 2 ^ k
    let r := m % 2 ^ k
    if rtz then q
    else if 2 ^ k < 2 * r then q + 1
    else if 2 * r = 2 ^ k then q + q % 2
    else q

/-- One rounding of a finite value into a format, then the destination's range (R29). -/
def Fmt.encodeFin (f : Fmt) (rtz sat neg : Bool) (m : Nat) (e : Int) : Nat :=
  let step := max (e + bitLen m - (f.fbits + 1)) f.sub
  let q := roundAt rtz m e step
  let bits := if q = 0 then 0 else (step - f.sub).toNat * 2 ^ f.fbits + q
  let above := f.maxFin < bits
  f.signBit neg * (if above && !rtz && !sat && !f.hasInf then 0 else 1) +
    (if above then (if rtz || sat then f.maxFin else if f.hasInf then f.top else f.nan) else bits)

/-- A conversion into a format (R29, R18, R31): `rtz` selects the rounding, `sat` saturates. -/
def Fmt.encode (f : Fmt) (rtz sat : Bool) : Fp → Nat
  | .nan => f.nan
  | .inf neg => if sat then f.signBit neg + f.maxFin else if f.hasInf then f.signBit neg + f.top else f.nan
  | .fin neg m e => f.encodeFin rtz sat neg m e

/-- Round to nearest-even into a format. -/
def Fmt.rne (f : Fmt) (v : Fp) : Nat := f.encode false false v

/-! ### Exact arithmetic (R31) -/

/-- The signed integer of a finite value over 2^s, for s at or below its exponent. -/
def scaled (neg : Bool) (m : Nat) (e s : Int) : Int :=
  let v : Int := m * 2 ^ (e - s).toNat
  if neg then -v else v

/-- The exact value n * 2^s, +0 for n = 0. -/
def ofInt (n s : Int) : Fp := .fin (decide (n < 0)) n.natAbs s

/-- Changes the sign. -/
def Fp.negate : Fp → Fp
  | .nan => .nan
  | .inf n => .inf (!n)
  | .fin n m e => .fin (!n) m e

/-- Whether the value is NaN. -/
def Fp.isNan : Fp → Bool
  | .nan => true
  | _ => false

/-- The exact sum; +inf and -inf make NaN; a zero sum is -0 only if both addends are -0 (R31). -/
def Fp.add : Fp → Fp → Fp
  | .nan, _ => .nan
  | _, .nan => .nan
  | .inf a, .inf b => if a = b then .inf a else .nan
  | .inf a, .fin _ _ _ => .inf a
  | .fin _ _ _, .inf b => .inf b
  | .fin a m e, .fin b n g =>
    let s := min e g
    let v := scaled a m e s + scaled b n g s
    if v = 0 then .fin (a && b && decide (m = 0) && decide (n = 0)) 0 s else ofInt v s

/-- The exact product; zero times an infinity makes NaN; the sign is the exclusive OR (R31, R32). -/
def Fp.mul : Fp → Fp → Fp
  | .nan, _ => .nan
  | _, .nan => .nan
  | .inf a, .inf b => .inf (a != b)
  | .inf a, .fin b n _ => if n = 0 then .nan else .inf (a != b)
  | .fin a m _, .inf b => if m = 0 then .nan else .inf (a != b)
  | .fin a m e, .fin b n g => .fin (a != b) (m * n) (e + g)

/-- Times 2^k. -/
def Fp.scale (k : Int) : Fp → Fp
  | .fin a m e => .fin a m (e + k)
  | v => v

/-- The order of two values that are not NaN, -0 below +0 (R31). -/
def Fp.lt : Fp → Fp → Bool
  | .nan, _ => false
  | _, .nan => false
  | .inf a, .inf b => a && !b
  | .inf a, .fin _ _ _ => a
  | .fin _ _ _, .inf b => !b
  | .fin a m e, .fin b n g =>
    let s := min e g
    let x := scaled a m e s
    let y := scaled b n g s
    decide (x < y) || (decide (x = y) && decide (m = 0) && a && !b)

/-- IEEE comparison: zeros are equal. -/
def Fp.ltIeee (x y : Fp) : Bool :=
  match x, y with
  | .fin a m e, .fin b n g => decide (scaled a m e (min e g) < scaled b n g (min e g))
  | _, _ => Fp.lt x y

/-- IEEE equality: NaN differs from everything, zeros are equal. -/
def Fp.eqIeee : Fp → Fp → Bool
  | .inf a, .inf b => a == b
  | .fin a m e, .fin b n g => decide (scaled a m e (min e g) = scaled b n g (min e g))
  | _, _ => false

/-- The smaller value, NaN when either is NaN (R39). -/
def Fp.minOf (x y : Fp) : Fp := if x.isNan || y.isNan then .nan else if y.lt x then y else x
/-- The greater value, NaN when either is NaN (R39). -/
def Fp.maxOf (x y : Fp) : Fp := if x.isNan || y.isNan then .nan else if x.lt y then y else x

/-- The integer nearest n * 2^s, ties to even, or toward zero (R30). -/
def roundInt (rtz : Bool) (neg : Bool) (m : Nat) (e : Int) : Int :=
  let q : Int := roundAt rtz m e 0
  if neg then -q else q

/-- Conversion to an integer of `bits` bits: rounds, clamps; NaN gives 0 (R30). -/
def Fp.toInt (rtz : Bool) (bits : Nat) : Fp → Int
  | .nan => 0
  | .inf neg => if neg then -(2 ^ (bits - 1) : Nat) else (2 ^ (bits - 1) : Nat) - 1
  | .fin neg m e => max (-(2 ^ (bits - 1) : Nat)) (min ((2 ^ (bits - 1) : Nat) - 1) (roundInt rtz neg m e))

/-- An integer as an exact value. -/
def Fp.ofInteger (n : Int) : Fp := ofInt n 0

/-! ### FP32 lanes and binary64 elements -/

/-- The value of an FP32 lane. -/
def fp (b : BitVec 32) : Fp := f32.decode b.toNat
/-- Rounds to an FP32 lane. -/
def rne32 (v : Fp) : BitVec 32 := BitVec.ofNat 32 (f32.rne v)
/-- The value of a binary64 element. -/
def dp (b : BitVec 64) : Fp := f64.decode b.toNat
/-- Rounds to a binary64 element. -/
def rne64 (v : Fp) : BitVec 64 := BitVec.ofNat 64 (f64.rne v)

/-! ### DPT8 (R23) -/

/-- One term of a DPT8 code, in units of 2^-6. -/
def dptTerm (s c : Nat) : Int := if c = 7 then 0 else if s = 1 then -(2 ^ (6 - c) : Nat) else (2 ^ (6 - c) : Nat)

/-- The value of a DPT8 byte, in units of 2^-6. -/
def dptUnits (b : Nat) : Int := dptTerm (b / 128 % 2) (b / 16 % 8) + dptTerm (b / 8 % 2) (b % 8)

/-! ### Operand formats of a format word (R24 to R26) -/

/-- The value of an operand byte or half under a format code of R25. -/
def operand (fmt : Nat) (bits : Nat) : Fp :=
  match fmt with
  | 0 => e4m3.decode bits
  | 1 => e5m2.decode bits
  | 2 => Fp.ofInteger (BitVec.ofNat 8 bits).toInt
  | 3 => ofInt (dptUnits bits) (-6)
  | 4 => fbf.decode bits
  | _ => f16.decode bits

/-- Bytes of an element in a tile (R22). -/
def operandBytes (fmt : Nat) : Nat := if fmt ≤ 3 then 1 else 2

/-- The legal pairs (AFMT, WFMT) (R26). -/
def legalPair (a w : Nat) : Bool :=
  (decide (a ≤ 1) && decide (w ≤ 1)) || (a == 2 && w == 2) || ((a == 0 || a == 2) && w == 3) ||
  (a == 4 && w == 4) || (a == 5 && w == 5)

/-- A legal format word: known codes, a legal pair, [63:24] zero (R26). -/
def formatWordLegal (w : Word) : Bool :=
  legalPair (w.toNat % 16) (w.toNat / 16 % 16) && decide (w.toNat / 2 ^ 24 = 0)

/-- sA of a format word (R24). -/
def fwA (w : Word) : Int := (w.extractLsb' 8 8).toInt
/-- sW of a format word (R24). -/
def fwW (w : Word) : Int := (w.extractLsb' 16 8).toInt
/-- AFMT (R24). -/
def fwAfmt (w : Word) : Nat := w.toNat % 16
/-- WFMT (R24). -/
def fwWfmt (w : Word) : Nat := w.toNat / 16 % 16

/-- floor(log2 |v|) of a finite non-zero value (R33). -/
def Fp.logFloor : Fp → Option Int
  | .fin _ m e => if m = 0 then none else some (e + Nat.log2 m)
  | _ => none

/-- The larger of two optional exponents. -/
def maxExp : Option Int → Option Int → Option Int
  | none, y => y
  | x, none => x
  | some x, some y => some (max x y)

/-- The smallest k with n ≤ 2^k (R33). -/
def clog2 (n : Nat) : Nat := if n ≤ 1 then 0 else Nat.log2 (n - 1) + 1

/-! ### Link elements (R32, R36) -/

/-- combine of R32: 0 finite, 1 +infinity, 2 -infinity, 3 NaN. -/
def combineState (s t : BitVec 2) : BitVec 2 :=
  if s = 0 then t else if t = 0 then s else if s = t then s else 3

/-- One product entering an X64 element (R32): the new element, state, and whether entry rounded. -/
def enterX64 (anchor : Int) (p : Fp) (n : BitVec 64) (st : BitVec 2) : BitVec 64 × BitVec 2 × Bool :=
  match p with
  | .nan => (n, 3, false)
  | .inf neg => (n, combineState st (if neg then 2 else 1), false)
  | .fin neg m e =>
    let q := roundAt false m e anchor
    let exact := decide (anchor ≤ e) || decide (m % 2 ^ (anchor - e).toNat = 0)
    (n + BitVec.ofInt 64 (if neg then -(q : Int) else (q : Int)), st, !exact)

/-- A contribution entering an X64 element, product by product (R32). -/
def contributeX64 (anchor : Int) : List Fp → BitVec 64 × BitVec 2 × Bool → BitVec 64 × BitVec 2 × Bool
  | [], r => r
  | p :: ps, (n, st, ix) =>
    let r := enterX64 anchor p n st
    contributeX64 anchor ps (r.1, r.2.1, ix || r.2.2)

/-- Exact sum of a list, the first addend given. -/
def sumFp : List Fp → Fp → Fp
  | [], v => v
  | p :: ps, v => sumFp ps (v.add p)

/-- A contribution entering a D64 element: exact sum, one rounding (R36). An exact zero is -0 only if every
addend is -0 (R31), which the running sum keeps. -/
def contributeD64 (ps : List Fp) (v : BitVec 64) : BitVec 64 := rne64 (sumFp ps (dp v))

/-- The exact value of an X64 element (R32). -/
def x64Value (anchor : Int) (n : BitVec 64) (st : BitVec 2) : Fp :=
  if st = 1 then .inf false else if st = 2 then .inf true else if st = 3 then .nan else ofInt n.toInt anchor

/-! ### Special functions (R38) -/

/-- floor(sqrt n), digit by digit from 2^k down. -/
def isqrtLoop (n : Nat) : Nat → Nat → Nat
  | 0, r => r
  | k + 1, r =>
    let c := r + 2 ^ k
    isqrtLoop n k (if c * c ≤ n then c else r)
/-- floor(sqrt n). -/
def isqrt (n : Nat) : Nat := isqrtLoop n (bitLen n / 2 + 1) 0

/-- A quotient a / b with a sticky bit in the lowest place, scaled by 2^-(k+1). -/
def stickyDiv (a b k : Nat) : Nat :=
  let q := a * 2 ^ k / b
  2 * q + (if a * 2 ^ k % b = 0 then 0 else 1)

/-- Reciprocal (R38). -/
def specRcp : Fp → Fp
  | .nan => .nan
  | .inf neg => .fin neg 0 0
  | .fin neg m e => if m = 0 then .inf neg else .fin neg (stickyDiv 1 m 80) (-e - 81)

/-- Square root (R38): the root of m * 2^e with e even, to 60 further bits and a sticky bit. -/
def specSqrt : Fp → Fp
  | .nan => .nan
  | .inf neg => if neg then .nan else .inf false
  | .fin neg m e =>
    if m = 0 then .fin neg 0 0
    else if neg then .nan
    else
      let m' := if e % 2 = 0 then m else 2 * m
      let e' := if e % 2 = 0 then e else e - 1
      let n := m' * 2 ^ 80
      let r := isqrt n
      .fin false (2 * r + (if r * r = n then 0 else 1)) (e' / 2 - 41)

/-- Reciprocal square root (R38): sqrt(2^(160) / m'), with a sticky bit when inexact. -/
def specRsq : Fp → Fp
  | .nan => .nan
  | .inf neg => if neg then .nan else .fin false 0 0
  | .fin neg m e =>
    if m = 0 then .inf neg
    else if neg then .nan
    else
      let m' := if e % 2 = 0 then m else 2 * m
      let e' := if e % 2 = 0 then e else e - 1
      let n := 2 ^ 160 / m'
      let r := isqrt n
      .fin false (2 * r + (if r * r * m' = 2 ^ 160 then 0 else 1)) (-(e' / 2) - 81)

/-- The product of the factors 2^(2^-i), i = 1 to the list's length, chosen by the fraction's bits, at 256
fraction bits; `root` runs through the square roots of 2. -/
def exp2Loop : Nat → Nat → Nat → Nat → Nat
  | 0, _, _, acc => acc
  | k + 1, root, frac, acc =>
    let root' := isqrt (root * 2 ^ 256)
    let acc' := if frac / 2 ^ k % 2 = 1 then acc * root' / 2 ^ 256 else acc
    exp2Loop k root' frac acc'

/-- exp2 (R38): 2^floor(x) times a product over the fraction's bits, at 256 bits with a sticky bit
(DEDUCED, notes/assumptions/11.md). -/
def specExp2 : Fp → Fp
  | .nan => .nan
  | .inf neg => if neg then .fin false 0 0 else .inf false
  | .fin neg m e =>
    if m = 0 then .fin false 1 0
    else if decide (8 ≤ e + Nat.log2 m) then (if neg then .fin false 1 (-1000) else .inf false)
    else if decide (e + Nat.log2 m < -26) then .fin false 1 0
    else
      let f := (-e).toNat
      let v : Int := if neg then -(m * 2 ^ e.toNat : Nat) else (m * 2 ^ e.toNat : Nat)
      let whole := v / (2 ^ f : Nat)
      let frac := (v % (2 ^ f : Nat)).toNat
      if frac = 0 then .fin false 1 whole
      else .fin false (2 * exp2Loop f (2 ^ 257) frac (2 ^ 256) + 1) (whole - 257)

/-- The fraction bits of log2 of y in [1, 2), y at 384 fraction bits, by repeated squaring. -/
def log2Loop : Nat → Nat → Nat → Nat
  | 0, _, acc => acc
  | k + 1, y, acc =>
    let y2 := y * y / 2 ^ 384
    if 2 ^ 385 ≤ y2 then log2Loop k (y2 / 2) (2 * acc + 1) else log2Loop k y2 (2 * acc)

/-- log2 (R38): the exponent plus 120 fraction bits and a sticky bit (DEDUCED, notes/assumptions/11.md). -/
def specLog2 : Fp → Fp
  | .nan => .nan
  | .inf neg => if neg then .nan else .inf false
  | .fin neg m e =>
    if m = 0 then .inf true
    else if neg then .nan
    else
      let k := Nat.log2 m
      let whole := e + k
      if m = 2 ^ k then ofInt whole 0
      else
        let frac := log2Loop 120 (m * 2 ^ 384 / 2 ^ k) 0
        ofInt (whole * (2 ^ 121 : Nat) + (2 * frac + 1 : Nat)) (-121)

/-! ### Lane reductions (R39) -/

/-- Pairs up neighbours. -/
def pairUp {α : Type} (op : α → α → α) : List α → List α
  | a :: b :: l => op a b :: pairUp op l
  | l => l

/-- The fixed pairwise tree of four levels over 16 values (R39). -/
def tree16 (op : BitVec 32 → BitVec 32 → BitVec 32) (l : List (BitVec 32)) : BitVec 32 :=
  (pairUp op (pairUp op (pairUp op (pairUp op l)))).headD 0

/-! ### Random numbers (R40 to R42) -/

/-- One round of Philox-4x32. -/
def philoxRound (k0 k1 c0 c1 c2 c3 : BitVec 32) : BitVec 32 × BitVec 32 × BitVec 32 × BitVec 32 :=
  let p0 : BitVec 64 := 0xD2511F53 * c0.setWidth 64
  let p1 : BitVec 64 := 0xCD9E8D57 * c2.setWidth 64
  (p1.extractLsb' 32 32 ^^^ c1 ^^^ k0, p1.extractLsb' 0 32, p0.extractLsb' 32 32 ^^^ c3 ^^^ k1, p0.extractLsb' 0 32)

/-- `n` rounds, the key words advancing between rounds (R40). -/
def philoxLoop : Nat → BitVec 32 → BitVec 32 → BitVec 32 × BitVec 32 × BitVec 32 × BitVec 32 →
    BitVec 32 × BitVec 32 × BitVec 32 × BitVec 32
  | 0, _, _, c => c
  | n + 1, k0, k1, (c0, c1, c2, c3) =>
    philoxLoop n (k0 + 0x9E3779B9) (k1 + 0xBB67AE85) (philoxRound k0 k1 c0 c1 c2 c3)

/-- Philox-4x32-10 (R40). -/
def philox (k0 k1 c0 c1 c2 c3 : BitVec 32) : BitVec 32 × BitVec 32 × BitVec 32 × BitVec 32 :=
  philoxLoop 10 k0 k1 (c0, c1, c2, c3)

/-! ### SHA-512 (03, 06 R211, 18 R396): as published in FIPS 180-4 -/

/-- The 64-bit round constants of SHA-512: the first 64 bits of the fractional parts of the cube roots of the
first eighty primes. -/
def shaPrimes : List Nat :=
  [2, 3, 5, 7, 11, 13, 17, 19, 23, 29, 31, 37, 41, 43, 47, 53, 59, 61, 67, 71] ++
  [73, 79, 83, 89, 97, 101, 103, 107, 109, 113, 127, 131, 137, 139, 149, 151, 157, 163, 167, 173] ++
  [179, 181, 191, 193, 197, 199, 211, 223, 227, 229, 233, 239, 241, 251, 257, 263, 269, 271, 277, 281] ++
  [283, 293, 307, 311, 313, 317, 331, 337, 347, 349, 353, 359, 367, 373, 379, 383, 389, 397, 401, 409]

/-- floor(cbrt n), bit by bit from 2^k down. -/
def icbrtLoop (n : Nat) : Nat → Nat → Nat
  | 0, r => r
  | k + 1, r =>
    let c := r + 2 ^ k
    icbrtLoop n k (if c * c * c ≤ n then c else r)

/-- The round constant of a prime. -/
def shaK (p : Nat) : BitVec 64 := BitVec.ofNat 64 (icbrtLoop (p * 2 ^ 192) 68 0)
/-- The initial hash value of a prime: the fractional part of its square root. -/
def shaH (p : Nat) : BitVec 64 := BitVec.ofNat 64 (isqrt (p * 2 ^ 128))

/-- The message schedule: 16 words extended to 80, newest first. -/
def shaExtend : Nat → List (BitVec 64) → List (BitVec 64)
  | 0, w => w
  | n + 1, w =>
    let a := w.getD 1 0
    let b := w.getD 14 0
    let s1 := a.rotateRight 19 ^^^ a.rotateRight 61 ^^^ (a >>> 6)
    let s0 := b.rotateRight 1 ^^^ b.rotateRight 8 ^^^ (b >>> 7)
    shaExtend n ((s1 + w.getD 6 0 + s0 + w.getD 15 0) :: w)

/-- One round over the eight working words. -/
def shaStep (k w : BitVec 64) (h : List (BitVec 64)) : List (BitVec 64) :=
  match h with
  | [a, b, c, d, e, f, g, i] =>
    let t1 := i + (e.rotateRight 14 ^^^ e.rotateRight 18 ^^^ e.rotateRight 41) + ((e &&& f) ^^^ (~~~e &&& g)) + k + w
    let t2 := (a.rotateRight 28 ^^^ a.rotateRight 34 ^^^ a.rotateRight 39) + ((a &&& b) ^^^ (a &&& c) ^^^ (b &&& c))
    [t1 + t2, a, b, c, d + t1, e, f, g]
  | l => l

/-- The rounds over a schedule. -/
def shaRounds : List Nat → List (BitVec 64) → List (BitVec 64) → List (BitVec 64)
  | p :: ps, w :: ws, h => shaRounds ps ws (shaStep (shaK p) w h)
  | _, _, h => h

/-- A big-endian 64-bit word of eight bytes. -/
def beWord (l : List Byte) : BitVec 64 := BitVec.ofNat 64 (l.foldl (fun a b => a * 256 + b.toNat) 0)

/-- The 16 words of a 128-byte block, newest first. -/
def shaBlock : Nat → List Byte → List (BitVec 64)
  | 0, _ => []
  | n + 1, l => shaBlock n (l.drop 8) ++ [beWord (l.take 8)]

/-- One compression. -/
def shaCompress (h : List (BitVec 64)) (block : List Byte) : List (BitVec 64) :=
  let w := (shaExtend 64 (shaBlock 16 block)).reverse
  (shaRounds shaPrimes w h).zipWith (· + ·) h

/-- All blocks of a padded message. -/
def shaBlocks : Nat → List Byte → List (BitVec 64) → List (BitVec 64)
  | 0, _, h => h
  | n + 1, l, h => shaBlocks n (l.drop 128) (shaCompress h (l.take 128))

/-- The big-endian bytes of a number. -/
def beBytes : Nat → Nat → List Byte
  | 0, _ => []
  | n + 1, v => beBytes n (v / 256) ++ [BitVec.ofNat 8 v]

/-- The padded message: a one bit, zeros, and the bit length in 128 bits. -/
def shaPad (l : List Byte) : List Byte :=
  l ++ [0x80] ++ List.replicate ((239 - l.length % 128) % 128) 0 ++ beBytes 16 (8 * l.length)

/-- SHA-512: 64 digest bytes, the first byte first. -/
def sha512 (l : List Byte) : List Byte :=
  let p := shaPad l
  (shaBlocks (p.length / 128) p ((shaPrimes.take 8).map shaH)).flatMap fun w => beBytes 8 w.toNat

/-! ### CRC-64 (18 R398) -/

/-- One bit of a most-significant-bit-first CRC-64 with the ECMA-182 polynomial. -/
def crcBit : Nat → BitVec 64 → BitVec 64
  | 0, c => c
  | n + 1, c => crcBit n (if c.getLsbD 63 then (c <<< 1) ^^^ 0x42F0E1EBA9EA3693 else c <<< 1)

/-- CRC-64 over bytes, initial value 0, no final inversion (18 R398, PRESUMED, notes/assumptions/25.md). -/
def crcBytes : List Byte → BitVec 64 → BitVec 64
  | [], c => c
  | b :: l, c => crcBytes l (crcBit 8 (c ^^^ (b.setWidth 64 <<< 56)))

end Sys2Proof.Machine
end

