-- ==== Sys2Proof/Machine/State.lean ====
section
/-!
DEFINITION. The state of a D12 package as plain data: every piece of architected state of the spec, the bookkeeping
that says what runs next, the reasons a step can stop, and the state at power-on reset.
-/

namespace Sys2Proof.Machine

/-- Which task, core, grid element and slot the running instruction or event belongs to (DESIGN CHOICE, notes/assumptions/5.md). -/
structure Focus where
  task : Nat := 0
  core : Nat := 0
  el : Nat := 0
  slot : Nat := 0
  deriving DecidableEq, Repr

/-! ### The control processor (02 R44, R48 to R50) -/

/-- One loop level: lc, ls and le (02 R49). -/
structure Loop where
  count : BitVec 32 := 0
  start : Word := 0
  stop : Word := 0
  deriving DecidableEq, Repr

/-- An entry of the load queue (03 R94, R97, R104). -/
structure LoadEntry where
  seq : Nat
  reg : Reg
  va : Word
  size : Nat
  /-- load class of the word; 4 marks an AMO -/
  cls : Nat
  /-- cycle of issue -/
  issue : Nat
  /-- code offset or address of the instruction -/
  pc : Word
  /-- the perform cycle in timed code; none while the home die is not known (03 R96) -/
  perform : Option Nat
  /-- the translation the access has been given, physical address and attributes; none while it has none (03 R96, 11 R313) -/
  tr : Option (Nat × Nat)
  /-- the counts of its translation have been made (03 R117) -/
  counted : Bool
  /-- the check's decision (05 R173): 0 on time or not made, 1 late, 2 late and a slide has passed since (05 R175) -/
  late : Nat
  /-- the tick at which the request may be served, then the tick at which the reply may land -/
  at' : Nat
  /-- order in which the request was put on the network; none before -/
  sent : Option Nat
  /-- storage address and slice to which the requester hashed the line when it sent the request (14 R355) -/
  hash : Option (Nat × Nat)
  value : Option Word
  landed : Bool
  poison : Bool
  deriving DecidableEq, Repr

/-- What a store-queue entry does (03 R99, R104, 08 R256, R258, 14 R359 to R363). -/
inductive StoreKind where
  | store (bytes : List Byte)
  /-- aop, 64-bit, operand, compare value, acq, rel -/
  | amo (aop : Nat) (wide : Bool) (v c : Word) (acq rel : Bool)
  /-- agent scope and storage bits of a MARK -/
  | mark (agent stor : Nat)
  deriving DecidableEq, Repr

/-- An entry of the store queue. -/
structure StoreEntry where
  seq : Nat
  va : Word
  issue : Nat
  pc : Word
  kind : StoreKind
  at' : Nat
  sent : Option Nat
  /-- storage address and slice to which the requester hashed the line (14 R355) -/
  hash : Option (Nat × Nat)
  /-- the translation the access has been given (03 R96, 11 R313) -/
  tr : Option (Nat × Nat)
  /-- the counts of its translation have been made (03 R117) -/
  counted : Bool
  /-- held for the Hedgerow since this tick (12 R334) -/
  heldSince : Option Nat
  deriving DecidableEq, Repr

/-- A range instruction in its queues (08 R256, 14 R361 to R363): CWB among the writes, CINV and CPF among the reads,
CWBI among both. -/
structure RangeEntry where
  seq : Nat
  /-- 0 CWB, 1 CINV, 2 CWBI, 3 CPF -/
  op : Nat
  va : Word
  len : Nat
  /-- read count of a CPF -/
  count : Nat
  issue : Nat
  pc : Word
  at' : Nat
  sent : Option Nat
  /-- storage address and slice to which the requester hashed its next line (14 R355) -/
  hash : Option (Nat × Nat)
  /-- the translations of its granules, in order: first address in the granule, physical address, attributes -/
  pages : List (Nat × Nat × Nat)
  /-- first address of its range not acted on yet -/
  next : Nat
  /-- a write-back of its next line waits for the Hedgerow since this tick (12 R334) -/
  heldSince : Option Nat
  deriving DecidableEq, Repr

/-! ### Scratchpad units (06) -/

/-- A ring (06 R189). -/
structure Ring where
  configured : Bool := false
  base : Nat := 0
  slot : Nat := 0
  count : Nat := 0
  claims : Nat := 0
  pops : Nat := 0
  arrivals : Nat := 0
  dcount : Nat := 0
  tags : SMap Nat := []
  arrived : SMap Bool := []
  /-- sequence numbers of which a write has performed -/
  begun : List Nat := []
  /-- slots popped in this cycle ahead of its writes, whose one sampling is still to come in it (06 R193) -/
  early : List Nat := []
  deriving DecidableEq, Repr

/-- A stream descriptor (06 R197). -/
structure StreamDesc where
  dir : Nat
  space : Nat
  cls : Nat
  kind : Nat
  die : Nat
  core : Nat
  off : Nat
  base : Nat
  /-- (COUNTk, STRIDEk), k = 0 to 3 -/
  levels : List (Nat × Int)
  deriving DecidableEq, Repr

/-- A stream staged by SSTR or committed by GRUN (06 R202, R204). -/
structure Stream where
  uid : Nat
  se : Nat
  addr : Nat
  pc : Word
  /-- cycle at which the descriptor is sampled -/
  at' : Nat
  desc : Option StreamDesc
  /-- the run that committed it -/
  run : Option Nat
  /-- the sequence numbers of the ring slots taken, by level-3 index -/
  slots : SMap Nat
  /-- pairs appended so far in deferral mode -/
  pairs : Nat
  /-- beats of a memory stream, by number: bytes fetched -/
  fetched : SMap (List Byte)
  done : Bool
  deriving DecidableEq, Repr

/-- A grid element's block of a configuration image (04 R136). -/
structure Block where
  /-- (A, B, C) words of bundle n -/
  words : SMap Word32 := []
  guards : SMap (BitVec 8) := []
  ks : SMap Word32 := []
  pro : BitVec 32 := 0
  epi : BitVec 32 := 0
  deriving DecidableEq, Repr

/-- A configuration image in the loader, the shadow, or a committed run (06 R203, R204). -/
structure Image where
  uid : Nat
  addr : Nat
  pc : Word
  /-- issue + 160 -/
  ready : Nat
  sampled : Bool
  /-- lowest failing word, or none (04 R139) -/
  bad : Option Nat
  bundles : Nat
  blocks : SMap Block
  deriving DecidableEq, Repr

/-- A committed run (06 R204, 04 R127). -/
structure Run where
  uid : Nat
  pc : Word
  issue : Nat
  /-- uid of the image, and whether this run commits it -/
  image : Nat
  commits : Bool
  n : Nat
  start : Option Nat
  started : Bool
  ended : Bool
  streams : List Nat
  deriving DecidableEq, Repr

/-- A grid element (02 R52, 04 R126). -/
structure Elem where
  v : Vector Vec 16 := Vector.replicate 16 (Vector.replicate 16 0)
  m : Vector (BitVec 16) 4 := Vector.replicate 4 0
  k : Vector (BitVec 32) 8 := Vector.replicate 8 0
  x : Vector (BitVec 32) 8 := Vector.replicate 8 0
  iter : BitVec 32 := 0
  pro : BitVec 32 := 0
  epi : BitVec 32 := 0
  /-- N, E, S, W -/
  ports : Vector Vec 4 := Vector.replicate 4 (Vector.replicate 16 0)
  strmIn : Vec := Vector.replicate 16 0
  strmOut : Vec := Vector.replicate 16 0
  /-- index of the bundle that issues next -/
  position : Nat := 0
  /-- the loop buffer: bundles and guards of the committed image -/
  buffer : Block := {}
  deriving DecidableEq, Repr

/-! ### Arrays and links (07) -/

/-- A command of an array (07 R216, R223). -/
structure ArrCmd where
  uid : Nat
  load : Bool
  /-- orientation C -/
  orientC : Bool
  link : Nat
  ring : Nat
  fw : Word
  pc : Word
  issue : Nat
  start : Nat
  /-- first byte of the slot taken at the start -/
  slotAddr : Nat
  /-- eA of the start (07 R220) -/
  eA : Option Int
  /-- bytes sampled so far, row by row -/
  bytes : List Byte
  /-- the tile multiplied by -/
  tile : Option Tile
  /-- identity of the link checked at the start -/
  checked : Option Nat
  poison : Bool
  deriving DecidableEq, Repr

/-- A matrix array (07 R215). -/
structure Arr where
  tile : Option Tile := none
  fq : List Word := []
  /-- poisoned entries of the format queue, counted from the oldest (17 R382) -/
  fqBad : List Nat := []
  waiting : List ArrCmd := []
  running : List ArrCmd := []
  /-- start cycle and pass time of the latest command scheduled, with whether it is a WLOAD -/
  last : Option (Nat × Nat × Bool) := none
  /-- start cycle and pass time of the latest command started (07 R215) -/
  lastStart : Nat := 0
  lastPass : Nat := 0
  /-- WFMT of the latest WLOAD issued (01 R27) -/
  wfmt : Option Nat := none
  deriving DecidableEq, Repr

/-- The role of a link slot (07 R226). -/
inductive Role where
  | unbuilt | hop | residual
  deriving DecidableEq, Repr

/-- A link slot (07 R226). -/
structure Link where
  elems : SMap (BitVec 64) := []
  states : SMap (BitVec 2) := []
  role : Role := .unbuilt
  /-- identity of the CHBUILD that configured it -/
  chain : Nat := 0
  hop : Nat := 0
  received : Nat := 0
  refused : Nat := 0
  incoming : Option Partial := none
  sent : Option Partial := none
  inexact : Bool := false
  arrived : Bool := false
  complete : Bool := false
  forwarded : Bool := false
  storageError : Bool := false
  hopFailed : Bool := false
  deriving DecidableEq, Repr

/-- A hop entry (07 R231). -/
structure Hop where
  core : Nat
  slot : Nat
  d64 : Bool
  anchor : Int
  hfmt : Nat
  count : Nat
  hscale : Int
  rslot : Nat
  plat : Nat
  deriving DecidableEq, Repr

/-- A close specification (07 R237). -/
structure CloseSpec where
  ofmt : Nat
  rz : Bool
  sat : Bool
  cscl : Bool
  norm : Bool
  dring : Nat
  cring : Nat
  scale : BitVec 32
  nch : Nat
  deriving DecidableEq, Repr

/-- A chain built by one CHBUILD (07 R230 to R246). -/
structure Chain where
  id : Nat
  /-- the descriptor as sampled -/
  bytes : List Byte
  trapFrz : Bool
  scalar : Bool
  hops : List Hop
  close : CloseSpec
  /-- core that issued the CHBUILD, and its code offset -/
  by' : Nat
  pc : Word
  /-- hops whose configuration has arrived -/
  arrivedHops : List Nat
  /-- frozen hop and reason (07 R243, R244) -/
  frozen : Option (Nat × Nat)
  /-- CHCLOSE or CHFREE has issued -/
  ended : Bool
  deriving DecidableEq, Repr

/-! ### Copies (06 R205 to R211) -/

/-- One level of a copy's nest (06 R205). -/
structure CopyLevel where
  count : Nat
  circ : Bool
  start : Nat
  extent : Nat
  sstride : Int
  dstride : Int
  deriving DecidableEq, Repr

/-- A copy descriptor (06 R205). -/
structure CopyDesc where
  sbase : Nat
  dbase : Nat
  score : Nat
  dcore : Nat
  ssp : Nat
  scls : Nat
  dsp : Nat
  dcls : Nat
  sdie : Nat
  ddie : Nat
  tr : Bool
  esize : Nat
  digest : Nat
  /-- levels 0 to 5 -/
  levels : List CopyLevel
  deriving DecidableEq, Repr

/-- A copy command in an engine's queue (06 R207). -/
structure Copy where
  uid : Nat
  digest : Bool
  engine : Nat
  /-- logical core and logical die that issued it -/
  core : Nat
  die : Nat
  addr : Nat
  pc : Word
  issue : Nat
  start : Option Nat
  desc : Option CopyDesc
  /-- sequence numbers of the destination slots, by level-5 index -/
  dslots : SMap Nat
  /-- sequence numbers of the source slots -/
  sslots : SMap Nat
  /-- source bytes sampled or fetched, by row or tile -/
  staged : SMap (List Byte)
  /-- destination bytes performed, for the digest -/
  moved : List Byte
  /-- by row or tile, the offsets of its staged bytes that come from poisoned granules (17 R382) -/
  bad : SMap (List Nat)
  /-- rows staged, or tiles; rows performed -/
  stagedRows : Nat
  rowsDone : Nat
  /-- the last row has performed -/
  done : Bool
  deriving DecidableEq, Repr

/-! ### A core -/

/-- One core of a task's placement (02 R44, R48 to R52, 03, 06, 07). -/
structure Core where
  x : Vector Word 64 := Vector.replicate 64 0
  pc : Word := 0
  loops : Vector Loop 3 := Vector.replicate 3 {}
  /-- active levels, most recently activated first (03 R88) -/
  active : List Nat := []
  cause : Word := 0
  epc : Word := 0
  tval : Word := 0
  tvec : Word := 0
  psig : Word := 0
  handler : Bool := false
  hpc : Vector Word 4 := Vector.replicate 4 0
  hpe : Vector Word 4 := Vector.replicate 4 0
  /-- counts of the cycle under way, which a read of that cycle does not see (03 R118) -/
  hpcNow : Vector Word 4 := Vector.replicate 4 0
  /-- loose writes of counters and selectors, which govern from the next tick (03 R118) -/
  csrNext : List (Nat × Word) := []
  loads : List LoadEntry := []
  stores : List StoreEntry := []
  ranges : List RangeEntry := []
  code : SMap Byte := []
  scratch : SMap Byte := []
  /-- 64-byte scratchpad granules that are poisoned (17 R382) -/
  scratchPoison : List Nat := []
  /-- code words that read uncorrectable, by offset / 4, or 65,536 + address / 4 in loose code, and poisoned registers (17 R382) -/
  codePoison : List Nat := []
  regPoison : List Nat := []
  /-- poisoned entries of the load and the store queue, by sequence number, and grid registers, by element * 64 + register (17 R382) -/
  queuePoison : List Nat := []
  storePoison : List Nat := []
  gridPoison : List Nat := []
  shape : SMap (BitVec 32) := []
  /-- early-read checker: base and length (06 R213) -/
  checker : Nat × Nat := (0, 0)
  /-- cycle or tick of the next issue -/
  nextIssue : Nat := 0
  exited : Bool := false
  rings : SMap Ring := []
  arrays : SMap Arr := []
  links : SMap Link := []
  els : SMap Elem := []
  shadow : Option Image := none
  /-- images in use by committed runs -/
  images : List Image := []
  runs : List Run := []
  streams : List Stream := []
  deriving DecidableEq, Repr

/-- The bytes of a core's device-form parts in a task block, whose layout only the device knows (10 R295, DESIGN CHOICE,
notes/assumptions/22.md). -/
opaque deviceForm : Core → Nat → Byte
/-- The core that device-form bytes stand for when they are not those which the save wrote (10 R295, DESIGN CHOICE,
notes/assumptions/22.md). -/
opaque deviceCore : List Byte → Option Core

/-! ### Regions (05) -/

/-- The second part of an instruction that acts after its issue, and has no row of the table. -/
inductive Phase where
  | ringSample (n addr : Nat) (pc : Word)
  | ringQuiet (n : Nat) (pc : Word)
  | earlyCheck (unit : Nat) (spans : List (Nat × Nat)) (pc : Word) (by' : Nat)
  | ringApply (n base slot count : Nat)
  | ringPop (n seq : Nat)
  | ringCount (d : Reg) (n sel : Nat)
  | ldsSample (d : Reg) (addr n : Nat) (pc : Word)
  | stsWrite (addr : Nat) (bytes : List Byte)
  | fmtPush (arr : Nat) (v pc : Word)
  | rowSample (arr uid row : Nat)
  | chainSample (id addr : Nat) (pc : Word)
  | closeScales (chain : Nat) (tail : Link) (issue seq : Nat) (pc : Word) (normSlot : Option Nat)
  | linkComplete (slot : Nat)
  | engineWrite (addr : Nat) (bytes : List Byte)
  | ringWrite (w : RingWrite)
  | statSample (chain addr : Nat) (at' : Nat)
  | slotZero (slot : Nat) (pc : Word)
  | streamSample (uid : Nat)
  | imageSample (uid : Nat)
  | beatSample (uid beat : Nat)
  | deferWrite (uid : Nat) (pairs : List (BitVec 32 × BitVec 32))
  | copySample (uid : Nat)
  | copyTake (uid : Nat)
  | readTake (slot ring : Nat) (states : Bool) (pc : Word)
  | closeTake (chain : Nat) (pc : Word) (normSlot : Option Nat)
  | deferTake (uid : Nat) (pairs : List (BitVec 32 × BitVec 32))
  | deferPad (uid : Nat)
  | queueSend (seq : Nat)
  | loadServe (seq : Nat)
  | rangeAct (seq : Nat)
  | csrWrite (n : Nat) (v : Word)
  | checkerSet (lo n : Nat)
  | cycleOpen
  | cycleProbe
  | cycleEnd
  | taskEnd
  | noteState
  | tick
  deriving DecidableEq, Repr

/-- What runs next. -/
inductive Turn where
  | issue
  | event (i : Instr)
  | phase (p : Phase)
  deriving DecidableEq, Repr

/-- A write or sampling of a region that is due at a region cycle (05 R172 to R183): the pending-write lists and the
commands under way. Within a cycle the items run in ascending rank, then key, then seq. -/
structure Pend where
  due : Nat
  /-- place in the order of one cycle (DESIGN CHOICE, notes/assumptions/5.md) -/
  rank : Nat
  key : List Nat := []
  core : Nat
  el : Nat := 0
  slot : Nat := 0
  seq : Nat := 0
  act : Turn
  /-- an asynchronous item lands; it slides the region when it has not landed by its perform time (05 R173) -/
  landed : Bool := true
  landAt : Nat := 0
  /-- cycle at which its unit took it on, and the check's decision: 0 on time or not made, 1 late, 2 late and a slide has
  passed since (05 R173, R175) -/
  took : Nat := 0
  late : Nat := 0
  /-- order in which an engine's requests were put on the network; none before (08 R254) -/
  sent : Option Nat := none
  /-- the engine's physical die, the dies its requests go to, and the places they were hashed to (08 R254, 14 R355) -/
  die : Nat := 0
  homes : List Nat := []
  hash : List (Nat × Nat) := []
  /-- lines whose locks a write holds while it waits at its home for the Hedgerow (12 R334, 14 R354) -/
  held : List Nat := []
  /-- code offset of the instruction it belongs to, and that instruction's core (17 R408) -/
  pc : Word := 0
  by' : Nat := 0
  deriving DecidableEq, Repr

/-- A trap raised in the current cycle (03 R113, 17 R380). -/
structure TrapRec where
  core : Nat
  /-- place of the unit in the table of 05 R183 -/
  unit : Nat
  cause : Nat
  sub : Nat
  tval : Word
  epc : Word
  deriving DecidableEq, Repr

/-- What a fault record says of the fault (17 R381). -/
structure FaultInfo where
  cause : Word
  epc : Word
  tval : Word
  /-- freeze cycle; none in loose code -/
  freeze : Option Nat
  core : Nat
  timed : Bool
  multi : Bool
  handler : Bool
  deriving DecidableEq, Repr

/-- A freeze of a region (05 R174, R175, R182). -/
structure Freeze where
  why : FreezeWhy
  /-- the freeze tick -/
  tick : Nat
  /-- tick of the last landing -/
  lastLand : Nat
  /-- a resume tick that the distributor has named (05 R184) -/
  resume : Option Nat
  /-- the work of the frozen cycle has been tried and raises no trap (05 R175) -/
  probed : Bool := false
  /-- another member of a joined region has frozen it and will let it resume (18 R402) -/
  peer : Bool := false
  /-- ticks of the freeze during which the package throttled, which slidemax does not count (18 R407) -/
  throttled : Nat := 0
  deriving DecidableEq, Repr

/-- A region (05 R165 to R184). -/
structure Region where
  active : Bool := false
  /-- loading, before the entry tick has been reached -/
  entering : Bool := false
  desc : Nat := 0
  ncores : Nat := 0
  budget : Nat := 0
  xlat : Nat := 0
  live : BitVec 256 := 0
  entry : Nat := 0
  rt : Nat := 0
  slide : Nat := 0
  ahead : Nat := 0
  /-- address of the RGENTER -/
  enteredAt : Word := 0
  savedLoops : Vector Loop 3 := Vector.replicate 3 {}
  savedActive : List Nat := []
  /-- tick at which each core is ready (05 R170) -/
  readyAt : SMap Nat := []
  /-- this cycle's start checks are done -/
  opened : Bool := false
  freeze : Option Freeze := none
  /-- a pre-emption or throttle freeze decided for a cycle (05 R182, 18 R407) -/
  stopAt : Option (Nat × FreezeWhy) := none
  /-- freezes that other members of a joined region have decided, with their cycles (18 R402) -/
  peerStops : List (Nat × FreezeWhy) := []
  agenda : List Pend := []
  seq : Nat := 0
  traps : List TrapRec := []
  chains : SMap Chain := []
  copies : List Copy := []
  /-- copy engines allotted per logical die (06 R409) -/
  engines : SMap Nat := []
  /-- S and byte count of the latest command, by die * 8 + engine (06 R207) -/
  engineLast : SMap (Nat × Nat) := []
  /-- the cycle under way is tried only for its traps (05 R175) -/
  probe : Bool := false
  /-- destination of the RGENTER, and the tick since which a joined entry has waited (18 R402) -/
  dest : Reg := 0
  joinSince : Option Nat := none
  /-- a joined region: its first logical core here, and its logical cores over all members; 0 in a region of one package (18 R402) -/
  base : Nat := 0
  total : Nat := 0
  /-- this member, and the other members, meet the conditions of the exit (05 R180, 18 R402) -/
  ready : Bool := false
  othersReady : Bool := false
  /-- freeze cycle chosen for the expiry of the task's budget (10 R293) -/
  budgetAt : Option Nat := none
  /-- pending writes whose storage reads uncorrectable (17 R382) -/
  badPend : List Nat := []
  /-- firmware has declared the region's translation faults unresolvable (11 R314) -/
  declared : Bool := false
  /-- ports whose links a joined region uses and that have been trained anew (18 R400) -/
  cut : List Nat := []
  deriving DecidableEq, Repr

/-! ### Tasks, queues, contexts and groups (10 to 13) -/

/-- The state of a task (10 R276, R277). -/
inductive TaskState where
  | bound | running | freezing | saved | restoring | ending (e : EndKind) | gone
  deriving DecidableEq, Repr

/-- A loose instruction that waits (10 R298). -/
inductive Wait where
  | none
  | stores
  | load
  | engines
  | group (g : Nat) (yields : Bool)
  /-- a FORK that has passed its checks: the record that it read, and where it lies (13 R341) -/
  | fork (record : SMap Byte) (pa : Nat)
  /-- a GREPORT or GCANCEL that has been sent to the unit -/
  | report
  | cancel
  deriving DecidableEq, Repr

/-- A task (10). -/
structure Task where
  queue : Nat := 0
  subnum : Nat := 0
  ctx : Nat := 0
  prio : Nat := 0
  state : TaskState := .gone
  /-- the 128-byte record as claimed (10 R277) -/
  record : SMap Byte := []
  recordVa : Word := 0
  /-- physical die of each logical die, and (logical die, physical core) of each logical core (10 R278) -/
  dies : SMap Nat := []
  places : SMap (Nat × Nat) := []
  ncores : Nat := 1
  cores : SMap Core := []
  region : Region := {}
  viewId : Nat := 0
  viewBase : Nat := 0
  viewLen : Nat := 0
  group : Option (Nat × Nat) := none
  running : Nat := 0
  budget : Nat := 0
  wait : Wait := .none
  /-- a loose store that failed: its address (12 R335) -/
  failed : Option Word := none
  saveBlock : Option Nat := none
  /-- the state that the task block names (10 R295) -/
  noted : Nat := 0
  /-- tick at which the save under way, or the last one, is complete; cores ready after a restore -/
  saveAt : Nat := 0
  readyAt : SMap Nat := []
  /-- what the device-form parts of the task block stand for (10 R295, DESIGN CHOICE, notes/assumptions/22.md) -/
  savedCores : SMap Core := []
  /-- tick of the last region exit, whose elapsed time the region has counted (03 R117) -/
  exitTick : Option Nat := none
  /-- the count that the group unit answers to a GCANCEL (13 R345) -/
  answer : Option Nat := none
  /-- the fault that ends the task -/
  fault : Option FaultInfo := none
  deriving DecidableEq, Repr

/-- A queue (10 R275, R276, R282). -/
structure Queue where
  base : Word := 0
  log2n : Nat := 0
  ctx : Nat := 0
  prio : Nat := 0
  enabled : Bool := false
  subcount : Nat := 0
  claimcount : Nat := 0
  donecount : Nat := 0
  /-- submission numbers of cancelled records -/
  cancelled : List Nat := []
  /-- tick at which the head became ready, and tick of the last claim (10 R287) -/
  readyTick : Option Nat := none
  lastClaim : Nat := 0
  window : SMap Byte := []
  refused : Bool := false
  deriving DecidableEq, Repr

/-- One range slot of a context (12 R320). -/
structure Range where
  base : Nat := 0
  length : Nat := 0
  view : Nat := 0
  depth : Nat := 0
  lines : SMap Nat := []
  /-- physical intervals: start and length -/
  extent : List (Nat × Nat) := []
  deriving DecidableEq, Repr

/-- A TLB entry of a CP or a stream TLB: an aligned block of virtual addresses, its physical address and attributes
(11 R311). -/
structure TlbEntry where
  /-- the CP or engine that holds it -/
  unit : Nat
  base : Nat
  size : Nat
  pa : Nat
  attr : Nat
  deriving DecidableEq, Repr

/-- A Thavy link of a join that ends at this package: the member at its other end, this package's port, and for each logical core
of that member, numbered over the join, the latency λ(q, b) from the peer's port die to the core's die (18 R403; DESIGN CHOICE, notes/assumptions/61.md). -/
structure JoinLink where
  member : Nat
  port : Nat
  far : SMap Nat
  deriving DecidableEq, Repr

/-- The join configuration of a context (18 R402). -/
structure Join where
  self : Nat
  /-- first logical core of each member, in member order -/
  bases : List Nat
  /-- greatest route latency of a pair of other members -/
  latency : Nat
  /-- the links between other members are aligned -/
  aligned : Bool
  /-- the links that end at this package -/
  links : List JoinLink
  deriving DecidableEq, Repr

/-- This package's ports that a join uses. -/
def Join.ports (j : Join) : List Nat := j.links.map (·.port)

/-- A context (10 R274, 11 R302, 12 R320, R333, 17 R381, 18 R393, R402). -/
structure Context where
  ptroot : Nat := 0
  fqBase : Nat := 0
  fqLog2n : Nat := 0
  quota : Nat := 0
  ranges : SMap Range := []
  saveBase : Nat := 0
  saveStride : Nat := 0
  saveCount : Nat := 0
  held : List Nat := []
  cesMx : Nat := 1
  cesBx : Nat := 1
  isSealed : Bool := false
  /-- the wrapped form of the key that the context's sealed lines stand under (18 R393, R405) -/
  key : BitVec 320 := 0
  tdi : TdiState := .unlocked
  /-- the TDI has left its state, and its tasks are ending (18 R394) -/
  unlocking : Bool := false
  join : Option Join := none
  /-- members that have issued their RGENTER of a region to be joined, with their proposals (18 R402) -/
  joining : SMap JoinSize := []
  /-- translations held by the context's TLBs -/
  tlb : List TlbEntry := []
  /-- a translation flush of the context has begun and is not complete (11 R313) -/
  flushing : Bool := false
  /-- a write waits for the Hedgerow and firmware has been asked (12 R334) -/
  asked : Bool := false
  deriving DecidableEq, Repr

/-- A member of a sample group (13 R337 to R346). -/
structure Member where
  view : Nat := 0
  /-- 0 pending, then the status codes of 13 R343 -/
  status : Nat := 0
  reward : BitVec 32 := 0
  ended : Bool := false
  /-- way in which its task ended while the event is on its way to the unit -/
  ending : Option EndKind := none
  deriving DecidableEq, Repr

/-- A sample group (13 R337 to R349). -/
structure Group where
  record : SMap Byte := []
  pa : Nat := 0
  va : Word := 0
  ctx : Nat := 0
  parent : Nat := 0
  state : Nat := 0
  members : List Member := []
  forkTick : Nat := 0
  deadline : Nat := 0
  pause : Nat := 0
  pausedAt : Option Nat := none
  resTick : Nat := 0
  mean : BitVec 64 := 0
  sigma : BitVec 64 := 0
  view0 : Nat := 0
  nend : Nat := 0
  nrep : Nat := 0
  res : Nat := 0
  /-- queue and first submission number of the members, the parent's lead core at the FORK and the FORK's d (13 R342) -/
  queue : Nat := 0
  firstSub : Nat := 0
  core0 : Core := {}
  dest : Reg := 0
  /-- reports under way: member, value, tick at which it applies -/
  reports : List (Nat × BitVec 32 × Nat) := []
  /-- cancellations that have reached the unit: issuing task, index (none for all), tick -/
  cancels : List (Nat × Option Nat × Nat) := []
  deriving DecidableEq, Repr

/-! ### The memory system (11, 12, 14, 17) -/

/-- A version of a line: a shadow, a private line of a view, or a system-level shadow (12 R318, R322, R336). -/
structure Version where
  line : Nat
  view : Nat
  level : Nat
  ctx : Nat
  /-- none marks a granule that was absent -/
  content : Option (SMap Byte)
  poison : Bool := false
  deriving DecidableEq, Repr

/-- A die's copy of a remote-cacheable line (14 R356, R357). -/
structure CopyLine where
  die : Nat
  line : Nat
  bytes : SMap Byte
  dirty : BitVec 128
  /-- read count of a CPF fill (14 R359) -/
  reads : Option Nat := none
  poison : Bool := false
  deriving DecidableEq, Repr

/-- A byte that an engine write of a region has replaced, which reads issued before the write still see (08 R264). -/
structure OldByte where
  task : Nat
  /-- the write's perform cycle -/
  cycle : Nat
  /-- the die whose copy of the line the byte stood in; none for the home (14 R356) -/
  copy : Option Nat
  view : Nat
  /-- the engine's die -/
  die : Nat
  pa : Nat
  byte : Byte
  deriving DecidableEq, Repr

/-- An entry of a remap table (11 R315). -/
structure Remap where
  granule : Nat
  /-- the storage at which the granule stands before the flip, and after it -/
  home : Nat
  target : Nat
  /-- lines copied so far; the migration has flipped -/
  copied : Nat
  flipped : Bool
  deriving DecidableEq, Repr

/-- The event that a flit's payload carries, by the flit's kind, and the payload that carries an event: the layout is the device's own
(18 R398; DESIGN CHOICE, notes/assumptions/40.md). -/
opaque flitEvent : Nat → List Byte → Option Instr
/-- The payload of an event. -/
opaque flitBytes : Instr → List Byte

/-- A die (14 R353, R355, 17 R384, R386, 11 R315). -/
structure Die where
  sliceMap : SMap Nat := []
  smgen : Nat := 0
  retiredSlices : List Nat := []
  /-- those of them that were retired before the last power-on reset (14 R353; DEDUCED, notes/assumptions/21.md) -/
  fusedSlices : List Nat := []
  retiredCores : List Nat := []
  retiredLinks : SMap Nat := []
  /-- retired HBM4E channels, or GDDR7 device regions, of the die's memory (17 R384) -/
  retiredMemory : List Nat := []
  ras : List (List Byte) := []
  rasCount : Nat := 0
  remaps : List Remap := []
  /-- copy engine owners: engine, task -/
  ceOwner : SMap Nat := []
  /-- firmware's junction-temperature target (18 R397) -/
  thermalTarget : Nat := 0
  deriving DecidableEq, Repr

/-- A Thavy port (18 R398 to R401). -/
structure Port where
  /-- the port's die (00 R3) -/
  die : Nat := 0
  sendSeq : Nat := 0
  expectSeq : Nat := 0
  replay : List Flit := []
  resends : Nat := 0
  failed : Bool := false
  latency : Nat := 0
  aligned : Bool := false
  slew : Int := 0
  /-- tasks whose joined regions hold slots of the link's frames, with those slots (18 R399) -/
  reserved : SMap (List Nat) := []
  /-- who stands at the other end, as the last training found it (18 R396) -/
  peer : Word := 0
  deriving DecidableEq, Repr

/-- A host function (18 R388, R389, R391, R392). -/
structure HostFn where
  notify : SMap Byte := []
  rassel : Word := 0
  masked : List Nat := []
  msixPending : List Nat := []
  lastMsg : SMap Nat := []
  /-- addresses and data of the MSI-X table's entries, by vector (18 R388) -/
  msgs : SMap (Nat × Nat) := []
  /-- IDE streams that are bound to the function, with their keys (18 R392) -/
  ide : SMap Word := []
  deriving DecidableEq, Repr

/-- The SPDM responder of one transport (18 R395). -/
structure Spdm where
  versioned : Bool := false
  capable : Bool := false
  negotiated : Bool := false
  sessions : List (Nat × Bool × Nat) := []
  deriving DecidableEq, Repr

/-- The checkpoint machine (12 R336, 18 R404, R405). -/
structure Checkpoint where
  isOpen : Bool := false
  /-- a full checkpoint waits for its saves -/
  full : Bool := false
  deriving DecidableEq, Repr

/-- What the package sends out: MSI-X messages, SPDM answers, flits, peer writes, host completions. -/
inductive Output where
  | msix (fn vec : Nat) (message : Nat × Nat)
  | spdm (tr : Nat) (code : Nat) (bytes : List Byte)
  | hostData (bytes : List Byte)
  | hostError (fn : Nat)
  | flit (port : Nat) (f : Flit)
  | nak (port seq : Nat)
  /-- an event for logical core `core` of a joined region on another package (18 R403) -/
  | peer (core : Nat) (i : Instr)
  /-- granule records of a checkpoint that leave through the host port of a die (18 R404) -/
  | drain (port : Nat) (granules : List GranuleRecord)
  /-- the manifest that ends an image: granules with their digests, retired units, wrapped keys, signature (18 R405) -/
  | manifest (digests : List (Nat × BitVec 512)) (retired : List (Nat × Nat × Nat)) (keys : List (Nat × BitVec 320)) (signature : BitVec 1056)
  deriving DecidableEq, Repr

/-- Power and bring-up (18 R406, R407). -/
inductive Power where
  | on | held | removed
  deriving DecidableEq, Repr

/-- The throttle (18 R407): whether it holds, and the tick since which the limits have been kept. -/
structure Throttle where
  active : Bool := false
  below : Option Nat := none
  deriving DecidableEq, Repr

/-- A write of a host function, a peer (256) or the device itself (257) that waits at its home (12 R334, 14 R354): its context, origin,
virtual address and bytes; or the atomic add of a signal (10 R281). -/
structure HeldWrite where
  ctx : Nat
  origin : Nat
  va : Nat
  bytes : List Byte
  add : Bool := false
  deriving DecidableEq, Repr

/-- What a trap in timed code takes back: the state before the trapping cycle (17 R380, DEDUCED, notes/assumptions/9.md). -/
structure Before where
  task : Task
  mem : List Host.Cell
  poison : List Nat
  versions : List Version
  copies : List CopyLine
  contexts : SMap Context
  dies : SMap Die
  deadKey : List (Nat × Nat)
  history : List OldByte
  allocated : List Nat
  checkpoint : Checkpoint
  fns : SMap HostFn
  inbox : List (Nat × Instr)
  outbox : List Output
  deriving DecidableEq, Repr

/-- The package. -/
structure State where
  /-- package time counter, in ticks (05 R159) -/
  ptc : Nat
  slidemax : Nat
  aging : Nat
  pointer : Nat
  nextSelect : Nat
  bringUp : Nat
  power : Power
  throttle : Throttle
  /-- firmware's power target in watts (18 R397), and the number of the firmware image that runs (18 R396) -/
  powerTarget : Nat
  firmware : Nat
  replReq : Bool
  upstream : Option Nat
  mem : List Host.Cell
  poison : List Nat
  versions : List Version
  copies : List CopyLine
  /-- physical ranges with their owner context: start, length, owner (18 R393); ranges of lines under a destroyed key (18 R394) -/
  owners : List (Nat × Nat × Nat)
  /-- lines that an access through a page of home or remote-cacheable policy has at some time allocated in their slice (14 R352) -/
  allocated : List Nat
  deadKey : List (Nat × Nat)
  /-- bytes that engine writes of running regions have replaced (08 R264) -/
  history : List OldByte
  dies : SMap Die
  ports : SMap Port
  contexts : SMap Context
  queues : SMap Queue
  fns : SMap HostFn
  spdm : SMap Spdm
  checkpoint : Checkpoint
  /-- lines of the reserved Hedgerow pool, and of firmware's reserve for the system checkpoint (12 R333, R336) -/
  hedgePool : Nat
  reserve : Nat
  groups : SMap Group
  tasks : SMap Task
  /-- next task and group identities (the model's own) -/
  nextTask : Nat
  nextGroup : Nat
  inbox : List (Nat × Instr)
  outbox : List Output
  /-- host, peer and device writes that wait at their homes, in the order in which they arrived (12 R334, 14 R354) -/
  hostHeld : List HeldWrite
  cur : Focus
  turn : List (Focus × Turn)
  pre : Option Before
  /-- draws of free values, and requests put on the network (the model's own) -/
  fresh : Nat
  sendSeq : Nat
  deriving DecidableEq, Repr

/-- Why the machine stops. -/
inductive Fault where
  /-- raised by the step: a thermal trip has removed power (18 R407); safe, the spec says nothing runs -/
  | powerRemoved
  /-- raised by the step: bring-up failed and the part stays in reset (18 R406); safe -/
  | heldInReset
  deriving DecidableEq, Repr

/-- Why a step has no answer. -/
inductive Refusal where
  /-- raised by an arm of exec that has no meaning yet; safe -/
  | notModelled (mnemonic : String)
  deriving DecidableEq, Repr

/-- The package at power-on reset: ptc 0 (05 R159), slidemax 2^24 (02 R50), pointer 0 (10 R286), bring-up not begun
(18 R406); where the spec gives no value, a DESIGN CHOICE of notes/assumptions/1.md, 2.md, 21.md,
48.md or 60.md. -/
def State.reset : State where
  ptc := 0
  slidemax := 0x1000000
  aging := 0
  pointer := 0
  nextSelect := 0
  bringUp := 0
  power := .on
  throttle := {}
  powerTarget := 0
  firmware := 0
  replReq := Config.fuseReplReq
  upstream := none
  mem := []
  poison := []
  versions := []
  copies := []
  owners := []
  allocated := []
  deadKey := []
  history := []
  dies := []
  ports := (List.range Config.thavyPorts).map fun p => (p, { die := Config.portDie p })
  contexts := []
  queues := []
  fns := []
  spdm := []
  checkpoint := {}
  hedgePool := Config.hedgePool
  reserve := Config.checkpointReserve
  groups := []
  tasks := []
  nextTask := 0
  nextGroup := 0
  inbox := []
  outbox := []
  hostHeld := []
  cur := {}
  turn := []
  pre := none
  fresh := 0
  sendSeq := 0

end Sys2Proof.Machine
end

