-- ==== Sys2Proof/Machine/Memory.lean ====
section
/-!
DEFINITION. The memory system: bytes by storage address, the remap tables (11 R315), the page-table walk
(11 R302 to R310), line versions (12 R318 to R336) and copies of remote-cacheable lines (14 R356 to R359).
-/

namespace Sys2Proof.Machine

/-! ### Bytes -/

/-- The little-endian bytes of a number (00 R7). -/
def leBytes : Nat → Nat → List Byte
  | 0, _ => []
  | n + 1, v => BitVec.ofNat 8 v :: leBytes n (v / 256)

/-- The number of little-endian bytes (00 R7). -/
def leNat : List Byte → Nat
  | [] => 0
  | b :: l => b.toNat + 256 * leNat l

/-- `n` bytes of a byte map from `a`. -/
def takeBytes (m : SMap Byte) : Nat → Nat → List Byte
  | _, 0 => []
  | a, n + 1 => SMap.get 0 m a :: takeBytes m (a + 1) n

/-- Lists bytes at `a` and the addresses after it, in canonical form. -/
def putBytes (m : SMap Byte) : Nat → List Byte → SMap Byte
  | _, [] => m
  | a, b :: l => putBytes (SMap.set 0 m a b) (a + 1) l

/-- The die record of a physical die. -/
def State.die (s : State) (d : Nat) : Die := SMap.get {} s.dies d
/-- Replaces a die record. -/
def State.setDie (s : State) (d : Nat) (v : Die) : State := { s with dies := SMap.put s.dies d v }
/-- The context record. -/
def State.ctx (s : State) (c : Nat) : Context := SMap.get {} s.contexts c
/-- Replaces a context record. -/
def State.setCtx (s : State) (c : Nat) (v : Context) : State := { s with contexts := SMap.put s.contexts c v }

/-- The remap entry of a granule, in the table of the die that the address names (11 R315). -/
def State.remap (s : State) (pa : Nat) : Option Remap :=
  if Config.deviceStorage pa then (s.die (Config.paDie pa)).remaps.find? (fun r => r.granule == pa / 0x10000) else none

/-- The storage at which a remapped granule stands now. -/
def Remap.current (r : Remap) : Nat := if r.flipped then r.target else r.home

/-- The storage address of a physical address (11 R315). -/
def State.storage (s : State) (pa : Nat) : Nat :=
  match s.remap pa with
  | some r => r.current * 0x10000 + pa % 0x10000
  | none => pa

/-- The second storage address that a write reaches while its line has been copied (11 R315 step 1). -/
def State.mirror (s : State) (pa : Nat) : Option Nat :=
  match s.remap pa with
  | some r => if !r.flipped && decide (pa % 0x10000 / 128 < r.copied) then some (r.target * 0x10000 + pa % 0x10000) else none
  | none => none

/-- Physical slices of a die that were retired at fuse time (14 R353). -/
def fuseRetired (d : Nat) : List Nat :=
  (((Config.fuseRetiredSlices d).filter fun i => decide (i < Config.slices d + 2)).eraseDups).take 2
/-- Slices of a die that are retired at a power-on reset: at fuse time, or `gone` since (14 R353, 17 R384). -/
def retiredAt (d : Nat) (gone : List Nat) : List Nat := (fuseRetired d ++ gone).eraseDups
/-- The two slices that fuses name as spares, without a retired one (14 R353). -/
def fuseSpares (d : Nat) (gone : List Nat) : List Nat :=
  [(Config.fuseSpareSlices d).1, (Config.fuseSpareSlices d).2].filter fun i => !(retiredAt d gone).contains i
/-- Spares that have taken the places of retired slices (14 R353). -/
def fuseUsed (d : Nat) (gone : List Nat) : List Nat :=
  (fuseSpares d gone).take ((retiredAt d gone).filter fun i => !(i == (Config.fuseSpareSlices d).1 || i == (Config.fuseSpareSlices d).2)).length
/-- Physical slices of a die that are spares at reset (14 R353) (DESIGN CHOICE, notes/assumptions/21.md). -/
def resetSpares (d : Nat) (gone : List Nat) : List Nat := (fuseSpares d gone).filter fun i => !(fuseUsed d gone).contains i
/-- In-service physical slices of a die at reset, ascending (14 R353). -/
def resetSlices (d : Nat) (gone : List Nat) : List Nat :=
  (List.range (Config.slices d + 2)).filter fun i => !(resetSpares d gone).contains i && !(retiredAt d gone).contains i
/-- The bucket of a physical address (14 R352). -/
def bucketOf (pa : Nat) : Nat := (pa / 2 ^ 7 % 4096) ^^^ (pa / 2 ^ 19 % 4096) ^^^ (pa / 2 ^ 31 % 512)
/-- The slice that a die's map names for a bucket (14 R353). -/
def State.sliceOf (s : State) (d b : Nat) : Nat :=
  let l := resetSlices d (s.die d).fusedSlices
  SMap.get (l.getD (b % max 1 l.length) 0) (s.die d).sliceMap b
/-- Where a physical address is hashed to now: storage address of its line, and home slice (11 R315, 14 R352, R355). -/
def State.hashOf (s : State) (pa : Nat) : Nat × Nat :=
  let a := s.storage (pa / 128 * 128)
  (a, if Config.hostBase ≤ pa then 0 else s.sliceOf (Config.paDie a) (bucketOf a))

/-- One byte of memory by physical address, view 0. -/
def State.readPa (s : State) (pa : Nat) : Byte := SMap.get 0 s.mem (s.storage pa)

/-- Writes one byte of memory by physical address, view 0. -/
def State.writePa (s : State) (pa : Nat) (b : Byte) : State :=
  match s.mirror pa with
  | some m => { s with mem := SMap.set 0 (SMap.set 0 s.mem (s.storage pa) b) m b }
  | none => { s with mem := SMap.set 0 s.mem (s.storage pa) b }

/-- `n` bytes by physical address, view 0. -/
def State.readPas (s : State) : Nat → Nat → List Byte
  | _, 0 => []
  | pa, n + 1 => s.readPa pa :: s.readPas (pa + 1) n

/-- Writes bytes by physical address, view 0. -/
def State.writePas (s : State) : Nat → List Byte → State
  | _, [] => s
  | pa, b :: l => (s.writePa pa b).writePas (pa + 1) l

/-- A little-endian number of `n` bytes at a physical address. -/
def State.physNat (s : State) (pa n : Nat) : Nat := leNat (s.readPas pa n)

/-! ### The page table (11 R302 to R310) -/

/-- What an access asks of a page. -/
inductive Access where
  | read | write | fetch | amo | none
  deriving DecidableEq, Repr

/-- The outcome of a translation: an address with its attributes, or a translation or protection fault's subcode. -/
inductive Tr where
  | ok (pa attr : Nat)
  | tfault (sub : Nat)
  | pfault (sub : Nat)
  deriving DecidableEq, Repr

/-- Interior entry i of a node: KEY and CHILD (R304). -/
def nodeKey (s : State) (node i : Nat) : Nat := s.physNat (node + 0x20 + 16 * i) 8
/-- CHILD of an interior entry (R304). -/
def nodeChild (s : State) (node i : Nat) : Nat := s.physNat (node + 0x28 + 16 * i) 8

/-- An interior node is well formed (R303, R304, R309). -/
def interiorOk (s : State) (node n : Nat) : Bool :=
  decide (1 ≤ n) && decide (n ≤ 14) &&
  (List.range n).all (fun i =>
    decide (nodeKey s node i % 0x10000 = 0) && decide (nodeKey s node i < 2 ^ 56) &&
    (i == 0 || decide (nodeKey s node (i - 1) < nodeKey s node i)) &&
    decide (nodeChild s node i % 256 = 0) && Config.deviceStorage (nodeChild s node i)) &&
  decide (s.physNat (node + 0x20 + 16 * n) (0xE0 - 16 * n) = 0)

/-- A leaf entry (R305). -/
structure Leaf where
  base : Nat
  limit : Nat
  target : Nat
  attr : Nat
  deriving DecidableEq, Repr

/-- Leaf entry j (R305). -/
def leafAt (s : State) (node j : Nat) : Leaf :=
  ⟨s.physNat (node + 0x20 + 32 * j) 8, s.physNat (node + 0x28 + 32 * j) 8, s.physNat (node + 0x30 + 32 * j) 8,
   s.physNat (node + 0x38 + 32 * j) 4⟩

/-- RDX (R306). -/
def Leaf.rdx (l : Leaf) : Bool := l.attr.testBit 11
/-- CP (R306). -/
def attrPolicy (attr : Nat) : Nat := attr / 16 % 4

/-- The last address of a range lies in the same row of R301 with storage. -/
def sameRow (a b : Nat) : Bool :=
  (Config.deviceStorage a && Config.deviceStorage b && decide (a / 2 ^ 40 = b / 2 ^ 40)) ||
  (decide (Config.hostBase ≤ a) && decide (Config.hostBase ≤ b) && decide (b < Config.physEnd))

/-- A leaf entry keeps the rules of R305 to R308. -/
def leafOk (l : Leaf) (reserved : Nat) : Bool :=
  decide (l.base % 0x10000 = 0) && decide (l.limit % 0x10000 = 0) && decide (l.base < l.limit) &&
  decide (l.limit ≤ 2 ^ 56) && decide (reserved = 0) && decide (l.attr / 4096 = 0) &&
  !l.attr.testBit 7 && !l.attr.testBit 6 && !l.attr.testBit 3 && decide (attrPolicy l.attr ≠ 3) &&
  (l.attr.testBit 0 || !l.attr.testBit 1) &&
  (if l.rdx then
     decide (l.base % 2 ^ 30 = 0) && decide (l.limit - l.base ≤ 2 ^ 39) && decide (l.target % 4096 = 0) &&
       Config.deviceStorage l.target
   else
     decide (l.target % 0x10000 = 0) && sameRow l.target (l.target + (l.limit - l.base) - 1) &&
     (if Config.hostBase ≤ l.target then
        decide (attrPolicy l.attr = 2) && !l.attr.testBit 10 && !l.attr.testBit 9 && !l.attr.testBit 8
      else true))

/-- A leaf node is well formed (R303, R305, R309). -/
def leavesOk (s : State) (node n : Nat) : Bool :=
  decide (n ≤ 7) &&
  (List.range n).all (fun j =>
    leafOk (leafAt s node j) (s.physNat (node + 0x3C + 32 * j) 4) &&
    (j == 0 || decide ((leafAt s node (j - 1)).limit ≤ (leafAt s node j).base))) &&
  decide (s.physNat (node + 0x20 + 32 * n) (0xE0 - 32 * n) = 0)

/-- Walks the nodes from `node` (R309): the leaf entry, or the subcode. -/
def walkNodes (s : State) (va : Nat) : Nat → Nat → Except Nat Leaf
  | 0, _ => .error 3
  | fuel + 1, node =>
    let kind := s.physNat node 1
    let n := s.physNat (node + 1) 1
    if s.physNat (node + 2) 30 ≠ 0 || decide (node % 256 ≠ 0) || !Config.deviceStorage node then .error 3
    else if kind = 0 then
      if !interiorOk s node n then .error 3
      else if fuel = 0 then .error 3
      else
        match (List.range n).reverse.find? (fun i => decide (nodeKey s node i ≤ va)) with
        | some i => walkNodes s va fuel (nodeChild s node i)
        | none => .error 1
    else if kind = 1 then
      if !leavesOk s node n then .error 3
      else
        match (List.range n).find? (fun j => decide ((leafAt s node j).base ≤ va) && decide (va < (leafAt s node j).limit)) with
        | some j => .ok (leafAt s node j)
        | none => .error 1
    else .error 3

/-- Page size of a radix level (R308). -/
def radixPage (level : Nat) : Nat := if level = 1 then 2 ^ 30 else if level = 2 then 2 ^ 21 else 2 ^ 16

/-- Walks the radix tables (R308, R309): `left` levels remain. The physical address, and the size of its page. -/
def walkRadix (s : State) (o : Nat) : Nat → Nat → Except Nat (Nat × Nat)
  | 0, _ => .error 3
  | left + 1, t =>
    let level := 3 - left
    let e := s.physNat (t + 8 * (o / radixPage level % (if level = 3 then 32 else 512))) 8
    let adr := e / 256 % 2 ^ 44 * 256
    if e % 2 = 0 then .error 4
    else if e / 4 % 64 ≠ 0 || decide (e / 2 ^ 52 ≠ 0) then .error 3
    else if e / 2 % 2 = 1 then
      if adr % radixPage level ≠ 0 then .error 3 else .ok (adr + o % radixPage level, radixPage level)
    else if left = 0 then .error 3
    else if adr % (if level = 1 then 4096 else 256) ≠ 0 || !Config.deviceStorage adr then .error 3
    else walkRadix s o left adr

/-- What a walk finds: physical address, leaf entry, and the size of the radix page (0 for a range). -/
structure Walked where
  pa : Nat
  leaf : Leaf
  page : Nat
  deriving DecidableEq, Repr

/-- The walk without the permission check (R309) (DEDUCED, notes/assumptions/14.md). -/
def walk (s : State) (c va : Nat) : Except Nat Walked :=
  if 2 ^ 56 ≤ va then .error 2
  else
    match walkNodes s va 9 (s.ctx c).ptroot with
    | .error e => .error e
    | .ok l =>
      match (if l.rdx then walkRadix s (va - l.base) 3 l.target else .ok (l.target + (va - l.base), 0) : Except Nat (Nat × Nat)) with
      | .error e => .error e
      | .ok (pa, page) =>
        if !Config.hasStorage pa then .error 5
        else if decide (Config.hostBase ≤ pa) && l.rdx &&
            (decide (attrPolicy l.attr ≠ 2) || l.attr.testBit 10 || l.attr.testBit 9 || l.attr.testBit 8) then .error 3
        else .ok ⟨pa, l, page⟩

/-- The permission check and the AMO rules (R310, R106). -/
def permit (k : Access) (pa attr : Nat) : Tr :=
  let r := attr.testBit 0
  let w := attr.testBit 1
  match k with
  | .read => if r then .ok pa attr else .pfault 1
  | .write => if w then .ok pa attr else .pfault 2
  | .fetch => if attr.testBit 2 then .ok pa attr else .pfault 3
  | .amo =>
    if !r then .pfault 1 else if !w then .pfault 2
    else if decide (Config.hostBase ≤ pa) || decide (attrPolicy attr = 2) then .pfault 4 else .ok pa attr
  | .none => .ok pa attr

/-- Translates one address for an access of kind k in context c by a walk (R309, R310). -/
def translate (s : State) (c va : Nat) (k : Access) : Tr :=
  match walk s c va with
  | .error e => .tfault e
  | .ok w => permit k w.pa w.leaf.attr

/-- Who makes an access: context, view with its range, physical die (12 R319), the TLB it translates through (11 R311;
0 for an agent without one) and its task. -/
structure Agent where
  ctx : Nat
  view : Nat
  lo : Nat
  len : Nat
  die : Nat
  unit : Nat := 0
  task : Nat := 0
  deriving DecidableEq, Repr

/-- The TLB entry that an access may use in place of a walk; whether it has been kept is free (R311,
DESIGN CHOICE, notes/assumptions/16.md). -/
def State.tlbHit (s : State) (g : Agent) (va : Nat) : Option TlbEntry :=
  match (if g.unit = 0 then [] else (s.ctx g.ctx).tlb).find? (fun e => e.unit == g.unit && decide (e.base ≤ va) && decide (va < e.base + e.size)) with
  | some e => if Config.freeBool (s.fresh + va) then some e else none
  | none => none

/-- Translates one address for an access of kind k by an agent: from its TLB, or by a walk (R309 to R311). -/
def translateAs (s : State) (g : Agent) (va : Nat) (k : Access) : Tr :=
  match s.tlbHit g va with
  | some e => permit k (e.pa + (va - e.base)) e.attr
  | none => translate s g.ctx va k

/-- Entries of a TLB: a CP's two levels hold 544, an engine's 4 (R311). -/
def tlbEntries (unit : Nat) : Nat := if unit < 0x10000 then 544 else 4

/-- The aligned block that an entry for an address holds: a radix page as far as its entry reaches, or a block of its range whose size the device
chooses, at most 1 GiB (R311; DESIGN CHOICE, notes/assumptions/16.md). -/
def Walked.block (w : Walked) (va pick : Nat) : Nat × Nat :=
  let size := if w.page ≠ 0 then w.page else 2 ^ (16 + pick % 15)
  let base := if w.page ≠ 0 then w.leaf.base + (va - w.leaf.base) / size * size else va / size * size
  if w.page ≠ 0 then (base, min size (w.leaf.limit - base))
  else if w.leaf.base ≤ base && base + size ≤ w.leaf.limit then (base, size)
  else (va / 0x10000 * 0x10000, 0x10000)

/-- Records a translation in an agent's TLB, its newest entries kept (R311). -/
def State.noteTlb (s : State) (g : Agent) (va : Nat) : State :=
  if g.unit = 0 then s
  else match walk s g.ctx va with
  | .error _ => s
  | .ok w =>
    if (s.tlbHit g va).isSome then s
    else
      let x := s.ctx g.ctx
      let (base, size) := w.block va (Config.choose s.fresh)
      let mine := x.tlb.filter fun e => e.unit == g.unit && !(decide (e.base ≤ va) && decide (va < e.base + e.size))
      s.setCtx g.ctx { x with tlb := (⟨g.unit, base, size, w.pa - (va - base), w.leaf.attr⟩ :: mine).take (tlbEntries g.unit) ++
                                     x.tlb.filter fun e => e.unit != g.unit }

/-! ### Line versions (12 R318 to R336) -/

/-- The view number that keys the system checkpoint's shadows (12 R336). -/
def systemView : Nat := 0x10000

/-- A version of a line. -/
def State.version (s : State) (line view level : Nat) : Option Version :=
  s.versions.find? (fun v => v.line == line && v.view == view && v.level == level)

/-- Sets or replaces a version. -/
def State.putVersion (s : State) (v : Version) : State :=
  { s with versions := v :: s.versions.filter (fun w => !(w.line == v.line && w.view == v.view && w.level == v.level)) }

/-- Hedgerow lines charged to a context (R333): every version it owns but "absent" marks and system shadows. -/
def State.usage (s : State) (c : Nat) : Nat :=
  (s.versions.filter (fun v => v.ctx == c && v.content.isSome && v.view != systemView)).length

/-- The 128 bytes of a line in view 0. -/
def State.lineBytes (s : State) (line : Nat) : SMap Byte := putBytes [] 0 (s.readPas (line * 128) 128)

/-- The content of a line as a view reads it (R318). -/
def State.viewLine (s : State) (line view : Nat) : SMap Byte :=
  match (if view = 0 then none else s.version line view 0) with
  | some v => v.content.getD []
  | none => s.lineBytes line

/-- One byte as a view reads it (R318). -/
def State.readView (s : State) (view pa : Nat) : Byte :=
  match (if view = 0 then none else s.version (pa / 128) view 0) with
  | some v => SMap.get 0 (v.content.getD []) (pa % 128)
  | none => s.readPa pa

/-- Whether the line a view reads is poisoned (17 R382). -/
def State.poisoned (s : State) (view pa : Nat) : Bool :=
  match (if view = 0 then none else s.version (pa / 128) view 0) with
  | some v => v.poison
  | none => s.poison.contains (pa / 128)

/-- The view that an access reads and writes: the agent's, where the page has VCOW, home policy and the address lies in
the view range; else view 0 (R319). -/
def Agent.target (g : Agent) (va attr : Nat) : Nat :=
  if g.view ≠ 0 && attr.testBit 8 && decide (attrPolicy attr = 0) && decide (g.lo ≤ va) && decide (va < g.lo + g.len)
  then g.view else 0

/-- The open range slot that covers a line in a view: context, slot and level (R321, R322). -/
def State.cover (s : State) (line view : Nat) : Option (Nat × Nat × Nat) :=
  s.contexts.findSome? fun (c, x) =>
    x.ranges.findSome? fun (k, r) =>
      if decide (0 < r.depth) && r.view == view &&
          r.extent.any (fun (a, n) => decide (a ≤ line * 128) && decide (line * 128 < a + n))
      then some (c, k, r.depth) else none

/-- Charges one more line to a level of a range slot (R322). -/
def State.chargeLevel (s : State) (c k level : Nat) : State :=
  let x := s.ctx c
  let r := SMap.get {} x.ranges k
  s.setCtx c { x with ranges := SMap.put x.ranges k { r with lines := SMap.set 0 r.lines level (SMap.get 0 r.lines level + 1) } }

/-- The shadow that a write to a line must save first: owner, slot, level and content (R322). -/
def State.shadowFor (s : State) (line tv : Nat) : Option (Nat × Nat × Version) :=
  match s.cover line tv with
  | none => none
  | some (c, k, level) =>
    if (s.version line tv level).isSome then none
    else if tv ≠ 0 && (s.version line tv 0).isNone then some (c, k, ⟨line, tv, level, c, none, false⟩)
    else some (c, k, ⟨line, tv, level, c, some (s.viewLine line tv), s.poisoned tv (line * 128)⟩)

/-- Lines of the firmware reserve that the system checkpoint's shadows hold (R336). -/
def State.systemShadows (s : State) : Nat := (s.versions.filter fun v => v.view == systemView).length

/-- While the system checkpoint is open, the first write to a line of view 0 saves its content; where the firmware
reserve has run out, the checkpoint is abandoned (R336). -/
def State.saveSystem (s : State) (line : Nat) : State :=
  if s.checkpoint.isOpen && (s.version line systemView 0).isNone then
    if s.systemShadows < s.reserve then
      s.putVersion ⟨line, systemView, 0, 0, some (s.lineBytes line), s.poison.contains line⟩
    else { s with checkpoint := {}, versions := s.versions.filter fun v => v.view != systemView }
  else s

/-- Saves the shadow a write needs (R322), and the system level's (R336). -/
def State.saveShadows (s : State) (line tv : Nat) : State :=
  let s := if tv = 0 then s.saveSystem line else s
  match s.shadowFor line tv with
  | none => s
  | some (c, k, v) => let s := s.putVersion v; if v.content.isSome then s.chargeLevel c k v.level else s

/-- Makes the private line of a view (R332). -/
def State.makePrivate (s : State) (owner line tv : Nat) : State :=
  if tv ≠ 0 && (s.version line tv 0).isNone then
    s.putVersion ⟨line, tv, 0, owner, some (s.lineBytes line), s.poison.contains line⟩
  else s

/-- Hedgerow lines a write to a line needs, with the context that pays each (R322, R332, R333). -/
def State.hedgeNeeds (s : State) (owner line tv : Nat) : List Nat :=
  (match s.shadowFor line tv with
   | some (c, _, v) => if v.content.isSome then [c] else []
   | none => []) ++
  (if tv ≠ 0 && (s.version line tv 0).isNone then [owner] else [])

/-- A write to a line finds the Hedgerow lines it needs within the quotas (R334). -/
def State.hedgeOk (s : State) (owner line tv : Nat) : Bool :=
  let l := s.hedgeNeeds owner line tv
  l.all fun c => decide (s.usage c + (l.filter (· == c)).length ≤ (s.ctx c).quota)

/-! ### The RAS log and sealed granules (17 R386, 18 R393) -/

/-- Entries that a die's RAS log holds: RASSEL numbers them with 16 bits (18 R389, DEDUCED, notes/assumptions/26.md). -/
def rasEntries : Nat := 65536

/-- An entry of the RAS log (17 R386). -/
structure Ras where
  type : Nat
  unit : Nat
  flags : Nat := 0
  die : Nat
  index : Nat := 0
  pa : Nat := 0
  va : Nat := 0
  ctx : Nat := 0xFF
  fn : Nat := 0xFF
  deriving DecidableEq, Repr

/-- The 64 bytes of an entry (17 R386). -/
def Ras.bytes (r : Ras) (ptc : Nat) : List Byte :=
  leBytes 1 r.type ++ leBytes 1 r.unit ++ leBytes 1 r.flags ++ leBytes 1 r.die ++ leBytes 4 r.index ++ leBytes 8 r.pa ++
  leBytes 8 r.va ++ leBytes 1 r.ctx ++ leBytes 1 r.fn ++ leBytes 6 0 ++ leBytes 8 ptc ++ leBytes 24 0

/-- Raises an MSI-X vector of a function: the message waits for its turn (18 R391). -/
def State.raiseVector (s : State) (fn vec : Nat) : State :=
  let f := SMap.get {} s.fns fn
  { s with fns := SMap.put s.fns fn { f with msixPending := if f.msixPending.contains vec then f.msixPending else f.msixPending ++ [vec] } }

/-- Writes a RAS entry: a full log overwrites its oldest entry and counts it; vector 2 of the physical function
(17 R386, 18 R391). -/
def State.rasLog (s : State) (r : Ras) : State :=
  let d := s.die r.die
  let e := r.bytes s.ptc
  let log := if d.rasCount < rasEntries then d.ras ++ [e] else d.ras.set (d.rasCount % rasEntries) e
  (s.setDie r.die { d with ras := log, rasCount := d.rasCount + 1 }).raiseVector 0 2

/-- Takes the bytes [b, b + k) out of a list of ranges (start, length). -/
def cutRanges (l : List (Nat × Nat)) (b k : Nat) : List (Nat × Nat) :=
  l.flatMap fun (a, n) =>
    if b < a + n && a < b + k then [(a, b - a), (b + k, a + n - (b + k))].filter fun p => p.2 != 0 else [(a, n)]

/-- A byte lies in one of the ranges. -/
def inRanges (l : List (Nat × Nat)) (x : Nat) : Bool := l.any fun (a, n) => decide (a ≤ x) && decide (x < a + n)

/-- The address lies in a granule that belongs to another context (18 R393). -/
def State.foreign (s : State) (ctx pa : Nat) : Bool :=
  s.owners.any fun (a, n, o) => decide (a ≤ pa) && decide (pa < a + n) && decide (o ≠ ctx)

/-- The RAS entry of an access to another context's granule (18 R393). -/
def State.logForeign (s : State) (ctx pa va : Nat) : State :=
  s.rasLog { type := 4, unit := 1, die := Config.paDie pa, pa := pa, va := va, ctx := ctx }

/-! ### Bytes that engine writes have replaced (08 R264) -/

/-- What an earlier-issued read still sees at a place: the die whose copy it reads (none for the home), view, physical
address. -/
abbrev Old := Option Nat → Nat → Nat → Option Byte

/-- A read that no engine write of its own region hides a byte from. -/
def noOld : Old := fun _ _ _ => none

/-- The entry of the history, newest first, that hides a byte from a read issued at `issue`: the earliest engine write after it, of
several in one cycle the first (R264). -/
def State.hider (s : State) (task issue : Nat) (copy : Option Nat) (view pa : Nat) : Option OldByte :=
  s.history.foldl (fun (best : Option OldByte) h =>
    if h.task = task && decide (h.copy = copy) && h.view = view && h.pa = pa && decide (issue < h.cycle) then
      (match best with | some b => if h.cycle ≤ b.cycle then some h else best | none => some h)
    else best) none

/-- The byte that a region's read with the given issue cycle sees where engine writes of the region have performed since:
the byte that the earliest of them replaced (R264) (DEDUCED, notes/assumptions/18.md). -/
def State.oldByte (s : State) (task issue : Nat) : Old := fun copy view pa => (s.hider task issue copy view pa).map (·.byte)

/-- A write that every read sees: what the bytes were before it is seen no more (R264, R266). -/
def State.dropOld (s : State) (copy : Option Nat) (view pa n : Nat) : State :=
  { s with history := s.history.filter fun h => !(decide (h.copy = copy) && h.view == view && decide (pa ≤ h.pa) && decide (h.pa < pa + n)) }

/-- An engine write of a region replaces bytes: its region's earlier reads still see them (R264). -/
def State.keepOld (s : State) (g : Agent) (cycle : Nat) (copy : Option Nat) (view pa : Nat) (bytes : List Byte) : State :=
  { s with history := (bytes.zipIdx.map fun (b, i) => (⟨g.task, cycle, copy, view, g.die, pa + i, b⟩ : OldByte)) ++
      s.history.filter fun h => !(h.task != g.task && decide (h.copy = copy) && h.view == view && decide (pa ≤ h.pa) && decide (h.pa < pa + bytes.length)) }

/-- The view under which an agent's access finds a line: its private version where one exists (R318). -/
def State.viewOf (s : State) (view pa : Nat) : Nat := if view ≠ 0 && (s.version (pa / 128) view 0).isSome then view else 0

/-- One byte at its home, as an agent of a context reads it: all ones in another context's granule (18 R393), else the
byte that 08 R264 keeps visible, else the view's byte (12 R318). -/
def State.homeByte (s : State) (ctx view : Nat) (old : Old) (pa : Nat) : Byte :=
  if s.foreign ctx pa then 0xFF
  else (old none (s.viewOf view pa) pa).getD (s.readView view pa)

/-- Applies bytes of one line at its home, in the view they go to (R253, R322, R332): shadows first, then the private
line, then the bytes; a whole-line write clears poison, `poison` marks the line (17 R382). -/
def State.applyBytes (s : State) (owner tv pa : Nat) (bytes : List Byte) (poison : Bool) : State :=
  let line := pa / 128
  if Config.hostBase ≤ pa then s.writePas pa bytes
  else if s.foreign owner pa then s.logForeign owner pa 0
  else
    let s : State := { s with deadKey := cutRanges s.deadKey (line * 128) 128 }
    let s := (s.saveShadows line tv).makePrivate owner line tv
    let keep := decide (bytes.length < 128)
    match (if tv = 0 then none else s.version line tv 0) with
    | some v =>
      s.putVersion { v with content := some (putBytes (v.content.getD []) (pa % 128) bytes), poison := poison || (keep && v.poison) }
    | none =>
      let s := s.writePas pa bytes
      { s with poison := if poison then line :: s.poison.filter (· != line)
                         else if keep then s.poison else s.poison.filter (· != line) }

/-- A write of one line's bytes at its home by an agent that is no engine of a region. -/
def State.applyLine (s : State) (owner tv pa : Nat) (bytes : List Byte) (poison : Bool) : State :=
  (s.applyBytes owner tv pa bytes poison).dropOld none tv pa bytes.length

/-- An AMO's write of one line's bytes at its home: a byte that an engine write of the region has replaced since the AMO's
issue is written before that engine write, so that read and write stay one operation (03 R103, 08 R264, R266) (DEDUCED,
notes/assumptions/18.md). -/
def State.applyAmo (s : State) (g : Agent) (issue : Nat) (tv pa : Nat) : List Byte → State
  | [] => s
  | b :: l =>
    let s1 := match s.hider g.task issue none (s.viewOf tv pa) pa with
      | some h => { s with history := s.history.map fun x => if x = h then { h with byte := b } else x }
      | none => s.applyLine g.ctx tv pa [b] false
    s1.applyAmo g issue tv (pa + 1) l

/-- The system's own write of view 0 at a line's home (12 R322, R336): shadows and charges as for any write. -/
def State.systemWrite (s : State) (pa : Nat) (bytes : List Byte) : State :=
  ((s.saveShadows (pa / 128) 0).writePas pa bytes).dropOld none 0 pa bytes.length

/-! ### Copies of remote-cacheable lines (14 R356 to R359) -/

/-- The copy that a die holds of a line. -/
def State.copyOf (s : State) (die line : Nat) : Option CopyLine :=
  s.copies.find? (fun c => c.die == die && c.line == line)

/-- Removes a die's copy of a line. -/
def State.dropCopy (s : State) (die line : Nat) : State :=
  { s with copies := s.copies.filter (fun c => !(c.die == die && c.line == line))
           history := s.history.filter fun h => !(decide (h.copy = some die) && h.pa / 128 == line) }

/-- Installs or replaces a copy. -/
def State.putCopy (s : State) (c : CopyLine) : State :=
  { s with copies := c :: s.copies.filter (fun x => !(x.die == c.die && x.line == c.line)) }

/-- Whether an access by an agent to a page is served at the die's copy (R356). -/
def Agent.remote (g : Agent) (pa attr : Nat) : Bool :=
  decide (attrPolicy attr = 1) && decide (g.die < Config.numDies) && decide (Config.paDie pa ≠ g.die) && Config.deviceStorage pa

/-- A line that an access of home or remote-cacheable policy has reached may stand in its slice (14 R352). -/
def State.noteAllocated (s : State) (line : Nat) : State :=
  if s.allocated.contains line then s else { s with allocated := line :: s.allocated }

/-- Fills a copy from the home; a read on the writing engine's own die follows R264 at the copy too (R356, R359, 08 R264). -/
def State.fillCopy (s : State) (die line : Nat) (reads : Option Nat) : State :=
  let s := (s.putCopy ⟨die, line, s.lineBytes line, 0, reads, s.poison.contains line⟩).noteAllocated line
  { s with history := ((s.history.filter fun h => decide (h.copy = none) && h.view == 0 && h.die == die && h.pa / 128 == line).map
      fun h => { h with copy := some die }) ++ s.history }

/-- The dirty runs of a mask, as (offset, byte) pairs (R357). -/
def CopyLine.dirtyBytes (c : CopyLine) : List (Nat × Byte) :=
  ((List.range 128).filter fun k => c.dirty.getLsbD k).map fun k => (k, SMap.get 0 c.bytes k)

/-- A write-back of a die's copy finds the Hedgerow lines it needs (12 R322, R334). -/
def State.writeBackOk (s : State) (die line : Nat) : Bool :=
  match s.copyOf die line with
  | some c => c.dirty = 0 || s.hedgeOk 0 line 0
  | none => true

/-- Applies a copy's dirty bytes at the home as one write, and clears the mask (R357). -/
def State.writeBack (s : State) (die line : Nat) : State :=
  match s.copyOf die line with
  | none => s
  | some c =>
    if c.dirty = 0 then s
    else
      let s : State := { s.saveShadows line 0 with deadKey := cutRanges s.deadKey (line * 128) 128 }
      let s := c.dirtyBytes.foldl (fun s p => (s.writePa (line * 128 + p.1) p.2).dropOld none 0 (line * 128 + p.1) 1) s
      let s : State := { s with poison := if c.poison then line :: s.poison.filter (· != line)
                                   else if c.dirty = BitVec.allOnes 128 then s.poison.filter (· != line) else s.poison }
      (s.putCopy { c with dirty := 0 }).noteAllocated line

/-- One request read from a line's copy: its read count falls, and at 0 the copy goes (R359). -/
def State.useCopy (s : State) (die line : Nat) : State :=
  match s.copyOf die line with
  | some c =>
    match c.reads with
    | some 1 => s.dropCopy die line
    | some (n + 1) => s.putCopy { c with reads := some n }
    | _ => s
  | none => s

/-! ### Accesses -/

/-- A run of bytes within one line, for a list starting at `a`: how many of `n` bytes lie in the first line. -/
def inLine (a n : Nat) : Nat := min n (128 - a % 128)

/-- An access through a page that is not uncached may leave its line in the home slice (14 R352). -/
def State.allocate (s : State) (pa attr : Nat) : State :=
  if attrPolicy attr = 2 || !Config.deviceStorage pa then s else s.noteAllocated (pa / 128)

/-- One byte at the place where an agent's read is served (R253, R318, R319, R356), `old` giving the byte that R264 keeps
visible. -/
def State.serveByte (s : State) (g : Agent) (old : Old) (va pa attr : Nat) : Byte :=
  match (if g.remote pa attr && !s.foreign g.ctx pa then s.copyOf g.die (pa / 128) else none) with
  | some c => (old (some g.die) 0 pa).getD (SMap.get 0 c.bytes (pa % 128))
  | none => s.homeByte g.ctx (g.target va attr) (if Config.hostBase ≤ pa then noOld else old) pa

/-- The part of a read that lies in one line, with its translation: bytes, whether any is poisoned, and the state
(R253, R356, R359). -/
def State.readLine (s : State) (g : Agent) (old : Old) (va pa attr m : Nat) : List Byte × Bool × State :=
  let bytes := (List.range m).map fun i => s.serveByte g old (va + i) (pa + i) attr
  let bad := match (if g.remote pa attr then s.copyOf g.die (pa / 128) else none) with
    | some c => c.poison
    | none => s.poisoned (g.target va attr) pa
  let s1 := if s.foreign g.ctx pa then s.logForeign g.ctx pa va else s.allocate pa attr
  let s2 := if g.remote pa attr && !s.foreign g.ctx pa then
      (if (s1.copyOf g.die (pa / 128)).isSome then s1.useCopy g.die (pa / 128)
       else s1.fillCopy g.die (pa / 128) none) else s1
  (bytes, bad, s2)

/-- The outcome of serving a read: the bytes, whether any is poisoned, and the state; or the failing address. -/
inductive Served where
  | done (bytes : List Byte) (poison : Bool) (s : State)
  | failed (va : Nat) (t : Tr)

/-- Serves a read of `n` bytes at `va`, line by line; `fuel` bounds the lines. -/
def serveRead (g : Agent) (k : Access) (old : Old) : Nat → State → Nat → Nat → Served
  | 0, s, _, _ => .done [] false s
  | fuel + 1, s, va, n =>
    if n = 0 then .done [] false s
    else
      match translateAs s g va k with
      | .ok pa attr =>
        let m := inLine va n
        let r := (s.noteTlb g va).readLine g old va pa attr m
        match serveRead g k old fuel r.2.2 (va + m) (n - m) with
        | .done rest p s3 => .done (r.1 ++ rest) (r.2.1 || p) s3
        | .failed v t => .failed v t
      | t => .failed va t

/-- The outcome of a write. -/
inductive Wrote where
  | done (s : State)
  /-- waits for Hedgerow lines of a context (R334) -/
  | waits (c : Nat)
  | failed (va : Nat) (t : Tr)

/-- The context whose quota stands in the way of a write of a line, if one does (R334). -/
def State.hedgeShort (s : State) (owner line tv : Nat) : Option Nat :=
  if s.hedgeOk owner line tv then none
  else some (match s.shadowFor line tv with | some (c, _, _) => c | none => owner)

/-- The lines of a write, each with the view it goes to; or the address that does not translate. -/
def writeLines (g : Agent) (k : Access) : Nat → State → Nat → Nat → Except (Nat × Tr) (List (Nat × Nat × Nat))
  | 0, _, _, _ => .ok []
  | fuel + 1, s, va, n =>
    if n = 0 then .ok []
    else
      match translateAs s g va k with
      | .ok pa attr =>
        match writeLines g k fuel s (va + inLine va n) (n - inLine va n) with
        | .ok rest => .ok ((pa, g.target va attr, attr) :: rest)
        | .error e => .error e
      | t => .error (va, t)

/-- The lines of a write find their Hedgerow lines, one after another, each counting those before it (R334): the context
that is short, or none. -/
def hedgeRun (owner : Nat) : List (Nat × Nat × Nat) → State → Option Nat
  | [], _ => none
  | (pa, tv, _) :: rest, s =>
    if Config.deviceStorage pa then
      match s.hedgeShort owner (pa / 128) tv with
      | some c => some c
      | none => hedgeRun owner rest ((s.saveShadows (pa / 128) tv).makePrivate owner (pa / 128) tv)
    else hedgeRun owner rest s

/-- Every line of a write translates and has its Hedgerow lines. -/
def writeCheck (g : Agent) (k : Access) (fuel : Nat) (s : State) (va n : Nat) : Wrote :=
  match writeLines g k fuel s va n with
  | .error (v, t) => .failed v t
  | .ok l => match hedgeRun g.ctx l s with
    | some c => .waits c
    | none => .done s

/-- One line's part of an engine write at the home; `cycle` is the perform cycle in a region, whose earlier reads still see
the bytes replaced (08 R264). -/
def State.engineHome (s : State) (g : Agent) (cycle : Option Nat) (va pa attr : Nat) (bytes : List Byte) (poison : Bool) : State :=
  let tv := g.target va attr
  let s1 := (s.applyBytes g.ctx tv pa bytes poison).allocate pa attr
  match cycle with
  | some y =>
    if Config.hostBase ≤ pa then s1 else s1.keepOld g y none tv pa ((List.range bytes.length).map fun i => s.readView tv (pa + i))
  | none => s1.dropOld none tv pa bytes.length

/-- The same part of an engine write in the copy that the engine's own die holds of the line (R356). -/
def State.engineCopy (s : State) (g : Agent) (cycle : Option Nat) (pa attr : Nat) (bytes : List Byte) (poison : Bool) : State :=
  match (if g.remote pa attr && !s.foreign g.ctx pa then s.copyOf g.die (pa / 128) else none) with
  | some c =>
    let s1 := s.putCopy { c with bytes := putBytes c.bytes (pa % 128) bytes
                                 poison := poison || (decide (bytes.length < 128) && c.poison) }
    match cycle with
    | some y => s1.keepOld g y (some g.die) 0 pa ((List.range bytes.length).map fun i => SMap.get 0 c.bytes ((pa + i) % 128))
    | none => s1.dropOld (some g.die) 0 pa bytes.length
  | none => s

/-- One line's part of an engine write: at the home, and in the copy of the engine's own die (R356). -/
def State.engineLine (s : State) (g : Agent) (cycle : Option Nat) (va pa attr : Nat) (bytes : List Byte) (poison : Bool) : State :=
  (s.engineHome g cycle va pa attr bytes poison).engineCopy g cycle pa attr bytes poison

/-- One line's part of a CP store: in the die's copy of a remote-cacheable line, else at the home (R252, R356, R357). -/
def State.storeLine (s : State) (g : Agent) (va pa attr : Nat) (bytes : List Byte) : State :=
  if g.remote pa attr && !s.foreign g.ctx pa then
    let s := if (s.copyOf g.die (pa / 128)).isSome then s else s.fillCopy g.die (pa / 128) none
    match s.copyOf g.die (pa / 128) with
    | some c =>
      (s.putCopy { c with
        bytes := putBytes c.bytes (pa % 128) bytes
        dirty := (List.range bytes.length).foldl (fun d i => d ||| (1 <<< (pa % 128 + i))) c.dirty
        reads := none }).dropOld (some g.die) 0 pa bytes.length
    | none => s
  else (s.applyLine g.ctx (g.target va attr) pa bytes false).allocate pa attr

/-- Offsets behind the first m bytes. -/
def offsetsFrom (m : Nat) (l : List Nat) : List Nat := l.filterMap fun i => if i < m then none else some (i - m)

/-- Applies a write line by line, translated for kind k; `engine` for an engine write, with its perform cycle in a
region; `bad` gives the offsets of poisoned bytes, which poison the lines that receive them (17 R382). -/
def applyWrite (g : Agent) (k : Access) (engine : Option (Option Nat)) : List Nat → Nat → State → Nat → List Byte → State
  | _, 0, s, _, _ => s
  | bad, fuel + 1, s, va, bytes =>
    if bytes.isEmpty then s
    else
      match translateAs s g va k with
      | .ok pa attr =>
        let m := inLine va bytes.length
        let part := bytes.take m
        let s := s.noteTlb g va
        let s1 := match engine with
          | some cycle => s.engineLine g cycle va pa attr part (bad.any fun i => decide (i < m))
          | none => s.storeLine g va pa attr part
        applyWrite g k engine (offsetsFrom m bad) fuel s1 (va + m) (bytes.drop m)
      | _ => s

/-- The lines a run of `n` bytes may touch. -/
def lineFuel (n : Nat) : Nat := n / 128 + 2

/-- A read with the permission `k`. -/
def State.load (s : State) (g : Agent) (k : Access) (va n : Nat) : Served :=
  serveRead g k noOld (lineFuel n) s va n

/-- A write with the permission `k`: checked whole, then applied whole. -/
def State.store (s : State) (g : Agent) (k : Access) (engine : Option (Option Nat)) (bad : List Nat) (va : Nat) (bytes : List Byte) : Wrote :=
  match writeCheck g k (lineFuel bytes.length) s va bytes.length with
  | .done _ => .done (applyWrite g k engine bad (lineFuel bytes.length) s va bytes)
  | w => w

/-- A byte of a read comes from a poisoned line, at the home or in the copy of the reader's die (17 R382). -/
def State.badByte (s : State) (g : Agent) (k : Access) (va : Nat) : Bool :=
  match translateAs s g va k with
  | .ok pa attr =>
    match (if g.remote pa attr && !s.foreign g.ctx pa then s.copyOf g.die (pa / 128) else none) with
    | some c => c.poison
    | none => s.poisoned (g.target va attr) pa
  | _ => false

/-- Offsets of the poisoned bytes of a run. -/
def State.badBytes (s : State) (g : Agent) (k : Access) (va n : Nat) : List Nat := (List.range n).filter fun i => s.badByte g k (va + i)

/-- Firmware and device writes on behalf of a context, view 0 (12 R319): the fault queue, records, notifications. -/
def systemAgent (c : Nat) : Agent := { ctx := c, view := 0, lo := 0, len := 0, die := 16 }

end Sys2Proof.Machine
end

