-- ==== Sys2Proof/Machine/Ops.lean ====
section
/-!
DEFINITION. Named operations over the running core and its region: registers, scratchpad, the delivery of results
(03 R71 to R73), the agenda of a region (05 R183), and taking a trap and returning from it (03 R111 to R113).
-/

namespace Sys2Proof.Machine

/-- What a meaning answers. -/
abbrev Answer := Host.Outcome State Fault Refusal

/-! ### The running task, region and core -/

/-- The task in focus. -/
def State.task (s : State) : Task := SMap.get {} s.tasks s.cur.task
/-- The task is being saved, is saved or has not resumed: no counter of its cores changes (03 R115). A loose instruction that has
issued still completes (03 R84, R124). -/
def Task.paused (t : Task) (ptc : Nat) : Bool :=
  match t.state with
  | .freezing => t.region.active || decide ((SMap.get {} t.cores 0).nextIssue ≤ ptc)
  | .saved => true
  | .restoring => true
  | _ => false
/-- Replaces the task in focus. -/
def State.setTask (s : State) (t : Task) : State := { s with tasks := SMap.put s.tasks s.cur.task t }
/-- The core in focus. -/
def State.core (s : State) : Core := SMap.get {} s.task.cores s.cur.core
/-- Replaces the core in focus. -/
def State.setCore (s : State) (c : Core) : State := s.setTask { s.task with cores := SMap.put s.task.cores s.cur.core c }
/-- Another core of the task in focus. -/
def State.coreAt (s : State) (k : Nat) : Core := SMap.get {} s.task.cores k
/-- Replaces another core of the task in focus. -/
def State.setCoreAt (s : State) (k : Nat) (c : Core) : State := s.setTask { s.task with cores := SMap.put s.task.cores k c }
/-- The region of the task in focus. -/
def State.region (s : State) : Region := s.task.region
/-- Replaces the region of the task in focus. -/
def State.setRegion (s : State) (r : Region) : State := s.setTask { s.task with region := r }
/-- The running core runs timed code. -/
def State.timed (s : State) : Bool := s.region.active
/-- The region cycle. -/
def State.rt (s : State) : Nat := s.region.rt
/-- Changes the focus to another core. -/
def State.at' (s : State) (k : Nat) : State := { s with cur := { s.cur with core := k } }

/-- Logical die of a logical core (10 R278). -/
def State.dieOf (s : State) (k : Nat) : Nat := (SMap.get (0, 0) s.task.places k).1
/-- Physical die of a logical die (10 R278). A logical die that the task does not have, which the DIE of a class 2 stream or copy row may
name, stands for the physical die of that number (06 R197 and R205 are silent on it; DESIGN CHOICE, notes/assumptions/71.md). -/
def State.physDie (s : State) (d : Nat) : Nat := SMap.get d s.task.dies d
/-- Physical die of the core in focus. -/
def State.myDie (s : State) : Nat := s.physDie (s.dieOf s.cur.core)
/-- The core in focus stands on a BX die. -/
def State.onBX (s : State) : Bool := Config.isBX s.myDie
/-- Physical core of a logical core (10 R278). -/
def State.physCore (s : State) (k : Nat) : Nat := (SMap.get (0, 0) s.task.places k).2
/-- The memory agent of the core in focus (12 R319), which translates through its CP's TLB (11 R311). -/
def State.agent (s : State) : Agent :=
  { ctx := s.task.ctx, view := s.task.viewId, lo := s.task.viewBase, len := s.task.viewLen, die := s.myDie
    unit := 1 + s.myDie * 64 + s.physCore s.cur.core, task := s.cur.task }
/-- The memory agent of copy engine `e` of logical die `d`, on behalf of the task in focus. -/
def State.copyAgent (s : State) (d e : Nat) : Agent :=
  { s.agent with die := s.physDie d, unit := 0x10000 + s.physDie d * 8 + e }
/-- The memory agent of stream engine `e` of the core in focus. -/
def State.streamAgent (s : State) (e : Nat) : Agent :=
  { s.agent with unit := 0x20000 + (s.myDie * 64 + s.physCore s.cur.core) * 8 + e }
/-- Where the cores of other packages are numbered from, within a joined region (18 R402). -/
def farCore : Nat := 0x10000
/-- The core that a logical number names: this package's own, or one of another package from `farCore` on. -/
def State.localCore (s : State) (n : Nat) : Nat :=
  let r := s.region
  if r.total = 0 then n else if r.base ≤ n && n < r.base + r.ncores then n - r.base else farCore + n
/-- λ of 07 R235: from the core in focus to core k; the region's XLAT for a core of another package. -/
def State.lambda (s : State) (k : Nat) : Nat :=
  if farCore ≤ k then s.region.xlat else Config.dieLatency s.myDie (s.physDie (s.dieOf k))

/-- The next free value, and the state with the counter advanced. -/
def State.draw (s : State) : Nat × State := (s.fresh, { s with fresh := s.fresh + 1 })
/-- A free duration from now on, as a tick (DESIGN CHOICE, notes/assumptions/4.md). -/
def State.later (s : State) : Nat := s.ptc + 1 + Config.delay s.fresh

/-- Firmware is asked to grow a context's quota, once; whether it does, and how far, is its policy (12 R334,
DESIGN CHOICE, notes/assumptions/7.md). -/
def State.ask (s : State) (c : Nat) : State :=
  let x := s.ctx c
  if x.asked then s
  else
    let answer := if Config.freeBool s.fresh then some (1 + Config.choose s.fresh) else none
    { s.setCtx c { x with asked := true } with inbox := s.inbox ++ [(s.later, .quotaGrow c answer)], fresh := s.fresh + 1 }

/-! ### Registers (02 R48) -/

/-- Reads x[r]; x0 reads as zero. -/
def Core.rx (c : Core) (r : Reg) : Word := if r = 0 then 0 else c.x[r.toNat]'(by have := r.isLt; omega)
/-- Writes x[r]; a write to x0 is discarded. -/
def Core.wx (c : Core) (r : Reg) (v : Word) : Core :=
  if r = 0 then c
  else { c with x := c.x.set r.toNat v (by have := r.isLt; omega), regPoison := c.regPoison.filter (· != r.toNat) }
/-- Reads x[r] of the core in focus. -/
def State.rx (s : State) (r : Reg) : Word := s.core.rx r
/-- Writes x[r] of the core in focus at once. -/
def State.wx (s : State) (r : Reg) (v : Word) : State := s.setCore (s.core.wx r v)

/-! ### The agenda of a region -/

/-- Adds an item to the agenda, taken on in this cycle, with the next sequence number. -/
def State.post (s : State) (p : Pend) : State :=
  let r := s.region
  s.setRegion { r with agenda := r.agenda ++ [{ p with seq := r.seq, took := r.rt }], seq := r.seq + 1 }

/-- A fresh identity within the region. -/
def State.newUid (s : State) : Nat × State :=
  let r := s.region
  (r.seq, s.setRegion { r with seq := r.seq + 1 })

/-- Adds a phase of the core in focus, `n` cycles from now. -/
def State.phaseIn (s : State) (n rank : Nat) (key : List Nat) (p : Phase) : State :=
  s.post { due := s.rt + n, rank := rank, key := key, core := s.cur.core, act := .phase p, pc := s.core.pc, by' := s.cur.core }

/-- Delivers a result into x[d]: at once in loose code (03 R71), at issue + latency in timed code (03 R72, R73). -/
def State.deliver (s : State) (d : Reg) (v : Word) (latency : Nat) : State :=
  if d = 0 then s
  else if s.timed then
    s.post { due := s.rt + latency, rank := 0, key := [s.rt], core := s.cur.core, act := .event (.cpResultPerform d v),
             pc := s.core.pc, by' := s.cur.core }
  else s.wx d v

/-! ### The scratchpad (06 R186) -/

/-- `n` scratchpad bytes of the core in focus. -/
def State.sread (s : State) (a n : Nat) : List Byte := takeBytes s.core.scratch a n
/-- A little-endian number in the scratchpad. -/
def State.snat (s : State) (a n : Nat) : Nat := leNat (s.sread a n)

/-- The 64-byte granules that a run of bytes touches. -/
def granules (a n : Nat) : List Nat := (List.range ((a % 64 + n + 63) / 64)).map (a / 64 + ·)

/-- Writes scratchpad bytes of core k; granules that are written whole lose their poison (17 R382). -/
def Core.swrite (c : Core) (a : Nat) (l : List Byte) : Core :=
  { c with scratch := putBytes c.scratch a l
           scratchPoison := c.scratchPoison.filter fun p => !(decide (a ≤ p * 64) && decide (p * 64 + 64 ≤ a + l.length)) }

/-- Poisons the scratchpad granules that receive a poisoned byte of a run written at `a`: those at the offsets `bad` (17 R382). -/
def Core.smark (c : Core) (a : Nat) (bad : List Nat) : Core :=
  if bad.isEmpty then c
  else
    let g := (bad.map fun i => (a + i) / 64).eraseDups
    { c with scratchPoison := g ++ c.scratchPoison.filter fun p => !g.contains p }

/-- Offsets of the bytes of a run that lie in poisoned scratchpad granules. -/
def Core.sbad (c : Core) (a n : Nat) : List Nat :=
  if c.scratchPoison.isEmpty then [] else (List.range n).filter fun i => c.scratchPoison.contains ((a + i) / 64)

/-- Some byte of a run lies in a poisoned scratchpad granule. -/
def Core.spoisoned (c : Core) (a n : Nat) : Bool := (granules a n).any c.scratchPoison.contains

/-! ### Traps (03 R111 to R113, 17 R379, R380) -/

/-- Cause code and subcode as the cause CSR holds them (02 R50). -/
def causeWord (cause sub : Nat) : Word := BitVec.ofNat 64 (cause * 256 + sub)

/-- The task ends with this fault; what a fault takes back and writes is the next thing to run (17 R379). -/
def State.faultTask (s : State) (f : FaultInfo) : State :=
  let t := s.task
  { s.setTask { t with fault := some f, state := .ending .faulted } with turn := (s.cur, .phase .taskEnd) :: s.turn }

/-- The RAS entry of poison consumed (17 R382, R386): the line at an address of memory, or else the consuming core's scratchpad, registers
and queues, or fetched word; a copy row's source and a beat's may stand in either (DESIGN CHOICE, notes/assumptions/36.md). -/
def State.logPoison (s : State) (sub : Nat) (tval : Word) : State :=
  let here := fun (unit va : Nat) => s.rasLog { type := 3, unit := unit, die := s.myDie, index := s.physCore s.cur.core, va := va, ctx := s.task.ctx }
  let line := fun (unit : Nat) => match walk s s.task.ctx tval.toNat with
    | .ok w => s.rasLog { type := 3, unit := unit, die := Config.paDie (s.storage w.pa), index := Config.channelOf (s.storage w.pa), pa := w.pa,
                          va := tval.toNat, ctx := s.task.ctx }
    | .error _ => here unit tval.toNat
  match sub with
  | 1 => line 1
  | 2 => if s.timed then here 6 0 else line 6
  | 5 | 6 => if tval.toNat < Config.scratchBytes then here 3 0 else line 1
  | 7 => here 5 0
  | _ => here 3 0

/-- Taking a trap in loose code (03 R111): the saved cause, pc and value; then the handler, or the task faults; `epc` is the code offset
of the instruction that the trap belongs to (17 R408). The low two bits of epc read as 0 (02 R50). The instruction that traps does not
count as issued (03 R117 is silent on it; DESIGN CHOICE, notes/assumptions/49.md). -/
def State.takeTrapAt (s : State) (cause sub : Nat) (tval epc : Word) : State :=
  let s := if cause = 0x0C then s.logPoison sub tval else s
  let c := s.core
  let c1 := { c with cause := causeWord cause sub, epc := epc &&& ~~~3, tval := tval }
  if c.tvec = 0 || c.handler then
    (s.setCore c1).faultTask ⟨causeWord cause sub, epc &&& ~~~3, tval, none, s.cur.core, false, false, c.handler⟩
  else s.setCore { c1 with handler := true, pc := c.tvec }

/-- A trap that the instruction at the pc raises. -/
def State.takeTrap (s : State) (cause sub : Nat) (tval : Word) : State := s.takeTrapAt cause sub tval s.core.pc

/-- A trap of a unit in timed code (03 R113, 05 R185): recorded for the end of the cycle, where the region freezes. -/
def State.trapUnit (s : State) (unit cause sub : Nat) (tval epc : Word) (by' : Nat) : State :=
  let r := s.region
  s.setRegion { r with traps := r.traps ++ [⟨by', unit, cause, sub, tval, epc⟩] }

/-- What a trap of the coming cycle takes back (17 R380). -/
def State.before (s : State) : Before :=
  ⟨s.task, s.mem, s.poison, s.versions, s.copies, s.contexts, s.dies, s.deadKey, s.history, s.allocated, s.checkpoint, s.fns, s.inbox, s.outbox⟩

/-- The state before the cycle (17 R380, DEDUCED, notes/assumptions/9.md). -/
def State.restore (s : State) (b : Before) : State :=
  { (s.setTask b.task) with mem := b.mem, poison := b.poison, versions := b.versions, copies := b.copies, contexts := b.contexts
                            dies := b.dies, deadKey := b.deadKey, history := b.history, allocated := b.allocated
                            checkpoint := b.checkpoint, fns := b.fns, inbox := b.inbox
                            outbox := b.outbox, pre := none }

/-- A late item that shows itself inside a cycle takes the cycle back and freezes it, and firmware is asked where it waits
for a context's Hedgerow lines (05 R173, 12 R334; DEDUCED, notes/assumptions/10.md). -/
def State.slideBack (s : State) (hedge : Option Nat) : State :=
  match s.pre with
  | none => s
  | some b =>
    let s1 := s.restore b
    let f : Freeze := { why := .slide, tick := s.ptc, lastLand := s.ptc, resume := none }
    let s2 := s1.setRegion { s1.region with opened := false, freeze := some ((s1.region.freeze.map fun f => { f with probed := true }).getD f) }
    match hedge with
    | some c => s2.ask c
    | none => s2

/-- A trap raised by the instruction that issues: precise in loose code, a freeze in timed code. The core issues nothing
more in this cycle. -/
def State.raise (s : State) (cause sub : Nat) (tval : Word) : State :=
  if s.timed then
    (s.setCore { s.core with nextIssue := s.rt + 1 }).trapUnit 0 cause sub tval s.core.pc s.cur.core
  else s.takeTrap cause sub tval

/-- A trap of the instruction that issues which belongs to an earlier one: in timed code it names that one (17 R408), in loose code it is
precise (03 R111). -/
def State.raiseFor (s : State) (cause sub : Nat) (tval epc : Word) : State :=
  if s.timed then (s.setCore { s.core with nextIssue := s.rt + 1 }).trapUnit 0 cause sub tval epc s.cur.core
  else s.takeTrap cause sub tval

/-- Return from a trap (03 R112): pc := epc, and the handler flag is clear. -/
def State.returnTrap (s : State) : State := s.setCore { s.core with pc := s.core.epc, handler := false }

/-- An illegal-instruction trap. -/
def State.illegal (s : State) (tval : Word) : State := s.raise 1 0 tval
/-- An illegal-mode trap; tval is the word (02 R62, 17 R378). -/
def State.illegalMode (s : State) (i : Instr) : State := s.raise 2 0 (((encode i).getD 0).setWidth 64)

/-- An instruction that is legal only in timed code (02 R62). -/
def State.needTimed (s : State) (i : Instr) (t : State) : Answer := .next (if s.timed then t else s.illegalMode i)
/-- An instruction that is legal only in loose code (02 R62). -/
def State.needLoose (s : State) (i : Instr) (t : State) : Answer := .next (if s.timed then s.illegalMode i else t)

end Sys2Proof.Machine
end

