-- ==== Sys2Proof/Machine/Flags.lean ====
section
/-!
DEFINITION. The D12 has no condition flags. What an instruction leaves behind beside its result stands here: the
performance counters (03 R115 to R118), the path signature (03 R119), the end-of-body tests of the hardware loops
(03 R88 to R92), and the passage to the next instruction (03 R74).
-/

namespace Sys2Proof.Machine

/-- A selector counts event `ev` in the mode (03 R116). -/
def selects (sel : Word) (timed : Bool) (ev : Nat) : Bool :=
  decide (sel.toNat % 256 = ev) && decide (ev ≠ 0) && (if timed then sel.getLsbD 9 else sel.getLsbD 8)

/-- Adds `n` occurrences of event `ev` to the counters that select it. In timed code a count of the cycle under way
stands aside until the cycle ends (03 R118). -/
def Core.count (c : Core) (timed : Bool) (ev n : Nat) : Core :=
  let bump : Vector Word 4 → Vector Word 4 := fun h =>
    Vector.ofFn fun i => if selects c.hpe[i] timed ev then h[i] + BitVec.ofNat 64 n else h[i]
  if timed then { c with hpcNow := bump c.hpcNow } else { c with hpc := bump c.hpc }

/-- Adds occurrences of an event on the core in focus. -/
def State.count (s : State) (ev n : Nat) : State := if s.task.paused s.ptc then s else s.setCore (s.core.count s.timed ev n)

/-- One update of the path signature (03 R119). -/
def signature (p e : Word) (b : Bool) : Word := p.rotateLeft 1 ^^^ (e ||| (if b then 1 else 0))

/-- The core with psig updated. -/
def Core.sign (c : Core) (e : Word) (b : Bool) : Core := { c with psig := signature c.psig e b }

/-- A loop level; level 3 does not exist and reads as an idle one. -/
def Core.loopAt (c : Core) (l : Nat) : Loop := if h : l < 3 then c.loops[l] else {}
/-- Replaces a loop level. -/
def Core.setLoop (c : Core) (l : Nat) (v : Loop) : Core := if h : l < 3 then { c with loops := c.loops.set l v } else c

/-- The end-of-body test at address e over the levels given, most recently activated first (03 R89). -/
def endTests (timed : Bool) (e : Word) : List Nat → Core → Core × Word
  | [], c => (c, e + 4)
  | l :: ls, c =>
    let v := c.loopAt l
    if v.stop ≠ e then endTests timed e ls c
    else if 1 < v.count.toNat then
      (((c.setLoop l { v with count := v.count - 1 }).sign e true).count timed 0x0E 1, v.start)
    else
      endTests timed e ls ({ c.setLoop l { v with count := 0 } with active := c.active.filter (· != l) }.sign e false)

/-- Control passes sequentially from pc (03 R89, R92). -/
def Core.sequential (c : Core) (timed : Bool) : Core :=
  if c.handler && !timed then { c with pc := c.pc + 4 }
  else
    let r := endTests timed c.pc c.active c
    { r.1 with pc := r.2 }

/-- A taken branch or jump to t ends every active level whose body t leaves (03 R90, R92). -/
def Core.transfer (c : Core) (timed : Bool) (t : Word) : Core :=
  if c.handler && !timed then { c with pc := t }
  else
    let out := c.active.filter fun l => !(decide ((c.loopAt l).start.toNat ≤ t.toNat) && decide (t.toNat ≤ (c.loopAt l).stop.toNat))
    let c := out.foldl (fun c l => c.setLoop l { c.loopAt l with count := 0 }) c
    { c with active := c.active.filter (fun l => !out.contains l), pc := t }

/-- The next issue comes `n` cycles later in timed code (03 R74), and no sooner than `n` ticks later in loose code
(03 R71, R84; DESIGN CHOICE, notes/assumptions/4.md). -/
def State.issueAfter (s : State) (n : Nat) : State :=
  if s.timed then s.setCore { s.core with nextIssue := s.rt + n }
  else { s.setCore { s.core with nextIssue := s.ptc + n + Config.delay s.fresh } with fresh := s.fresh + 1 }

/-- The instruction has issued, and control passes to the next one. -/
def State.finish (s : State) (n : Nat) : State :=
  (s.setCore ((s.core.count s.timed 1 1).sequential s.timed)).issueAfter n

/-- The instruction has issued, and control transfers to t. -/
def State.jumpTo (s : State) (t : Word) (n : Nat) : State :=
  (s.setCore ((s.core.count s.timed 1 1).transfer s.timed t)).issueAfter n

/-- A loose instruction waits: nothing changes but the tick of the next try (03 R71, 10 R298). -/
def State.tryLater (s : State) (w : Wait) : State :=
  let s := s.setTask { s.task with wait := w }
  s.setCore { s.core with nextIssue := s.ptc + 1 }

end Sys2Proof.Machine
end

