-- ==== Sys2Proof/Machine/Operands.lean ====
section
/-!
DEFINITION. Operand forms: immediates, the address of a Q-format access, its checks, and the fields that descriptors
in the scratchpad hold.
-/

namespace Sys2Proof.Machine

/-- A signed immediate as a 64-bit value (02 R54). -/
def imm {n : Nat} (i : BitVec n) : Word := i.signExtend 64
/-- A branch offset in words (03 R80, R81). -/
def wordOffset {n : Nat} (o : BitVec n) : Word := o.signExtend 64 <<< 2
/-- Bytes of an access of size code z (02 R59). -/
def sizeOf' (z : BitVec 2) : Nat := 2 ^ z.toNat
/-- A of R93: x[a] + sext64(off9) * 2^sz. -/
def State.qAddr (s : State) (a : Reg) (z : BitVec 2) (o : BitVec 9) : Word := s.rx a + (o.signExtend 64 <<< z.toNat)
/-- The low bytes of a register value. -/
def lowBytes (v : Word) (n : Nat) : List Byte := leBytes n v.toNat
/-- Zero-extends bytes to 64 bits (03 R93). -/
def zext (l : List Byte) : Word := BitVec.ofNat 64 (leNat l)

/-- A signed 32-bit field of a descriptor. -/
def State.sint (s : State) (a : Nat) : Int := (BitVec.ofNat 32 (s.snat a 4)).toInt
/-- A signed byte of a descriptor. -/
def State.sbyte (s : State) (a : Nat) : Int := (BitVec.ofNat 8 (s.snat a 1)).toInt

/-- The trap of an access that does not translate (11 R310): translation fault 0x04 or protection fault 0x05. -/
def trCause : Tr → Nat × Nat
  | .ok _ _ => (4, 0)
  | .tfault n => (4, n)
  | .pfault n => (5, n)

/-- A translation fault that firmware may resolve in timed code (11 R314). -/
def resolvable : Tr → Bool
  | .tfault n => n == 1 || n == 4 || n == 5
  | _ => false

end Sys2Proof.Machine
end

