-- ==== Sys2Proof/Machine/Ring.lean ====
section
/-!
DEFINITION. Rings of the scratchpad and the early-read checker (06 R188 to R196, R213, R214).
-/

namespace Sys2Proof.Machine

/-- A ring of core k. -/
def Core.ring (c : Core) (n : Nat) : Ring := SMap.get {} c.rings n
/-- Replaces a ring. -/
def Core.setRing (c : Core) (n : Nat) (r : Ring) : Core := { c with rings := SMap.put c.rings n r }
/-- Where the counts of a ring wrap (06 R189). -/
def ringWrap : Nat := 2 ^ 32
/-- Scratchpad address of the slot of a sequence number (06 R188). -/
def Ring.slotAddr (r : Ring) (seq : Nat) : Nat := r.base + r.slot * (if r.count = 0 then 0 else seq % r.count)
/-- Index of the slot of a sequence number. -/
def Ring.index (r : Ring) (seq : Nat) : Nat := if r.count = 0 then 0 else seq % r.count
/-- The head slot has arrived and carries the tag of the pop count (R192). -/
def Ring.headReady (r : Ring) : Bool :=
  SMap.get false r.arrived (r.index r.pops) && decide (SMap.get 0 r.tags (r.index r.pops) = r.pops % 0x10000)

/-- Sequence number of the slot that a consumer samples first: the head, or one popped in this cycle ahead of its writes. -/
def Ring.headSeq (r : Ring) : Nat := r.early.headD r.pops

/-- The consumer's check at its first sampling (R192): none when the slot is ready, else the tval of the tag mismatch. -/
def Ring.consumerCheck (r : Ring) : Option Word :=
  if !r.configured then some (BitVec.allOnes 64)
  else if !r.early.isEmpty || r.headReady then none else some (BitVec.ofNat 64 (r.slotAddr r.pops))

/-- The slot pops at the consumer's last sampling (R192); the counts wrap (R189). -/
def Ring.pop (r : Ring) : Ring := { r with arrived := SMap.put r.arrived (r.index r.pops) false, pops := (r.pops + 1) % ringWrap }

/-- The pop of a slot whose first sampling is its last, unless it has come ahead of this cycle's writes (R193). -/
def Ring.consume (r : Ring) : Ring := if r.early.isEmpty then r.pop else { r with early := r.early.drop 1 }

/-- The next sequence number, and the ring after it is taken (R189, R190). -/
def Ring.take (r : Ring) : Nat × Ring := (r.claims, { r with claims := (r.claims + 1) % ringWrap })

/-- The ring has no room for sequence number `seq`: it lies COUNT or more after the pop count, counted modulo 2^32
(R189, R191) (DEDUCED, notes/assumptions/15.md). -/
def Ring.full (r : Ring) (seq : Nat) : Bool := decide (r.count ≤ (seq + (ringWrap - r.pops % ringWrap)) % ringWrap)

/-! ### Geometry of copies and streams, which the checks of rings need -/

/-- Ceiling of a / b. -/
def ceilDiv (a b : Nat) : Nat := (a + b - 1) / b

/-- Level k of a nest. -/
def CopyDesc.level (d : CopyDesc) (k : Nat) : CopyLevel := d.levels.getD k ⟨1, false, 0, 0, 0, 0⟩
/-- Bytes of a source row (06 R206). -/
def CopyDesc.count0 (d : CopyDesc) : Nat := (d.level 0).count
/-- Total bytes (06 R207). -/
def CopyDesc.total (d : CopyDesc) : Nat := d.levels.foldl (fun n l => n * l.count) 1
/-- Bytes of an element of a transposing copy. -/
def CopyDesc.esz (d : CopyDesc) : Nat := 2 ^ d.esize
/-- Rows of a tile, and columns (06 R209). -/
def CopyDesc.tileR (d : CopyDesc) : Nat := (d.level 1).count
/-- Columns of a tile (06 R209). -/
def CopyDesc.tileC (d : CopyDesc) : Nat := d.count0 / d.esz
/-- Source units staged at once: rows, or tiles when transposing. -/
def CopyDesc.stages (d : CopyDesc) : Nat :=
  if d.tr then d.total / (d.count0 * d.tileR) else d.total / d.count0
/-- Destination rows. -/
def CopyDesc.rows (d : CopyDesc) : Nat := if d.tr then d.stages * d.tileC else d.stages
/-- Bytes of a destination row. -/
def CopyDesc.rowBytes (d : CopyDesc) : Nat := if d.tr then d.tileR * d.esz else d.count0
/-- Destination rows that one stage gives. -/
def CopyDesc.perStage (d : CopyDesc) : Nat := if d.tr then d.tileC else 1

/-- Indices of levels `from'` to 5 of unit number r, fastest first (06 R206). -/
def CopyDesc.indices (d : CopyDesc) (from' r : Nat) : List (Nat × Nat) :=
  ((d.levels.drop from').foldl (fun (acc : List Nat × Nat) l => (acc.1 ++ [acc.2 % l.count], acc.2 / l.count)) ([], r)).1.zipIdx.map
    fun (i, k) => (k + from', i)

/-- Source offset of level indices, circular levels wrapping (06 R206). -/
def CopyDesc.srcOffset (d : CopyDesc) (ix : List (Nat × Nat)) : Int :=
  ix.foldl (fun a (k, i) =>
    let l := d.level k
    a + (if l.circ then (l.start + i) % l.extent else i : Nat) * l.sstride) 0
/-- Destination offset of level indices (06 R206). -/
def CopyDesc.dstOffset (d : CopyDesc) (ix : List (Nat × Nat)) : Int :=
  ix.foldl (fun a (k, i) => a + (i : Int) * (d.level k).dstride) 0

/-- Level-5 index of a stage. -/
def CopyDesc.outer (d : CopyDesc) (stage : Nat) : Nat := stage / ((d.stages) / (d.level 5).count)

/-- An address as the 64-bit value that is translated (11 R300): a sum below 0 has bits [63:56] set. -/
def addr64 (a : Int) : Nat := (a % (2 ^ 64 : Nat)).toNat

/-- Source row addresses of stage q, given the slot base of a ring source: one row, or the rows of a tile. -/
def CopyDesc.srcRows (d : CopyDesc) (base q : Nat) : List Nat :=
  if d.tr then
    (List.range d.tileR).map fun i => addr64 ((base : Int) + d.srcOffset ((1, i) :: d.indices 2 q))
  else [addr64 ((base : Int) + d.srcOffset (d.indices 1 q))]

/-- Destination address of row r, given the slot base of a ring destination (06 R206, R209). -/
def CopyDesc.dstRow (d : CopyDesc) (base r : Nat) : Nat :=
  if d.tr then
    addr64 ((base : Int) + (r % d.tileC : Nat) * (d.level 1).dstride + d.dstOffset (d.indices 2 (r / d.tileC)))
  else addr64 ((base : Int) + d.dstOffset (d.indices 1 r))

/-- Latency of an endpoint (06 R207): `space` 0 memory, else scratchpad or ring of core k. -/
def State.endLatency (s : State) (engineDie space cls k ldie : Nat) : Nat :=
  if space = 0 then
    if cls = 1 then 1100 else if cls = 2 then 1100 + Config.dieLatency (s.physDie engineDie) (s.physDie ldie) else 6000
  else Config.dieLatency (s.physDie engineDie) (s.physDie (s.dieOf k))

/-- Cycle at which stage q is sampled (06 R207, R209). -/
def Copy.stageAt (c : Copy) (d : CopyDesc) (start q : Nat) : Nat :=
  max (start + ceilDiv ((q + 1) * (if d.tr then d.tileR * d.count0 else d.count0)) 256) (c.issue + 3)
/-- T(r) (06 R207, R209). -/
def State.rowAt (s : State) (c : Copy) (d : CopyDesc) (start r : Nat) : Nat :=
  start + s.endLatency c.die d.ssp d.scls d.score d.sdie + s.endLatency c.die d.dsp d.dcls d.dcore d.ddie +
    (if d.tr then ceilDiv (d.tileR * d.count0) 256 else 0) + ceilDiv ((r + 1) * d.rowBytes) 256

/-- The descriptor at a scratchpad address of core k (06 R205). -/
def readCopyDesc (here : Nat → Nat) (c : Core) (a : Nat) : CopyDesc :=
  let n := fun o w => leNat (takeBytes c.scratch (a + o) w)
  let int := fun o => (BitVec.ofNat 32 (n o 4)).toInt
  { sbase := n 0 8, dbase := n 8 8, score := if n 0x14 1 % 4 = 0 then n 0x10 2 else here (n 0x10 2)
    dcore := if n 0x15 1 % 4 = 0 then n 0x12 2 else here (n 0x12 2)
    ssp := n 0x14 1 % 4, scls := n 0x14 1 / 4 % 4, dsp := n 0x15 1 % 4, dcls := n 0x15 1 / 4 % 4
    sdie := n 0x16 1, ddie := n 0x17 1
    tr := n 0x18 1 % 2 == 1, esize := n 0x18 1 / 2 % 4, digest := n 0x1C 4
    levels := (List.range 6).map fun k =>
      ⟨n (0x20 + 16 * k) 2, n (0x22 + 16 * k) 2 % 2 == 1, n (0x24 + 16 * k) 2, n (0x26 + 16 * k) 2,
       int (0x28 + 16 * k), int (0x2C + 16 * k)⟩ }

/-- The stream descriptor at a scratchpad address (06 R197). -/
def readStreamDesc (here : Nat → Nat) (c : Core) (a : Nat) : StreamDesc :=
  let n := fun o w => leNat (takeBytes c.scratch (a + o) w)
  { dir := n 0 1, space := n 1 1 % 4, cls := n 1 1 / 4 % 4, kind := n 2 1, die := n 3 1, core := if n 1 1 % 4 = 1 then here (n 4 2) else n 4 2, off := n 6 2
    base := n 8 8
    levels := (List.range 4).map fun k => (n (0x10 + 8 * k) 2, (BitVec.ofNat 32 (n (0x14 + 8 * k) 4)).toInt) }

/-- Level k of a stream: count and stride. -/
def StreamDesc.level (d : StreamDesc) (k : Nat) : Nat × Int := d.levels.getD k (1, 0)
/-- Number of beats (06 R198). -/
def StreamDesc.beats (d : StreamDesc) : Nat := d.levels.foldl (fun n l => n * l.1) 1
/-- Index of level k in beat j (06 R198). -/
def StreamDesc.index (d : StreamDesc) (k j : Nat) : Nat :=
  j / ((d.levels.take k).foldl (fun n l => n * l.1) 1) % (d.level k).1
/-- Beats of one level-3 iteration. -/
def StreamDesc.perSlot (d : StreamDesc) : Nat := (d.levels.take 3).foldl (fun n l => n * l.1) 1
/-- Offset of beat j from the base, or from its slot's base for a ring (06 R198). -/
def StreamDesc.offset (d : StreamDesc) (j : Nat) : Int :=
  ((d.index 0 j : Nat) : Int) * (d.level 0).2 + ((d.index 1 j : Nat) : Int) * (d.level 1).2 +
    ((d.index 2 j : Nat) : Int) * (d.level 2).2 + (if d.space = 1 then 0 else ((d.index 3 j : Nat) : Int) * (d.level 3).2)
/-- Beat address, given the base. -/
def StreamDesc.addr (d : StreamDesc) (base j : Nat) : Nat := addr64 ((base : Int) + d.offset j)

/-- The run that committed a stream. -/
def Core.runOf (c : Core) (u : Nat) : Option Run := c.runs.find? (fun r => r.uid == u)

/-- The descriptor of a copy, read from the scratchpad while it is not yet sampled (DEDUCED, notes/assumptions/19.md). -/
def State.copyDesc (s : State) (c : Copy) : CopyDesc := c.desc.getD (readCopyDesc s.localCore (s.coreAt c.core) c.addr)
/-- The descriptor of a stream, likewise. -/
def State.streamDesc (s : State) (t : Stream) (c : Core) : StreamDesc := t.desc.getD (readStreamDesc s.localCore c t.addr)

/-! ### What commands that have issued are still to do -/

/-- The bundle count of a run's image, once sampled. -/
def Core.bundlesOf (c : Core) (u : Run) : Option Nat :=
  (c.images.find? (fun g => g.uid == u.image)).bind fun g => if g.sampled then some g.bundles else none

/-- The last cycle of a run (R204). -/
def Core.endOf (c : Core) (u : Run) : Option Nat :=
  match u.start, c.bundlesOf u with
  | some st, some l => some (if u.n = 0 then st else st + u.n * l - 1)
  | _, _ => none

/-- The deferral stream that an engine runs in the run of a cycle (R201, 04 R157). -/
def Core.deferStream (c : Core) (se cycle : Nat) : Option Stream :=
  c.streams.find? fun t => t.se == se && (t.desc.map (·.dir)) == some 2 &&
    (match t.run.bind c.runOf with
     | some u => u.n != 0 && (match u.start with | some st => decide (st ≤ cycle) | none => false) &&
         (match c.endOf u with | some e => decide (cycle ≤ e) | none => false)
     | none => false)

/-- Bundles of an image, read from the scratchpad while it is not yet sampled (DEDUCED, notes/assumptions/19.md). -/
def Core.imageBundles (c : Core) (g : Image) : Nat :=
  if g.sampled then g.bundles else max 1 (min 64 (leNat (takeBytes c.scratch (g.addr + 0x368) 4) % 128))
/-- Start cycle of each committed run, by identity, as far as the scratchpad tells it now (R204). -/
def Core.starts (c : Core) : SMap Nat :=
  (c.runs.foldl (fun (acc : SMap Nat × Nat) u =>
    let g := c.images.find? (fun g => g.uid == u.image)
    let st := u.start.getD (max (u.issue + 8) (max acc.2 (if u.commits then (g.map (·.ready)).getD 0 else 0)))
    (acc.1 ++ [(u.uid, st)], if u.n = 0 then st + 1 else st + u.n * (g.map c.imageBundles).getD 1)) ([], 0)).1
/-- Start cycle of each copy command, by identity, one not yet sampled by its descriptor as it stands (R207). -/
def State.copyStarts (s : State) : SMap Nat :=
  (s.region.copies.foldl (fun (acc : SMap Nat × SMap (Nat × Nat)) c =>
    match c.start with
    | some st => (acc.1 ++ [(c.uid, st)], acc.2)
    | none =>
      let e := c.die * 8 + c.engine
      let last := SMap.get (0, 0) acc.2 e
      let st := max c.issue (last.1 + ceilDiv last.2 256)
      (acc.1 ++ [(c.uid, st)], SMap.put acc.2 e (st, (s.copyDesc c).total))) ([], s.region.engineLast)).1

/-- Slots of ring n of core k that a consumer samples for the first and the last time in this cycle (R193). -/
def State.wholeSlots (s : State) (k n : Nat) : Nat :=
  let r := s.region
  let c := s.coreAt k
  let starts := s.copyStarts
  (r.agenda.filter fun p => decide (p.due = r.rt) && p.core == k && (match p.act with
    | .phase (.beatSample uid _) => c.streams.any fun t =>
        let d := s.streamDesc t c
        t.uid == uid && d.space == 1 && d.base == n && d.perSlot == 1
    | .phase (.closeScales u _ _ _ _ _) => r.chains.any fun (i, x) => i == u && x.close.cscl && x.close.cring == n
    | _ => false)).length +
  (r.copies.map fun m =>
    let d := s.copyDesc m
    let at' := fun (q : Nat) => max (m.issue + 3) (m.stageAt d (SMap.get 0 starts m.uid) q)
    if d.ssp = 2 && d.score == k && d.sbase == n then
      let per := d.stages / (d.level 5).count
      ((List.range (d.level 5).count).filter fun i => !SMap.has m.sslots i && decide (at' (i * per) = r.rt) &&
        decide (at' (i * per + per - 1) = r.rt)).length
    else 0).foldl (· + ·) 0

/-- Pops come before writes (R193): slots that this cycle samples whole pop ahead of a write of `seq` that needs their
room; `fuel` bounds them (DEDUCED, notes/assumptions/15.md). -/
def Ring.popEarly (whole seq : Nat) : Nat → Ring → Ring
  | 0, r => r
  | fuel + 1, r =>
    if r.full seq && decide (r.early.length < whole) && r.headReady then
      Ring.popEarly whole seq fuel { r.pop with early := r.early ++ [r.pops] }
    else r

/-- A producer's write into a slot of the core in focus, with its full check (R191); `unit` is the producer's place in
the table of 05 R183. -/
def State.ringWrite (s : State) (unit : Nat) (w : RingWrite) : State :=
  let r0 := s.core.ring w.ring
  let r := if r0.full w.seq then r0.popEarly (s.wholeSlots s.cur.core w.ring) w.seq 64 else r0
  if !r.configured || r.full w.seq then
    s.trapUnit unit 6 3 (BitVec.ofNat 64 w.ring) (BitVec.ofNat 64 w.pc) w.by'
  else
    let k := r.index w.seq
    let r1 := if r.begun.contains w.seq then r
      else { r with arrived := SMap.put r.arrived k false, begun := w.seq :: r.begun }
    let r2 := if w.last then
        { r1 with tags := SMap.put r1.tags k (w.seq % 0x10000), arrived := SMap.put r1.arrived k true,
                  arrivals := (r1.arrivals + 1) % ringWrap, begun := r1.begun.filter (· != w.seq) }
      else r1
    s.setCore (((s.core.swrite (r.slotAddr w.seq + w.off) w.bytes).smark (r.slotAddr w.seq + w.off) w.poison).setRing w.ring r2)

/-- A committed stream has not yet made its last sampling of, or its last write into, its ring (R195). -/
def Core.streamBusy (c : Core) (rt : Nat) (agenda : List Pend) (t : Stream) (d : StreamDesc) : Bool :=
  match t.run.bind c.runOf with
  | none => false
  | some u =>
    if t.done || u.n = 0 then false
    else if d.dir = 0 then
      (match u.start with | some st => decide (rt < st + d.off + d.beats - 4) | none => true)
    else if d.dir = 2 then
      !u.ended || decide (t.pairs % 16 ≠ 0) ||
        agenda.any (fun p => match p.act with
          | .phase (.deferWrite uid _) => uid == t.uid
          | .phase (.deferTake uid _) => uid == t.uid
          | .event (.gridResultPerform (.append _)) => 4 + p.el / 8 == t.se
          | _ => false)
    else true

/-- Whether a ring of core k is in use by a command that has issued (R195). -/
def State.ringBusy (s : State) (k n : Nat) : Bool :=
  let c := s.coreAt k
  let r := s.region
  c.arrays.any (fun (_, a) => (a.waiting ++ a.running).any (fun m => m.ring == n &&
      (a.waiting.any (·.uid == m.uid) || r.agenda.any (fun p => p.act == .phase (.ringPop n m.uid))))) ||
  s.task.cores.any (fun (j, o) => o.streams.any (fun t =>
      let d := s.streamDesc t o
      d.space == 1 && d.base == n && (if d.dir = 1 then d.core == k else j == k) && o.streamBusy r.rt r.agenda t d)) ||
  r.copies.any (fun m =>
      let d := s.copyDesc m
      (d.ssp == 2 && d.score == k && d.sbase == n && decide (m.stagedRows < d.stages)) ||
      (d.dsp == 2 && d.dcore == k && d.dbase == n && !m.done)) ||
  r.agenda.any (fun p => p.core == k && (match p.act with
      | .event (.closeRowPerform w) => w.ring == n
      | .phase (.ringWrite w) => w.ring == n
      | .phase (.readTake _ m _ _) => m == n
      | .phase (.closeTake u _ _) => r.chains.any (fun (i, x) => i == u && x.close.dring == n)
      | .phase (.closeScales u _ _ _ _ _) =>
        r.chains.any (fun (i, x) => i == u && (x.close.dring == n || (x.close.cscl && x.close.cring == n)))
      | _ => false))

/-- Bytes of an output element of a close (07 R237). -/
def outBytes (ofmt : Nat) : Nat := if ofmt ≤ 2 then 1 else if ofmt ≤ 5 then 2 else if ofmt ≤ 7 then 4 else 8

/-- Pairs of one slot of a ring (R201). -/
def pairsPerSlot (slot : Nat) : Nat := slot / 128 * 16

/-- The sequence number of slot i of a stream or copy: the one taken, or the one it takes if no other producer comes
first (DEDUCED, notes/assumptions/19.md). -/
def Ring.seqOf (r : Ring) (slots : SMap Nat) (i : Nat) : Nat :=
  if SMap.has slots i then SMap.get 0 slots i else (r.claims + (i - slots.length)) % ringWrap

/-- The two writes of pair p of a deferral stream: value and index (R201). -/
def deferWrites (seq n blocks p : Nat) (v ix : BitVec 32) (pc : Word) (k : Nat) (last : Bool) : List RingWrite :=
  let off := p / 16 % blocks * 128 + 4 * (p % 16)
  [⟨n, seq, off, leBytes 4 v.toNat, false, pc.toNat, k, []⟩, ⟨n, seq, off + 64, leBytes 4 ix.toNat, last, pc.toNat, k, []⟩]

/-- The scratchpad bytes of `m` pairs of a deferral stream from pair `first`, as (perform cycle, address, length). -/
def Core.deferBytes (c : Core) (t : Stream) (n due first m : Nat) : List (Nat × Nat × Nat) :=
  let r := c.ring n
  let per := pairsPerSlot r.slot
  (List.range m).flatMap fun i =>
    (deferWrites (r.seqOf t.slots ((first + i) / per)) n (per / 16) (first + i) 0 0 0 0 false).map fun w =>
      (due, r.slotAddr w.seq + w.off, 4)

/-- Writes of the agenda to scratchpad bytes of core k: perform cycle, address and length (R214). -/
def State.agendaWrites (s : State) (k : Nat) : List (Nat × Nat × Nat) :=
  let c := s.coreAt k
  let slot := fun (w : RingWrite) (due n : Nat) => [(due, (c.ring w.ring).slotAddr w.seq + w.off, n)]
  s.region.agenda.flatMap fun p =>
    if p.core ≠ k then [] else
    match p.act with
    | .phase (.stsWrite a l) => [(p.due, a, l.length)]
    | .phase (.engineWrite a l) => [(p.due, a, l.length)]
    | .phase (.ringWrite w) => slot w p.due w.bytes.length
    | .event (.closeRowPerform w) => slot w p.due w.bytes.length
    | .event (.streamWritePerform _ _ (.scratch a) l) => [(p.due, a, l.length)]
    | .event (.streamWritePerform _ _ (.ring w) l) => slot w p.due l.length
    | .phase (.statSample _ a t) => [(t, a, 320)]
    | .phase (.closeScales u _ issue seq _ _) =>
      (s.region.chains.filter fun x => x.1 == u).flatMap fun (_, x) =>
        (List.range 64).map fun i =>
          (issue + 32 + i / 4, (c.ring x.close.dring).slotAddr seq + i * 64 * outBytes x.close.ofmt, 64 * outBytes x.close.ofmt)
    | .phase (.deferWrite uid pairs) =>
      (c.streams.filter fun t => t.uid == uid).flatMap fun t =>
        c.deferBytes t ((t.desc.map (·.base)).getD 0) p.due (leNat (SMap.get [] t.fetched (p.due - 3))) pairs.length
    | .event (.gridResultPerform (.append pairs)) =>
      (c.deferStream (4 + p.el / 8) (p.due - 1)).toList.flatMap fun t =>
        c.deferBytes t ((t.desc.map (·.base)).getD 0) (p.due + 3) t.pairs pairs.length
    | .phase (.deferPad uid) =>
      (c.streams.filter fun t => t.uid == uid).flatMap fun t =>
        c.deferBytes t ((t.desc.map (·.base)).getD 0) p.due t.pairs ((16 - t.pairs % 16) % 16)
    | _ => []

/-- Writes of copy commands to scratchpad bytes of core k (R207, R210). -/
def State.copyWrites (s : State) (k : Nat) : List (Nat × Nat × Nat) :=
  let starts := s.copyStarts
  s.region.copies.flatMap fun c =>
    let d := s.copyDesc c
    let st := SMap.get 0 starts c.uid
    let r := (s.coreAt k).ring d.dbase
    (if d.dcore == k && d.dsp != 0 then
      (List.range (d.rows - c.rowsDone)).map fun i =>
        let row := c.rowsDone + i
        let base := if d.dsp = 2 then r.slotAddr (r.seqOf c.dslots (d.outer (row / d.perStage))) else d.dbase
        (s.rowAt c d st row, d.dstRow base row, d.rowBytes)
    else []) ++
    (if c.digest && c.core == k then [(s.rowAt c d st (d.rows - 1) + 64, d.digest, 64)] else [])

/-- Writes of committed output streams to scratchpad bytes of core k (R187, R199); a run of no iterations discards its beats (R204). -/
def State.streamWrites (s : State) (k : Nat) : List (Nat × Nat × Nat) :=
  s.task.cores.flatMap fun (j, o) =>
    let starts := o.starts
    o.streams.flatMap fun t =>
      let d := s.streamDesc t o
      match t.run with
      | some u =>
        if d.dir = 1 && (o.runOf u).any (fun u => u.n != 0) && decide (d.space ≤ 1) && (if d.space = 0 then j == k else d.core == k) then
          (List.range d.beats).map fun b =>
            let r := (s.coreAt k).ring d.base
            let base := if d.space = 1 then r.slotAddr (r.seqOf t.slots (d.index 3 b)) else d.base
            (SMap.get 0 starts u + d.off + b + (if j = k then 3 else Config.dieLatency (s.physDie (s.dieOf j)) (s.physDie (s.dieOf k))),
             d.addr base b, 64)
        else []
      | none => []

/-- Writes to scratchpad bytes of core k that have issued and perform after this cycle: perform cycle, address and
length (R214). -/
def State.pendingWrites (s : State) (k : Nat) : List (Nat × Nat × Nat) :=
  s.agendaWrites k ++ s.copyWrites k ++ s.streamWrites k

/-- The part of a range of core k's scratchpad that its early-read checker watches: first byte and end (R213). -/
def Core.watched (c : Core) (a n : Nat) : Nat × Nat := (max a c.checker.1, min (a + n) (c.checker.1 + c.checker.2))

/-- The early-read check of a sampling of core k's scratchpad (R214): the perform cycle of the earliest write that has
issued and performs later, over the bytes of the range. -/
def State.earlyRead (s : State) (k a n : Nat) : Option Nat :=
  let (lo, hi) := (s.coreAt k).watched a n
  if (s.coreAt k).checker.2 = 0 || decide (hi ≤ lo) then none
  else
    (s.pendingWrites k).foldl (fun best (due, b, m) =>
      if decide (s.rt < due) && decide (b < hi) && decide (lo < b + m) && decide (0 < m) then
        (match best with | some x => some (min x due) | none => some due) else best) none

/-- The early-read check of a sampling of several spans: the earliest write over them all. -/
def State.earlyReads (s : State) (k : Nat) (spans : List (Nat × Nat)) : Option Nat := (spans.filterMap fun (a, n) => s.earlyRead k a n).min?

/-- The early-read check of a sampling is decided when every command of this cycle has issued (R214): a command of the sampling's own
cycle counts, and the trap names the earliest write of all. -/
def State.checkAgain (s : State) (unit k : Nat) (spans : List (Nat × Nat)) (pc : Word) (by' : Nat) : State :=
  let o := s.coreAt k
  if o.checker.2 = 0 || spans.all (fun (a, n) => decide ((o.watched a n).2 ≤ (o.watched a n).1)) then s
  else s.post { due := s.rt, rank := 26, core := k, act := .phase (.earlyCheck unit spans pc by'), pc := pc, by' := by' }

/-- The early-read check of a sampling (R214). -/
def phaseEarlyCheck (unit : Nat) (spans : List (Nat × Nat)) (pc : Word) (by' : Nat) (s : State) : State :=
  match s.earlyReads s.cur.core spans with
  | some due => s.trapUnit unit 6 1 (BitVec.ofNat 64 due) pc by'
  | none => s

/-- A sampling of the scratchpad of the core in focus by a descriptor, an image or LDS: the early-read check, which the cycle's end
decides, then the poison check (17 R382 subcode 0x03), then what follows. -/
def State.sampled (s : State) (unit a n : Nat) (pc : Word) (by' : Nat) (ok : State) : State :=
  if (s.earlyRead s.cur.core a n).isSome then s.checkAgain unit s.cur.core [(a, n)] pc by'
  else if s.core.spoisoned a n then s.trapUnit unit 0x0C 3 (BitVec.ofNat 64 a) pc by'
  else ok.checkAgain unit s.cur.core [(a, n)] pc by'

/-! ### RINGCFG and RINGQ -/

/-- Checks of an engine descriptor's address: alignment, then the scratchpad's end (06 R195, R202, R203, R210). -/
def State.descAddr (s : State) (a : Word) (align size : Nat) (ok : State) : State :=
  if a.toNat % align ≠ 0 then s.raise 3 0 a
  else if Config.scratchBytes < a.toNat + size then s.raise 5 5 a
  else ok

/-- RINGCFG (R195): the descriptor is sampled at issue + 3. -/
def execRingcfg (a n : Reg) (s : State) : Answer :=
  s.needTimed (.ringcfg a n) (s.descAddr (s.rx a) 16 16
    ((s.phaseIn 3 10 [s.cur.core] (.ringSample n.toNat (s.rx a).toNat s.core.pc)).finish 1))

/-- The sum of the unused bytes of a descriptor is 0. -/
def State.szero (s : State) (a n : Nat) : Bool := decide (s.snat a n = 0)

/-- The second part of RINGCFG, at issue + 3 (R195). -/
def phaseRingSample (n a : Nat) (pc : Word) (s : State) : State :=
  s.sampled 0 a 16 pc s.cur.core (
    let base := s.snat a 4
    let slot := s.snat (a + 4) 4
    let count := s.snat (a + 8) 1
    if !s.szero (a + 9) 7 || decide (base % 64 ≠ 0) || decide (slot % 64 ≠ 0) || decide (slot < 64) || decide (0x10000 < slot) ||
        decide (count < 1) || decide (64 < count) || decide (Config.scratchBytes < base + slot * count) then
      s.trapUnit 0 1 0 (BitVec.ofNat 64 a) pc s.cur.core
    else (s.phaseIn 0 26 [] (.ringQuiet n pc)).phaseIn 1 1 [] (.ringApply n base slot count))

/-- RINGCFG's check that its ring is quiescent, when every command of the cycle has issued (R195). -/
def phaseRingQuiet (n : Nat) (pc : Word) (s : State) : State :=
  let r := s.core.ring n
  if r.configured && (decide (r.claims ≠ r.arrivals) || decide (r.arrivals ≠ r.pops) || s.ringBusy s.cur.core n) then
    s.trapUnit 0 6 3 (BitVec.ofNat 64 n) pc s.cur.core
  else s

/-- RINGCFG takes effect at issue + 4 (R195). -/
def phaseRingApply (n base slot count : Nat) (s : State) : State :=
  s.setCore (s.core.setRing n { configured := true, base := base, slot := slot, count := count })

/-- A count of a ring (R196): 0 pops, 1 claims, 2 arrivals, 3 dcount; 0 for an unconfigured ring. -/
def Ring.counter (r : Ring) (sel : Nat) : Nat :=
  if !r.configured then 0
  else (if sel = 0 then r.pops else if sel = 1 then r.claims else if sel = 2 then r.arrivals else r.dcount) % ringWrap

/-- RINGQ (R196): in timed code sampled after the ring events of the cycle. -/
def execRingq (d n : Reg) (sel : BitVec 3) (s : State) : Answer :=
  .next (if s.timed then (s.phaseIn 0 23 [s.cur.core] (.ringCount d n.toNat sel.toNat)).finish 1
    else (s.wx d 0).finish 1)

/-- RINGQ's sampling, after the ring events of its cycle (R196). -/
def phaseRingCount (d : Reg) (n sel : Nat) (s : State) : State :=
  s.deliver d (BitVec.ofNat 64 ((s.core.ring n).counter sel)) 2

/-- ERCHK.on (R213): the range takes effect at issue + 1. -/
def execErchkOn (a b : Reg) (s : State) : Answer :=
  let lo := (s.rx a).toNat
  let n := (s.rx b).toNat
  s.needTimed (.erchkOn a b) (
    if 0 < n && decide (Config.scratchBytes < lo + n) then s.raise 5 5 (s.rx a + s.rx b)
    else (s.phaseIn 0 31 [] (.checkerSet lo n)).finish 1)
/-- ERCHK.off (R213). -/
def execErchkOff (s : State) : Answer :=
  s.needTimed .erchkOff ((s.phaseIn 0 31 [] (.checkerSet 0 0)).finish 1)

end Sys2Proof.Machine
end

