-- ==== Sys2Proof/Machine/Chaining.lean ====
section
/-!
DEFINITION. Accumulator links and chains: building, contributions, hops, closing, status, splicing, zeroing and reading
(07 R225 to R250, 01 R32 to R36).
-/

namespace Sys2Proof.Machine

/-! ### Links -/

/-- Link slot n of a core. -/
def Core.link (c : Core) (n : Nat) : Link := SMap.get {} c.links n
/-- Replaces a link slot. -/
def Core.setLink (c : Core) (n : Nat) (l : Link) : Core := { c with links := SMap.put c.links n l }
/-- A chain by identity. -/
def Region.chain (r : Region) (uid : Nat) : Option Chain := (r.chains.find? (fun p => p.1 == uid)).map (·.2)
/-- Replaces a chain. -/
def State.setChain (s : State) (uid : Nat) (c : Chain) : State :=
  s.setRegion { s.region with chains := SMap.put s.region.chains uid c }
/-- Hop k of a chain. -/
def Chain.hop (c : Chain) (k : Nat) : Option Hop := c.hops[k]?
/-- A hop's mode is X64. -/
def Chain.anchorOf (c : Chain) (k : Nat) : Option Int :=
  match c.hop k with
  | some h => if h.d64 then none else some h.anchor
  | none => none
/-- The declared product total T (01 R33). -/
def Chain.products (c : Chain) : Nat := 64 * (c.hops.foldl (fun n h => if h.d64 then n else n + h.count) 0)
/-- The tail hop. -/
def Chain.tail (c : Chain) : Nat := c.hops.length - 1

/-- The overflow bound holds (01 R33). -/
def boundOk (total : Nat) (anchor : Int) (eA eW : Option Int) (sA sW : Int) : Bool :=
  match eA, eW with
  | some a, some w => decide (a + w + sA + sW + 2 + clog2 total ≤ 63 + anchor)
  | _, _ => true

/-- The exact value of an element (01 R32, R36). -/
def Link.value (l : Link) (anchor : Option Int) (e : Nat) : Fp :=
  match anchor with
  | some a => x64Value a (SMap.get 0 l.elems e) (SMap.get 0 l.states e)
  | none => dp (SMap.get 0 l.elems e)

/-- One contribution enters every element: `ps e` are its products (01 R32, R36). -/
def Link.enter (l : Link) (anchor : Option Int) (ps : Nat → List Fp) : Nat → Link
  | 0 => l
  | n + 1 =>
    let l := l.enter anchor ps n
    match anchor with
    | some a =>
      let r := contributeX64 a (ps n) (SMap.get 0 l.elems n, SMap.get 0 l.states n, false)
      { l with elems := SMap.set 0 l.elems n r.1, states := SMap.set 0 l.states n r.2.1, inexact := l.inexact || r.2.2 }
    | none => { l with elems := SMap.set 0 l.elems n (contributeD64 (ps n) (SMap.get 0 l.elems n)) }

/-- The incoming partial is added last (07 R229). -/
def Link.addPartial (l : Link) (x64 : Bool) (p : Partial) : Nat → Link
  | 0 => l
  | n + 1 =>
    let l := l.addPartial x64 p n
    if x64 then
      { l with elems := SMap.set 0 l.elems n (SMap.get 0 l.elems n + SMap.get 0 p.elems n)
               states := SMap.set 0 l.states n (combineState (SMap.get 0 l.states n) (SMap.get 0 p.states n)) }
    else { l with elems := SMap.set 0 l.elems n (rne64 ((dp (SMap.get 0 l.elems n)).add (dp (SMap.get 0 p.elems n)))) }

/-- A chain trap at a host, which belongs to the CHBUILD (07 R249, 17 R408). -/
def State.chainTrap (s : State) (c : Chain) (sub : Nat) (tval : Nat) : State :=
  s.trapUnit 3 0x0A sub (BitVec.ofNat 64 tval) c.pc c.by'

/-- Asks for the completion test of a link later in this cycle (07 R227 step 4). -/
def State.askComplete (s : State) (slot : Nat) : State :=
  s.post { due := s.rt, rank := 8, core := s.cur.core, act := .phase (.linkComplete slot) }

/-- What becomes of a contribution that performs into a slot (07 R228): it enters by `enter`, is refused, or traps.
`scalar` for a NORM contribution; `pc` and `by'` name its command. -/
def State.contribute (s : State) (slot : Nat) (scalar : Bool) (pc : Word) (by' : Nat)
    (enter : Link → Chain → State) : State :=
  let l := s.core.link slot
  let trap := fun (sub tval : Nat) => s.trapUnit 3 0x0A sub (BitVec.ofNat 64 tval) pc by'
  match l.role with
  | .unbuilt => trap 1 ((s.region.base + s.cur.core) * 256 + slot)
  | .residual => trap 7 slot
  | .hop =>
    match s.region.chain l.chain with
    | none => trap 1 ((s.region.base + s.cur.core) * 256 + slot)
    | some c =>
      if c.scalar != scalar then trap 7 slot
      else if c.frozen.isSome then s.setCore (s.core.setLink slot { l with refused := l.refused + 1 })
      else if ((c.hop l.hop).map (·.count)).getD 0 ≤ l.received then trap 2 c.id
      else enter l c

/-! ### Chains that reach into other packages (18 R399, R402, R403; DESIGN CHOICE, notes/assumptions/58.md) -/

/-- A number of `n` bytes at offset `o` of a record. -/
def fieldAt (b : List Byte) (o n : Nat) : Nat := leNat ((b.drop o).take n)

/-- The package that hosts a core: 0 for this one, 1 and up for the members of the join. -/
def State.packageOf (s : State) (k : Nat) : Nat :=
  if k < farCore then 0
  else match (s.ctx s.task.ctx).join with
    | some j => 1 + (j.bases.filter fun b => decide (b ≤ k - farCore)).length
    | none => 1

/-- The link of the join that leads to the member which hosts a core of another package (18 R403). -/
def State.linkTo (s : State) (k : Nat) : Option JoinLink :=
  match (s.ctx s.task.ctx).join with
  | some j => j.links.find? fun l => l.member + 2 == s.packageOf k
  | none => none

/-- The latency of a route between a die of this package and a core behind a link: λ(a, p) + D + λ(q, b) + 24 (18 R403). -/
def State.routeBy (s : State) (l : JoinLink) (die far : Nat) : Nat :=
  Config.dieLatency die (SMap.get {} s.ports l.port).die + (SMap.get {} s.ports l.port).latency + far + 24

/-- The first logical core of every other member of the region's join. -/
def State.peers (s : State) : List Nat :=
  if s.region.total = 0 then []
  else match (s.ctx s.task.ctx).join with
    | some j => j.bases.eraseIdx j.self
    | none => []

/-- Sends an event to the member that hosts logical core `n`. -/
def State.tell (s : State) (n : Nat) (i : Instr) : State :=
  { s.setRegion { s.region with ready := false, othersReady := false } with outbox := s.outbox ++ [.peer n i] }

/-- Tells every other member whose cores host a hop of a chain, once each. -/
def State.tellHosts (s : State) (c : Chain) (i : Instr) : State :=
  (c.hops.foldl (fun (acc : List Nat × State) h =>
    if h.core < farCore || acc.1.contains (s.packageOf h.core) then acc
    else (s.packageOf h.core :: acc.1, acc.2.tell (h.core - farCore) i)) ([], s)).2

/-! ### Hops (07 R229, R232, R233) -/

/-- Where hop k + 1 stands: H of R232. -/
def State.hopLatency (s : State) (a b : Hop) : Nat :=
  if a.plat ≠ 0 then a.plat
  else if a.core = b.core then 8
  else
    let x := s.physDie (s.dieOf a.core)
    let y := s.physDie (s.dieOf b.core)
    if x = y then 24 else Config.dpl x y + 24

/-- One element of E4M3-EF: the value sent and the new residual (07 R233). -/
def efElement (x e : Fp) (h : Int) : Fp × Fp :=
  match x, e with
  | .nan, _ => (.nan, .fin false 0 0)
  | _, .nan => (.nan, .fin false 0 0)
  | .inf neg, _ => ((e4m3.decode (e4m3.encode false true (.inf neg))).scale h, .fin false 0 0)
  | _, _ =>
    let q := e4m3.decode (e4m3.encode false true ((x.add e).scale (-h)))
    (q.scale h, (x.add e).add (q.scale h).negate)

/-- The partial a link sends in its hop format, and the residual slot's elements afterwards (07 R232, R233). -/
def sendPartial (l : Link) (anchor : Option Int) (hfmt : Nat) (h : Int) (residual : SMap (BitVec 64)) (scalar : Bool) :
    Partial × SMap (BitVec 64) :=
  let es := if scalar then [0] else List.range 4096
  if hfmt = 0 then ({ x64 := true, elems := l.elems, states := l.states, size := 33792 }, residual)
  else if hfmt = 4 then
    es.foldl (fun (acc : Partial × SMap (BitVec 64)) e =>
      let r := efElement (dp (rne64 (l.value anchor e))) (dp (SMap.get 0 acc.2 e)) h
      ({ acc.1 with elems := SMap.set 0 acc.1.elems e (rne64 r.1) }, SMap.set 0 acc.2 e (rne64 r.2)))
      ({ x64 := false, elems := [], states := [], size := 4096, scale := h }, residual)
  else
    let conv := fun (v : Fp) =>
      if hfmt = 1 then rne64 v
      else if hfmt = 2 then rne64 (f32.decode (f32.rne v))
      else rne64 (fbf.decode (fbf.rne v))
    ({ x64 := false, elems := es.foldl (fun m e => SMap.set 0 m e (conv (l.value anchor e))) [], states := []
       size := if scalar then 8 else if hfmt = 1 then 32768 else if hfmt = 2 then 16384 else 8192 }, residual)

/-- The tick before which a partial for a core of another package cannot be there: its link's route latency from now, and the time
that its bytes take (18 R403); 0 within this package. -/
def State.farArrival (s : State) (a b : Hop) (p : Partial) : Nat :=
  match (if farCore ≤ b.core then s.linkTo b.core else none) with
  | some l => s.ptc + s.routeBy l (s.physDie (s.dieOf a.core)) (SMap.get 24 l.far (b.core - farCore)) + (p.size + 511) / 512
  | none => 0

/-- Puts a partial on its way to hop k + 1 (07 R232): an asynchronous item, and to a core of another package a message
(18 R399, R403). -/
def State.sendHop (s : State) (uid : Nat) (c : Chain) (k : Nat) (p : Partial) : State :=
  match c.hop k, c.hop (k + 1) with
  | some a, some b =>
    let due := s.rt + s.hopLatency a b + (p.size + 511) / 512
    let i : Instr := .hopPerform uid (k + 1) b.slot { p with due := due }
    let s1 : State := { s with fresh := s.fresh + 1 }
    let s2 := s1.post { due := due, rank := 7, core := b.core, act := .event i, landed := false, landAt := max s.later (s.farArrival a b p),
                        pc := c.pc, by' := c.by' }
    if farCore ≤ b.core then s2.tell (b.core - farCore) i else s2
  | _, _ => s

/-- The completion test of a link (07 R227 step 4, R229): the last addition, and the forward. A link of a frozen chain does
not become complete (R243 is silent on it; DESIGN CHOICE, notes/assumptions/53.md). A forward counts once in event 0x14,
however often its bytes are sent again (03 R117; DESIGN CHOICE, notes/assumptions/49.md). -/
def phaseLinkComplete (slot : Nat) (s : State) : State :=
  let l := s.core.link slot
  match s.region.chain l.chain with
  | none => s
  | some c =>
    match c.hop l.hop with
    | none => s
    | some h =>
      if l.role ≠ .hop || l.complete || c.frozen.isSome || decide (l.received < h.count) || (decide (l.hop ≠ 0) && !l.arrived) then s
      else
        let l1 := match l.incoming with
          | some p => { l.addPartial (!h.d64) p (if c.scalar then 1 else 4096) with incoming := none }
          | none => l
        let l2 := { l1 with complete := true }
        if l.hop = c.tail then s.setCore (s.core.setLink slot l2)
        else
          let (p, res) := sendPartial l2 (c.anchorOf l.hop) h.hfmt h.hscale (s.core.link h.rslot).elems c.scalar
          let s1 := s.setCore (s.core.setLink slot { l2 with forwarded := true, sent := some p })
          let s2 := if h.hfmt = 4 then s1.setCore (s1.core.setLink h.rslot { s1.core.link h.rslot with elems := res }) else s1
          (s2.count 0x14 1).sendHop l.chain c l.hop p

/-- HOP_PERFORM: an incoming partial performs (07 R228, R229). -/
def execHopPerform (uid hop slot : Nat) (p : Partial) (s : State) : Answer :=
  match s.region.chain uid with
  | none => .next s
  | some c =>
    let l := s.core.link slot
    .next (if l.role ≠ .hop || l.chain ≠ uid || l.hop ≠ hop then s.chainTrap c 1 ((s.region.base + s.cur.core) * 256 + slot)
      else (s.setCore (s.core.setLink slot { l with incoming := some p, arrived := true })).askComplete slot)

/-! ### Building (07 R230, R231, R235, R236) -/

/-- A signed byte of a record. -/
def signedAt (b : List Byte) (o : Nat) : Int := (b.getD o 0).toInt
/-- `n` bytes of a record from offset `o` are zero. -/
def zeroAt (b : List Byte) (o n : Nat) : Bool := ((b.drop o).take n).all (· == 0)

/-- The hop entry in 16 bytes (07 R231); `here` gives the core that a logical number names. -/
def hopOf (here : Nat → Nat) (b : List Byte) : Hop :=
  let mode := fieldAt b 3 1
  let pair := mode / 4 % 4
  { core := here (fieldAt b 0 2), slot := fieldAt b 2 1, d64 := mode % 2 == 1
    anchor := if mode / 2 % 2 = 1 then (if pair = 0 then -18 else if pair = 1 then -15 else if pair = 2 then 0 else -6) else signedAt b 4
    hfmt := fieldAt b 5 1, count := fieldAt b 6 2 % 4096, hscale := signedAt b 8, rslot := fieldAt b 9 1
    plat := fieldAt b 10 2 }

/-- The close specification in 32 bytes (07 R237). -/
def closeOf (b : List Byte) : CloseSpec :=
  let fl := fieldAt b 1 1
  { ofmt := fieldAt b 0 1, rz := fl % 2 == 1, sat := fl / 2 % 2 == 1, cscl := fl / 4 % 2 == 1, norm := fl / 8 % 2 == 1
    dring := fieldAt b 2 1 % 16, cring := fieldAt b 3 1, scale := BitVec.ofNat 32 (fieldAt b 4 4), nch := fieldAt b 8 1 }

/-- A hop entry keeps the rules of R231, on its own. -/
def State.hopOk (s : State) (b : List Byte) (h : Hop) (isTail : Bool) : Bool :=
  let mode := fieldAt b 3 1
  let da := mode / 2 % 2 == 1
  decide (h.core < max s.region.ncores (if s.region.total = 0 then 0 else farCore + s.region.total)) && decide (mode / 16 = 0) &&
  (da || decide (mode / 4 % 4 = 0)) && !(da && h.d64) &&
  ((!da && !h.d64) || decide (fieldAt b 4 1 = 0)) && decide (h.hfmt ≤ 4) && (!isTail || (decide (h.hfmt = 0) && decide (h.plat = 0))) &&
  decide (1 ≤ h.count) && decide (fieldAt b 6 2 / 4096 = 0) &&
  (decide (h.hfmt = 4) || (decide (h.hscale = 0) && decide (h.rslot = 0))) && decide (h.plat ≤ s.region.xlat) &&
  zeroAt b 12 4

/-- The step from hop a to hop b is allowed (07 R235): a hop between packages gives its PLAT (18 R402, R403). -/
def State.stepOk (s : State) (a b : Hop) : Bool :=
  (if a.hfmt = 0 then !a.d64 && !b.d64 && decide (a.anchor = b.anchor) else b.d64) &&
  (if s.packageOf a.core = s.packageOf b.core then decide (a.plat = 0) else decide (1 ≤ a.plat))

/-- Neighbouring hops pairwise. -/
def pairsOk (f : Hop → Hop → Bool) : List Hop → Bool
  | a :: b :: l => f a b && pairsOk f (b :: l)
  | _ => true

/-- No two names of slots are equal. -/
def distinct : List (Nat × Nat) → Bool
  | [] => true
  | a :: l => !l.contains a && distinct l

/-- No two hops stand in one slot, and no residual slot is a hop's slot of its core (07 R235). -/
def slotsOk (hops : List Hop) : Bool :=
  let own := hops.map fun h => (h.core, h.slot)
  distinct own && hops.all fun h => h.hfmt != 4 || !own.contains (h.core, h.rslot)

/-- The chain of a 320-byte descriptor, if CHBUILD accepts it (07 R230, R231, R235, R237, R241). A CRING above 15 under
CSCL names no ring and is refused here (R237 reserves no bits of it; DESIGN CHOICE, notes/assumptions/55.md). -/
def State.chainOf (s : State) (b : List Byte) (id : Nat) (pc : Word) (by' : Nat) : Option Chain :=
  let n := fieldAt b 0 1
  let fl := fieldAt b 1 1
  let entry := fun k => (b.drop (0x20 + 16 * k)).take 16
  let hops := (List.range (min n 16)).map fun k => hopOf s.localCore (entry k)
  let cb := b.drop 0x120
  let z := closeOf cb
  let scalar := fl / 2 % 2 == 1
  let ok := decide (1 ≤ n) && decide (n ≤ 16) && decide (fl / 4 = 0) && zeroAt b 2 30 &&
    zeroAt b (0x20 + 16 * n) (16 * (16 - n)) &&
    (hops.zipIdx.all fun (h, k) => s.hopOk (entry k) h (k + 1 == n)) && pairsOk s.stepOk hops && slotsOk hops &&
    (decide (z.ofmt ≤ 2) || (decide (4 ≤ z.ofmt) && decide (z.ofmt ≤ 8))) && decide (fieldAt cb 1 1 / 16 = 0) &&
    (!z.sat || decide (z.ofmt ≤ 1)) && decide (fieldAt cb 2 1 / 16 = 0) &&
    (if z.cscl then decide (z.cring < 16) else decide (z.cring = 0)) && (z.norm || decide (z.nch = 0)) && zeroAt cb 9 23 &&
    (!scalar || (hops.all (fun h => h.d64) && (hops.dropLast.all fun h => h.hfmt == 1) && !z.cscl && !z.norm && !z.sat))
  if ok then some { id := id, bytes := b, trapFrz := fl % 2 == 1, scalar := scalar, hops := hops, close := z, by' := by', pc := pc,
                    arrivedHops := [], frozen := none, ended := false }
  else none

/-- The descriptor at A in the scratchpad, if CHBUILD accepts it. -/
def State.chainAt (s : State) (a id : Nat) (pc : Word) (by' : Nat) : Option Chain := s.chainOf (s.sread a 320) id pc by'

/-- The identity that a CHBUILD gives its chain: in a joined region no two members give one (07 R228). -/
def State.newChain (s : State) : Nat × State :=
  let (u, s1) := s.newUid
  (match (s.ctx s.task.ctx).join with | some j => if s.region.total = 0 then u else u * 16 + j.self | none => u, s1)

/-- A configuration or splice of a hop goes on its way to its host, and to another package as a message. -/
def State.configure (s : State) (c : Chain) (h : Hop) (at' : Nat) (i : Option ChainMsg → Instr) (pc : Word) (by' : Nat)
    (all : Bool) : State :=
  let m : ChainMsg := ⟨at', c.id, s.region.base + s.cur.core, c.pc.toNat, c.bytes⟩
  let s1 := s.post { due := at', rank := 5, core := h.core, act := .event (i none), pc := pc, by' := by' }
  if all then s1.tellHosts c (i (some m))
  else if farCore ≤ h.core then s1.tell (h.core - farCore) (i (some m)) else s1

/-- CHBUILD (07 R235): the descriptor is sampled at issue + 3. -/
def execChbuild (i : BitVec 8) (a : Reg) (s : State) : Answer :=
  s.needTimed (.chbuild i a) (s.descAddr (s.rx a) 64 320
    ((s.phaseIn 3 10 [s.cur.core] (.chainSample i.toNat (s.rx a).toNat s.core.pc)).finish 1))

/-- The second part of CHBUILD, at issue + 3 (07 R235). -/
def phaseChainSample (id a : Nat) (pc : Word) (s : State) : State :=
  if s.core.spoisoned a 320 then s.trapUnit 0 0x0C 3 (BitVec.ofNat 64 a) pc s.cur.core
  else
    match s.chainAt a id pc s.cur.core with
    | none => s.trapUnit 0 0x0A 3 (BitVec.ofNat 64 a) pc s.cur.core
    | some c =>
      let (uid, s1) := s.newChain
      c.hops.zipIdx.foldl (fun s (h, k) =>
        let at' := s.rt + s.lambda h.core + 21
        let s2 := s.configure c h at' (fun m => .chainConfigArrival uid k h.slot false ⟨false, m⟩) pc c.by' false
        if h.hfmt = 4 then s2.configure c h at' (fun m => .chainConfigArrival uid k h.rslot true ⟨false, m⟩) pc c.by' false else s2)
        (s1.setChain uid c)

/-- The core in focus holds a link of another chain under the id that has not been closed or freed (07 R236). -/
def State.idHosted (s : State) (id uid : Nat) : Bool :=
  s.core.links.any fun (_, l) => l.role == .hop && l.chain != uid &&
    (match s.region.chain l.chain with | some c => c.id == id && !c.ended | none => false)

/-- The bytes that hop k − 1 has forwarded go out again, to hop k's new slot (07 R245). -/
def State.resend (s : State) (uid : Nat) (c : Chain) (hop : Nat) : State :=
  match (if hop = 0 then none else c.hop (hop - 1)) with
  | some a =>
    match (s.coreAt a.core).link a.slot with
    | { forwarded := true, sent := some p, .. } => s.sendHop uid c (hop - 1) p
    | _ => s
  | none => s

/-- What a splice does beside its hop's slot (07 R245): the chain's frozen state is cleared and hop k − 1 sends again. -/
def State.splice (s : State) (uid : Nat) (c : Chain) (hop slot : Nat) : State :=
  let c1 := { c with frozen := none, hops := c.hops.zipIdx.map fun (p : Hop × Nat) => if p.2 = hop then { p.1 with slot := slot } else p.1 }
  (c1.hops.filter fun h => decide (h.core < farCore)).foldl (fun s h =>
      s.post { due := s.rt, rank := 8, core := h.core, act := .phase (.linkComplete h.slot) })
    ((s.setChain uid c1).resend uid c1 hop)

/-- CHAIN_CONFIG_ARRIVAL (07 R227 step 1, R236, R245). A splice of a chain whose CHCLOSE or CHFREE has issued configures its
slot all the same, and nothing releases it (R245 is silent on it; DESIGN CHOICE, notes/assumptions/54.md). -/
def execChainConfigArrival (uid hop slot : Nat) (residual : Bool) (splice : Arrival) (s : State) : Answer :=
  match s.region.chain uid with
  | none => .next s
  | some c =>
    let l := s.core.link slot
    if splice.splice then
      if l.role ≠ .unbuilt then .next (s.chainTrap c 8 c.id)
      else
        let old := ((c.hop hop).map (·.slot)).getD 0
        .next ((s.setCore ((s.core.setLink old { s.core.link old with role := .unbuilt }).setLink slot
          { role := .hop, chain := uid, hop := hop })).splice uid c hop slot)
    else if l.role ≠ .unbuilt || s.idHosted c.id uid then .next (s.chainTrap c 4 c.id)
    else
      let l1 : Link := if residual then { elems := l.elems, states := l.states, role := .residual, chain := uid, hop := hop }
        else { role := .hop, chain := uid, hop := hop }
      .next ((s.setCore (s.core.setLink slot l1)).setChain uid
        (if residual then c else { c with arrivedHops := hop :: c.arrivedHops }))

/-- An item for a core of another package comes due there; what this package learns of it by then is done here. -/
def State.runFar (s : State) (i : Turn) : State :=
  match i with
  | .event (.chainConfigArrival uid hop slot residual splice) =>
    match s.region.chain uid with
    | none => s
    | some c =>
      if splice.splice then s.splice uid c hop slot
      else if residual then s else s.setChain uid { c with arrivedHops := hop :: c.arrivedHops }
  | _ => s

/-! ### Closing (07 R237 to R242) -/

/-- The chain of an id whose tail link the core in focus holds (07 R238 step 1); a chain whose CHCLOSE or CHFREE has issued is found no
more, though its tail may not be released yet (R244 to R246 are silent on it; DESIGN CHOICE, notes/assumptions/72.md). -/
def State.tailOf (s : State) (id : Nat) : Option (Nat × Chain × Nat) :=
  s.core.links.findSome? fun (slot, l) =>
    if l.role = .hop then
      match s.region.chain l.chain with
      | some c => if c.id = id && !c.ended && decide (l.hop = c.tail) then some (l.chain, c, slot) else none
      | none => none
    else none

/-- An output element's pattern (07 R239). -/
def outPattern (z : CloseSpec) (y : Fp) : Nat :=
  match z.ofmt with
  | 0 => e4m3.encode z.rz z.sat y
  | 1 => e5m2.encode z.rz z.sat y
  | 2 => (BitVec.ofInt 8 (y.toInt z.rz 8)).toNat
  | 4 => fbf.encode z.rz false y
  | 5 => f16.encode z.rz false y
  | 6 => f32.encode z.rz false y
  | 7 => (BitVec.ofInt 32 (y.toInt z.rz 32)).toNat
  | _ => f64.encode z.rz false y

/-- The exact value of an output pattern (07 R240). -/
def outValue (z : CloseSpec) (p : Nat) : Fp :=
  match z.ofmt with
  | 0 => e4m3.decode p
  | 1 => e5m2.decode p
  | 2 => Fp.ofInteger (BitVec.ofNat 8 p).toInt
  | 4 => fbf.decode p
  | 5 => f16.decode p
  | 6 => f32.decode p
  | 7 => Fp.ofInteger (BitVec.ofNat 32 p).toInt
  | _ => f64.decode p

/-- Element e closed (07 R239): a finite X64 zero closes as +0 whatever the scales (01 R31). -/
def closeElement (z : CloseSpec) (l : Link) (anchor : Option Int) (scales : List (BitVec 32)) (e : Nat) : Nat :=
  if anchor.isSome && SMap.get 0 l.states e == 0 && SMap.get 0 l.elems e == 0 then 0
  else
    let y := (l.value anchor e).mul (fp z.scale)
    outPattern z (if z.cscl then y.mul (fp (scales.getD (e % 64) 0)) else y)

/-- Releases the chain's links at their cycles after CHCLOSE or CHFREE (07 R242, R246). -/
def State.releaseChain (s : State) (uid : Nat) (c : Chain) (tailAfter : Nat) : State :=
  c.hops.zipIdx.foldl (fun s (h, k) =>
    let at' := s.rt + (if k = c.tail then tailAfter else s.lambda h.core)
    let ev := fun slot s =>
      if farCore ≤ h.core then State.tell s (h.core - farCore) (.chainRelease uid ⟨slot, some (k, at')⟩)
      else State.post s { due := at', rank := 24, core := h.core, act := .event (.chainRelease uid ⟨slot, none⟩) }
    let s1 := ev h.slot s
    if h.hfmt = 4 then ev h.rslot s1 else s1) (s.setChain uid { c with ended := true })

/-- The link of scalar chain NCH on this core with the lowest hop index (07 R238 step 4, R240). -/
def State.normTarget (s : State) (id : Nat) : Option Nat :=
  (s.core.links.foldl (fun (best : Option (Nat × Nat)) (slot, l) =>
    if l.role = .hop then
      match s.region.chain l.chain with
      | some c =>
        if c.id = id && c.scalar && !c.ended then
          (match best with | some (h, _) => if l.hop < h then some (l.hop, slot) else best | none => some (l.hop, slot))
        else best
      | none => best
    else best) none).map (·.2)

/-- A ring is configured and its slot holds `n` bytes. -/
def Ring.holds (r : Ring) (n : Nat) : Bool := r.configured && decide (n ≤ r.slot)

/-- CHCLOSE (07 R238). -/
def execChclose (i : BitVec 8) (s : State) : Answer :=
  s.needTimed (.chclose i) (
    match s.tailOf i.toNat with
    | none => s.raise 0x0A 6 (i.setWidth 64)
    | some (uid, c, slot) =>
      let z := c.close
      if c.frozen.isSome then s.raise 0x0A 5 (i.setWidth 64)
      else if !(s.core.link slot).complete then s.raise 6 7 (i.setWidth 64)
      else if !(s.core.ring z.dring).holds (if c.scalar then 64 else 4096 * outBytes z.ofmt) ||
          (z.cscl && !(s.core.ring z.cring).holds 256) || (z.norm && (s.normTarget z.nch).isNone) then
        s.raise 0x0A 7 (i.setWidth 64)
      else
        let s1 := s.releaseChain uid c 48
        (s1.phaseIn 0 22 [s.cur.core, 0] (.closeTake uid s.core.pc (if z.norm then s.normTarget z.nch else none))).finish 1)

/-- The rows of a close, from issue (07 R239 to R241). -/
def State.closeRows (s : State) (uid : Nat) (tail : Link) (issue seq : Nat) (pc : Word) (normSlot : Option Nat)
    (scales : List (BitVec 32)) : State :=
  match s.region.chain uid with
  | none => s
  | some c =>
    let z := c.close
    let n := outBytes z.ofmt
    let anchor := c.anchorOf c.tail
    let row := fun (at' r : Nat) (bytes : List Byte) (last : Bool) (s : State) =>
      s.post { due := at', rank := 3, key := [issue, 16, s.cur.core], core := s.cur.core,
               act := .event (.closeRowPerform ⟨z.dring, seq, r * 64 * n, bytes, last, pc.toNat, s.cur.core, []⟩), pc := pc, by' := s.cur.core }
    if c.scalar then row (issue + 32) 0 (leBytes n (closeElement z tail anchor scales 0)) true s
    else
      let out := (List.range 4096).map (closeElement z tail anchor scales)
      let s1 := (List.range 64).foldl (fun s r =>
        row (issue + 32 + r / 4) r (((out.drop (64 * r)).take 64).flatMap (leBytes n)) (r == 63) s) s
      match normSlot with
      | none => s1
      | some ns =>
        let q := out.foldl (fun q o => rne64 ((dp q).add ((outValue z o).mul (outValue z o)))) 0
        s1.post { due := issue + 56, rank := 6, key := [16], core := s.cur.core,
                  act := .event (.normContribution ns pc.toNat s.cur.core q), pc := pc, by' := s.cur.core }

/-- CHCLOSE takes its sequence number and samples the tail (07 R238). -/
def phaseCloseTake (uid : Nat) (pc : Word) (normSlot : Option Nat) (s : State) : State :=
  match s.region.chain uid with
  | none => s
  | some c =>
    let (seq, r) := (s.core.ring c.close.dring).take
    let s1 := s.setCore (s.core.setRing c.close.dring r)
    let tail := s.core.link (((c.hop c.tail).map (·.slot)).getD 0)
    if c.close.cscl then s1.phaseIn 1 10 [s.cur.core] (.closeScales uid tail s.rt seq pc normSlot)
    else s1.closeRows uid tail s.rt seq pc normSlot []

/-- The column scales are sampled at issue + 1 (07 R238). -/
def phaseCloseScales (uid : Nat) (tail : Link) (issue seq : Nat) (pc : Word) (normSlot : Option Nat) (s : State) : State :=
  match s.region.chain uid with
  | none => s
  | some c =>
    let r := s.core.ring c.close.cring
    match r.consumerCheck with
    | some tval => s.trapUnit 3 6 2 tval pc s.cur.core
    | none =>
      let a := r.slotAddr r.headSeq
      let scales := (List.range 64).map fun j => BitVec.ofNat 32 (s.snat (a + 4 * j) 4)
      (s.setCore (s.core.setRing c.close.cring r.consume)).closeRows uid tail issue seq pc normSlot scales

/-- CLOSE_ROW_PERFORM (07 R239, R241, 06 R191). -/
def execCloseRowPerform (w : RingWrite) (s : State) : Answer := .next (s.ringWrite 3 w)

/-- NORM_CONTRIBUTION (07 R228, R240). -/
def execNormContribution (slot pc by' : Nat) (q : Word) (s : State) : Answer :=
  .next (s.contribute slot true (BitVec.ofNat 64 pc) by' fun l _ =>
    (s.setCore (s.core.setLink slot { l with
        received := l.received + 1
        elems := SMap.set 0 l.elems 0 (rne64 ((dp (SMap.get 0 l.elems 0)).add (dp q))) })).askComplete slot)

/-- CHAIN_RELEASE (07 R242): the slot becomes unbuilt; its elements stay. -/
def execChainRelease (uid : Nat) (slot : Release) (s : State) : Answer :=
  let l := s.core.link slot.slot
  .next (if l.role ≠ .unbuilt && l.chain = uid then s.setCore (s.core.setLink slot.slot { l with role := .unbuilt }) else s)

/-- CHFREE (07 R246). -/
def execChfree (i : BitVec 8) (s : State) : Answer :=
  s.needTimed (.chfree i) (
    match s.tailOf i.toNat with
    | none => s.raise 0x0A 6 (i.setWidth 64)
    | some (uid, c, _) => (s.releaseChain uid c 1).finish 1)

/-- Λ of 07 R244. -/
def State.bigLambda (s : State) (c : Chain) : Nat := (c.hops.map fun h => s.lambda h.core).foldl max 0

/-- CHSTAT (07 R244). The tail is tested first, then the address (R244 does not order them; DESIGN CHOICE, notes/assumptions/74.md). -/
def execChstat (i : BitVec 8) (a : Reg) (s : State) : Answer :=
  s.needTimed (.chstat i a) (
    match s.tailOf i.toNat with
    | none => s.raise 0x0A 6 (i.setWidth 64)
    | some (uid, c, _) =>
      s.descAddr (s.rx a) 64 320 (
        let n := s.bigLambda c
        (s.phaseIn n 12 [s.cur.core] (.statSample uid (s.rx a).toNat (s.rt + 2 * n + 8))).finish 1))

/-- The 16 bytes of a hop's entry in the status block (07 R244). -/
def hopStatus (received state flags refused : Nat) : List Byte :=
  leBytes 2 received ++ [BitVec.ofNat 8 state, BitVec.ofNat 8 flags] ++ leBytes 4 refused ++ List.replicate 8 0

/-- The status block (07 R244). A frozen chain reads as frozen, whether or not it is still building or its tail is complete
(R244 does not order them; DESIGN CHOICE, notes/assumptions/53.md). The entry of a hop that another package hosts is free
(DESIGN CHOICE, notes/assumptions/58.md). -/
def State.statBlock (s : State) (uid : Nat) (c : Chain) : List Byte :=
  let link := fun (h : Hop) => (s.coreAt h.core).link h.slot
  let mine := fun (h : Hop) => (link h).role == .hop && (link h).chain == uid
  let state : Nat := if c.frozen.isSome then 4
    else if c.arrivedHops.length < c.hops.length then 1
    else if (c.hops.getLast?.map fun h => (link h).complete) = some true then 3 else 2
  let flag := fun (b : Bool) (n : Nat) => if b then n else 0
  [BitVec.ofNat 8 state, BitVec.ofNat 8 ((c.frozen.map (·.1)).getD 0xFF), BitVec.ofNat 8 ((c.frozen.map (·.2)).getD 0)] ++
  List.replicate 61 (0 : Byte) ++
  ((List.range 16).flatMap fun k =>
    match c.hop k with
    | none => List.replicate 16 0
    | some h =>
      if farCore ≤ h.core then
        let v := (Config.freeWord (s.fresh + k)).toNat
        hopStatus (v % 0x1000) (v / 0x1000 % 4) (v / 0x4000 % 16) (v / 2 ^ 32)
      else
        let l := if mine h then link h else {}
        hopStatus l.received (if !mine h then 0 else if l.forwarded then 3 else if l.complete then 2 else 1)
          (flag l.inexact 1 + flag l.arrived 2 + flag l.storageError 4 + flag l.hopFailed 8) l.refused)

/-- CHSTAT samples every host at issue + Λ (07 R244). -/
def phaseStatSample (uid a at' : Nat) (s : State) : State :=
  match s.region.chain uid with
  | none => s
  | some c =>
    ({ s with fresh := s.fresh + 16 } : State).post
      { due := at', rank := 3, key := [2 * s.rt - (at' - 8), 16, s.cur.core], core := s.cur.core,
        act := .phase (.engineWrite a (s.statBlock uid c)) }

/-- A block that an engine writes into the scratchpad of the core in focus. -/
def phaseEngineWrite (a : Nat) (l : List Byte) (s : State) : State := s.setCore (s.core.swrite a l)

/-- Hop k of a chain has forwarded; of one that another package hosts this package does not know it, and the answer is free
(DESIGN CHOICE, notes/assumptions/58.md). -/
def State.hasForwarded (s : State) (h : Hop) : Bool :=
  if farCore ≤ h.core then Config.freeBool s.fresh else ((s.coreAt h.core).link h.slot).forwarded

/-- The hop at which a frozen chain may be spliced: the one whose storage failed, or into which the transfer failed (07 R243,
R245). -/
def Chain.splicePoint (c : Chain) : Option Nat := c.frozen.map fun (f, reason) => if reason = 2 then f + 1 else f

/-- CHSPLICE (07 R245). The tail is tested first, then x[a], then the rest (R245 does not order them; DESIGN CHOICE,
notes/assumptions/74.md). Whether hop k has forwarded, and where the chain is frozen, are tested at the issue (R245 names no
cycle; DESIGN CHOICE, notes/assumptions/54.md). -/
def execChsplice (i : BitVec 8) (a k : Reg) (s : State) : Answer :=
  s.needTimed (.chsplice i a k) (
    let S := (s.rx a).toNat
    match s.tailOf i.toNat with
    | none => s.raise 0x0A 6 (i.setWidth 64)
    | some (uid, c, _) =>
      if 256 ≤ S then s.illegal (s.rx a)
      else
        match c.hop k.toNat with
        | none => s.raise 0x0A 8 (i.setWidth 64)
        | some h =>
          let s1 : State := if farCore ≤ h.core then { s with fresh := s.fresh + 1 } else s
          if s.hasForwarded h || c.splicePoint.any (· != k.toNat) then s1.raise 0x0A 8 (i.setWidth 64)
          else
            (s1.configure c h (s.rt + s.lambda h.core + 24) (fun m => .chainConfigArrival uid k.toNat S false ⟨true, m⟩) s.core.pc s.cur.core true).finish 1)

/-- CHAIN_FREEZE (07 R243): a transfer that fails is recorded at the hop that sends, and that hop's link keeps its flag over a splice (R243
and R244 do not say which of the two hops is meant; DESIGN CHOICE, notes/assumptions/73.md). The chain records the hop and the reason; the members that host its other hops learn of it. -/
def execChainFreeze (uid hop reason : Nat) (s : State) : Answer :=
  match s.region.chain uid with
  | none => .next s
  | some c =>
    if c.frozen.isSome then .next s
    else
      let s1 := s.setChain uid { c with frozen := some (hop, reason) }
      let s2 := match c.hop hop with
        | some h =>
          if farCore ≤ h.core then s1
          else
            let o := s1.coreAt h.core
            (s1.setCoreAt h.core (o.setLink h.slot { o.link h.slot with
              storageError := (o.link h.slot).storageError || reason == 1, hopFailed := (o.link h.slot).hopFailed || reason == 2 })).tellHosts
                c (.chainFreeze uid hop reason)
        | none => s1
      .next (if c.trapFrz then s2.chainTrap c 5 c.id else s2)

/-- An event of a chain that another member of a joined region sends takes its place on the agenda (18 R399, R403): it
performs at the cycle that the message names, or when it comes, if that has passed. -/
def State.fromPeer (s : State) (i : Instr) : State :=
  let s0 := s.setRegion { s.region with ready := false, othersReady := false }
  let put := fun (s : State) (c : Chain) (hop rank due : Nat) (i : Instr) =>
    match c.hop hop with
    | some h => s.post { due := max s.rt due, rank := rank, core := h.core, act := .event i, pc := c.pc, by' := c.by' }
    | none => s
  match i with
  | .hopPerform uid hop _ p =>
    match s.region.chain uid with
    | some c => if (c.hop hop).any (fun h => decide (h.core < farCore)) then put s0 c hop 7 p.due i else s
    | none => s
  | .chainConfigArrival uid hop _ _ ⟨_, some m⟩ =>
    let s1 := match s.region.chain uid with
      | some _ => s0
      | none => match s.chainOf m.bytes m.id (BitVec.ofNat 64 m.pc) (s.localCore m.by') with
        | some c => s0.setChain uid { c with arrivedHops := (List.range c.hops.length).filter fun k => (c.hop k).any fun h => decide (farCore ≤ h.core) }
        | none => s0
    match s1.region.chain uid with
    | some c => put s1 c hop 5 m.due i
    | none => s
  | .chainRelease uid ⟨_, some (hop, due)⟩ =>
    match s.region.chain uid with
    | some c => put (s0.setChain uid { c with ended := true }) c hop 24 due i
    | none => s
  | _ => s

/-! ### Zeroing and reading a slot (07 R247, R248) -/

/-- LZERO (07 R247). -/
def execLzero (n : BitVec 8) (s : State) : Answer :=
  s.needTimed (.lzero n) ((s.phaseIn 8 5 [] (.slotZero n.toNat s.core.pc)).finish 1)

/-- LZERO takes effect at issue + 8 (07 R247). -/
def phaseSlotZero (n : Nat) (pc : Word) (s : State) : State :=
  let l := s.core.link n
  if l.role ≠ .unbuilt then s.trapUnit 3 0x0A 4 (BitVec.ofNat 64 n) pc s.cur.core
  else s.setCore (s.core.setLink n { l with elems := [], states := [], inexact := false })

/-- LREAD and LREAD.m (07 R248). -/
def State.startRead (s : State) (i : Instr) (n : BitVec 8) (m : Reg) (states : Bool) : Answer :=
  s.needTimed i (
    if !(s.core.ring m.toNat).holds (if states then 33792 else 32768) then s.illegal (m.setWidth 64)
    else (s.phaseIn 0 22 [s.cur.core, 0] (.readTake n.toNat m.toNat states s.core.pc)).finish 1)
/-- LREAD (07 R248). -/
def execLread (n : BitVec 8) (m : Reg) (s : State) : Answer := s.startRead (.lread n m) n m false
/-- LREAD.m (07 R248). -/
def execLreadM (n : BitVec 8) (m : Reg) (s : State) : Answer := s.startRead (.lreadM n m) n m true

/-- The state bytes of a link (07 R248). -/
def stateBytes (l : Link) : List Byte :=
  (List.range 1024).map fun b =>
    BitVec.ofNat 8 ((List.range 4).foldl (fun n i => n + (SMap.get 0 l.states (4 * b + i)).toNat * 4 ^ i) 0)

/-- LREAD takes its sequence number and samples the slot (07 R248). -/
def phaseReadTake (n m : Nat) (states : Bool) (pc : Word) (s : State) : State :=
  let l := s.core.link n
  let (seq, r) := (s.core.ring m).take
  let s1 := s.setCore (s.core.setRing m r)
  let row := fun (at' off : Nat) (bytes : List Byte) (last : Bool) (s : State) =>
    s.post { due := at', rank := 3, key := [s1.rt, 16, s.cur.core], core := s.cur.core,
             act := .phase (.ringWrite ⟨m, seq, off, bytes, last, pc.toNat, s.cur.core, []⟩), pc := pc, by' := s.cur.core }
  let s2 := (List.range 64).foldl (fun s r =>
    row (s1.rt + 8 + r) (512 * r) ((List.range 64).flatMap fun e => leBytes 8 (SMap.get 0 l.elems (64 * r + e)).toNat)
      (!states && r == 63) s) s1
  if states then row (s1.rt + 72) 32768 (stateBytes l) true s2 else s2

/-- A row of LREAD performs (07 R248, 06 R191). -/
def phaseRingWrite (w : RingWrite) (s : State) : State := s.ringWrite 3 w

end Sys2Proof.Machine
end

