-- ==== Sys2Proof/Machine/Array.lean ====
section
/-!
DEFINITION. The matrix arrays: FMTW, WLOAD, MMA and the events of their commands (07 R215 to R224, 01 R26, R27, R32, R33).
-/

namespace Sys2Proof.Machine

/-- Array u of a core. -/
def Core.arr (c : Core) (u : Nat) : Arr := SMap.get {} c.arrays u
/-- Replaces an array. -/
def Core.setArr (c : Core) (u : Nat) (a : Arr) : Core := { c with arrays := SMap.put c.arrays u a }

/-- An engine command that names ma2 or ma3 on a BX core is illegal (02 R61). -/
def State.needArray (s : State) (i : Instr) (u : BitVec 2) (t : State) : Answer :=
  if s.onBX && decide (2 ≤ u.toNat) then .next (s.illegal (((encode i).getD 0).setWidth 64)) else s.needTimed i t

/-- FMTW (R222): the push performs at issue + 1. -/
def execFmtw (u : BitVec 2) (a : Reg) (s : State) : Answer :=
  s.needArray (.fmtw u a) u ((s.phaseIn 1 4 [s.cur.core] (.fmtPush u.toNat (s.rx a) s.core.pc)).finish 1)

/-- The push of FMTW (R222). -/
def phaseFmtPush (u : Nat) (v pc : Word) (s : State) : State :=
  let a := s.core.arr u
  if 16 ≤ a.fq.length then s.trapUnit 0 9 4 (BitVec.ofNat 64 u) pc s.cur.core
  else s.setCore (s.core.setArr u { a with fq := a.fq ++ [v] })

/-- The pass time of an MMA (R217). -/
def passTime (fw : Word) : Nat := if fwWfmt fw = 3 then 16 else if fwAfmt fw ≤ 3 then 32 else 64

/-- The start cycle of the next command of an array (R216). -/
def Arr.nextStart (a : Arr) (issue : Nat) (load : Bool) : Nat :=
  match a.last with
  | none => issue + 2
  | some (s, p, wasLoad) => max (issue + 2) (s + (if wasLoad then (if load then 64 else 72) else p))

/-- WLOAD and MMA at issue (R223): the format word is popped whether or not a fault follows (R26); a poisoned entry of the queue traps
(17 R382; its number is DESIGN CHOICE, notes/assumptions/36.md). -/
def State.startArray (s : State) (u : Nat) (load orientC : Bool) (link ring : Nat) : State :=
  let a := s.core.arr u
  match a.fq with
  | [] => s.raise 6 8 (BitVec.ofNat 64 u)
  | fw :: rest =>
    let bad := (a.fqBad.filter (· != 0)).map (· - 1)
    let popped := s.setCore (s.core.setArr u { a with fq := rest, fqBad := bad })
    if a.fqBad.contains 0 then popped.raise 0x0C 7 (BitVec.ofNat 64 (2 * 256 + 16 * u))
    else if !formatWordLegal fw then popped.raise 9 1 fw
    else if !load && a.wfmt ≠ some (fwWfmt fw) then popped.raise 9 2 fw
    else if 16 ≤ a.waiting.length then popped.raise 9 5 (BitVec.ofNat 64 u)
    else
      let (uid, s1) := s.newUid
      let start := a.nextStart s.rt load
      let cmd : ArrCmd := { uid := uid, load := load, orientC := orientC, link := link, ring := ring, fw := fw, pc := s.core.pc,
                            issue := s.rt, start := start, slotAddr := 0, eA := none, bytes := [], tile := none,
                            checked := none, poison := false }
      let a1 := { a with fq := rest, fqBad := bad, waiting := a.waiting ++ [cmd], last := some (start, passTime fw, load)
                         wfmt := if load then some (fwWfmt fw) else a.wfmt }
      ((s1.setCore (s1.core.setArr u a1)).post { due := start, rank := 10, key := [s.cur.core, u], core := s.cur.core,
                                                 act := .event (.arrayCommandStart u), pc := s.core.pc, by' := s.cur.core }).finish 1

/-- WLOAD (R221, R223). -/
def execWload (u : BitVec 2) (m : Reg) (s : State) : Answer :=
  s.needArray (.wload u m) u (s.startArray u.toNat true false 0 m.toNat)
/-- MMA.r (R221, R223). -/
def execMmaR (u : BitVec 2) (l : BitVec 8) (m : Reg) (s : State) : Answer :=
  s.needArray (.mmaR u l m) u (s.startArray u.toNat false false l.toNat m.toNat)
/-- MMA.c (R221, R223). -/
def execMmaC (u : BitVec 2) (l : BitVec 8) (m : Reg) (s : State) : Answer :=
  s.needArray (.mmaC u l m) u (s.startArray u.toNat false true l.toNat m.toNat)

/-- The format of a command's tile. -/
def ArrCmd.fmt (c : ArrCmd) : Nat := if c.load then fwWfmt c.fw else fwAfmt c.fw
/-- Bytes of a command's tile (R218). -/
def ArrCmd.size (c : ArrCmd) : Nat := 4096 * operandBytes c.fmt
/-- Rows sampled in one cycle (R218). -/
def ArrCmd.rowsPerCycle (c : ArrCmd) : Nat := if c.load then 1 else 64 / passTime c.fw

/-- Element e of a tile's bytes. -/
def tileElement (fmt : Nat) (bytes : List Byte) (e : Nat) : Fp :=
  operand fmt (leNat ((bytes.drop (e * operandBytes fmt)).take (operandBytes fmt)))

/-- All elements of a run of bytes, in order. -/
def elements (fmt : Nat) : Nat → List Byte → List Fp
  | 0, _ => []
  | n + 1, l => operand fmt (leNat (l.take (operandBytes fmt))) :: elements fmt n (l.drop (operandBytes fmt))

/-- The largest floor(log2 |v|) above finite non-zero elements (01 R33). -/
def largestExp (fmt : Nat) (l : List Byte) : Option Int :=
  (elements fmt (l.length / operandBytes fmt) l).foldl (fun m v => maxExp m v.logFloor) none

/-- The identity of a built X64 hop link in a slot, with its chain, for the check of R220. -/
def State.x64Link (s : State) (slot : Nat) : Option (Nat × Chain × Int) :=
  let l := s.core.link slot
  if l.role = .hop then
    match s.region.chain l.chain with
    | some c =>
      match c.anchorOf l.hop with
      | some a => if c.scalar then none else some (l.chain * 16 + l.hop, c, a)
      | none => none
    | none => none
  else none

/-- ARRAY_COMMAND_START (R216, R218, R220, 17 R382): the slot's checks, then the samplings of the tile. An operand tile that
is poisoned and over the bound raises the poison trap alone (no rule orders the two traps of one unit in one cycle;
DESIGN CHOICE, notes/assumptions/52.md). -/
def execArrayCommandStart (u : Nat) (s : State) : Answer :=
  let a := s.core.arr u
  match a.waiting with
  | [] => .next s
  | cmd :: rest =>
    let r := s.core.ring cmd.ring
    let trap := fun (cause sub : Nat) (tval : Word) => .next (s.trapUnit 2 cause sub tval cmd.pc s.cur.core)
    match ({ r with early := [] } : Ring).consumerCheck with
    | some tval => trap 6 2 tval
    | none =>
      let addr := r.slotAddr r.pops
      let bytes := takeBytes s.core.scratch addr cmd.size
      if r.slot < cmd.size then trap 1 0 (BitVec.ofNat 64 cmd.ring)
      else if s.core.spoisoned addr cmd.size then trap 0x0C 4 (BitVec.ofNat 64 addr)
      else
        let eA := largestExp cmd.fmt bytes
        let eW := a.tile.bind (·.eW)
        let x64 := if cmd.load then none else s.x64Link cmd.link
        let bad := match x64 with
          | some (_, c, anchor) => !boundOk c.products anchor eA eW (fwA cmd.fw) (fwW cmd.fw)
          | none => false
        if bad then trap 9 3 (BitVec.ofNat 64 cmd.link)
        else
          let p := if cmd.load then 64 else passTime cmd.fw
          let cmd1 := { cmd with slotAddr := addr, eA := eA, tile := a.tile, checked := x64.map (·.1) }
          let a1 := { a with waiting := rest, running := a.running ++ [cmd1], lastStart := s.rt, lastPass := p }
          let s1 := s.setCore (s.core.setArr u a1)
          let s2 := s1.post { due := s.rt + p - 1, rank := 2, core := s.cur.core, act := .phase (.ringPop cmd.ring cmd.uid) }
          .next (s2.phaseIn 0 10 [s.cur.core, u] (.rowSample u cmd.uid 0))

/-- The samplings of one cycle of a WLOAD or MMA (R218, R220). After the last, the tile or the contribution is due (DEDUCED, notes/assumptions/30.md). -/
def phaseRowSample (u uid row : Nat) (s : State) : State :=
  let a := s.core.arr u
  match a.running.find? (fun c => c.uid == uid) with
  | none => s
  | some cmd =>
    let rowLen := 64 * operandBytes cmd.fmt
    let n := cmd.rowsPerCycle
    let bytes := takeBytes s.core.scratch (cmd.slotAddr + row * rowLen) (n * rowLen)
    let e := largestExp cmd.fmt bytes
    let above := match e, cmd.eA with
      | some x, some y => decide (y < x)
      | some _, none => true
      | none, _ => false
    if !cmd.load && above then s.trapUnit 2 9 3 (BitVec.ofNat 64 cmd.link) cmd.pc s.cur.core
    else
      let cmd1 := { cmd with bytes := cmd.bytes ++ bytes }
      let s1 := s.setCore (s.core.setArr u { a with running := a.running.map fun c => if c.uid == uid then cmd1 else c })
      if row + n < 64 then s1.phaseIn 1 10 [s.cur.core, u] (.rowSample u uid (row + n))
      else if cmd.load then
        let tile : Tile := ⟨cmd.fmt, cmd1.bytes, largestExp cmd.fmt cmd1.bytes⟩
        s1.post { due := cmd.start + 72, rank := 5, core := s.cur.core, act := .event (.wloadTileReplace u tile), pc := cmd.pc, by' := s.cur.core }
      else
        s1.post { due := cmd.start + passTime cmd.fw + 24, rank := 6, key := [u], core := s.cur.core,
                  act := .event (.contributionPerform u uid), pc := cmd.pc, by' := s.cur.core }

/-- WLOAD_TILE_REPLACE (R219). -/
def execWloadTileReplace (u : Nat) (t : Tile) (s : State) : Answer :=
  let a := s.core.arr u
  .next (s.setCore (s.core.setArr u { a with tile := some t, running := a.running.filter fun c => !c.load || decide (s.rt < c.start + 72) }))

/-- The products of element e of a contribution (01 R32): orientation R uses w[k][j], orientation C w[j][k]. -/
def ArrCmd.products (c : ArrCmd) (t : Tile) (e : Nat) : List Fp :=
  (List.range 64).map fun k =>
    ((tileElement (fwAfmt c.fw) c.bytes (64 * (e / 64) + k)).scale (fwA c.fw)).mul
      ((tileElement t.fmt t.bytes (if c.orientC then 64 * (e % 64) + k else 64 * k + e % 64)).scale (fwW c.fw))

/-- CONTRIBUTION_PERFORM (R220, R228, R229, 03 R117 event 0x10). -/
def execContributionPerform (u uid : Nat) (s : State) : Answer :=
  let a := s.core.arr u
  match a.running.find? (fun c => c.uid == uid) with
  | none => .next s
  | some cmd =>
    let s0 := s.setCore (s.core.setArr u { a with running := a.running.filter fun c => c.uid != uid })
    let t := cmd.tile.getD ⟨0, [], none⟩
    .next (s0.contribute cmd.link false cmd.pc s.cur.core fun l c =>
      let anchor := c.anchorOf l.hop
      let unchecked := anchor.isSome && decide (cmd.checked ≠ some (l.chain * 16 + l.hop))
      if unchecked && !boundOk c.products (anchor.getD 0) cmd.eA t.eW (fwA cmd.fw) (fwW cmd.fw) then
        s0.trapUnit 2 9 3 (BitVec.ofNat 64 cmd.link) cmd.pc s.cur.core
      else
        let l1 := l.enter anchor (cmd.products t) 4096
        ((s0.setCore (s0.core.setLink cmd.link { l1 with received := l.received + 1 })).count 0x10 1).askComplete cmd.link)

end Sys2Proof.Machine
end

