-- ==== Sys2Proof/Machine/Control.lean ====
section
/-!
DEFINITION. Control transfer, waits and hardware loops (03 R74, R80 to R92), and the traps that an instruction is for
(03 R110 to R112).
-/

namespace Sys2Proof.Machine

/-- A transfer of control to t: in timed code t has to lie in the code buffer (R83). -/
def State.goTo (s : State) (t : Word) : State :=
  if s.timed && decide (0x10000 ≤ t.toNat) then s.raise 5 5 t
  else (s.count 0x0D 1).jumpTo t 2

/-- A conditional branch (R80, R119). -/
def State.branch (s : State) (o : BitVec 13) (taken : Bool) : Answer :=
  let e := s.core.pc
  let t := e + wordOffset o
  if taken && s.timed && decide (0x10000 ≤ t.toNat) then .next (s.raise 5 5 t)
  else
    let s1 := s.setCore (s.core.sign e taken)
    .next (if taken then s1.goTo t else s1.finish 1)

/-- BEQ (R80). -/
def execBeq (a b : Reg) (o : BitVec 13) (s : State) : Answer := s.branch o (decide (s.rx a = s.rx b))
/-- BNE (R80). -/
def execBne (a b : Reg) (o : BitVec 13) (s : State) : Answer := s.branch o (decide (s.rx a ≠ s.rx b))
/-- BLT (R80). -/
def execBlt (a b : Reg) (o : BitVec 13) (s : State) : Answer := s.branch o ((s.rx a).slt (s.rx b))
/-- BGE (R80). -/
def execBge (a b : Reg) (o : BitVec 13) (s : State) : Answer := s.branch o (!(s.rx a).slt (s.rx b))
/-- BLTN (R80). -/
def execBltn (a b : Reg) (o : BitVec 13) (s : State) : Answer := s.branch o ((s.rx a).ult (s.rx b))
/-- BGEN (R80). -/
def execBgen (a b : Reg) (o : BitVec 13) (s : State) : Answer := s.branch o (!(s.rx a).ult (s.rx b))

/-- J (R81). -/
def execJ (o : BitVec 25) (s : State) : Answer := .next (s.goTo (s.core.pc + wordOffset o))
/-- JAL: the link performs one cycle later (R72, R81). -/
def execJal (d : Reg) (o : BitVec 19) (s : State) : Answer :=
  let t := s.core.pc + wordOffset o
  .next (if s.timed && decide (0x10000 ≤ t.toNat) then s.raise 5 5 t else (s.deliver d (s.core.pc + 4) 1).goTo t)
/-- JR (R82, R119). -/
def execJr (d a : Reg) (i : BitVec 13) (s : State) : Answer :=
  let t := s.rx a + imm i
  .next (if t.toNat % 4 ≠ 0 then s.raise 3 0 t
    else if s.timed && decide (0x10000 ≤ t.toNat) then s.raise 5 5 t
    else
      let s1 := s.deliver d (s.core.pc + 4) 1
      (s1.setCore (s1.core.sign t false)).goTo t)

/-- IDLE n (R84). -/
def execIdle (n : BitVec 19) (s : State) : Answer := .next (s.finish (n.toNat + 1))
/-- The cycle of the next issue, at `T` or one cycle on, whichever is later (R85, R86). -/
def State.waitUntil (s : State) (T : Nat) : State := s.finish (max 1 (T - s.rt))
/-- WAITT (R85, R86): T is an exact sum (00 R12). -/
def execWaitt (a : Reg) (i : BitVec 13) (s : State) : Answer :=
  s.needTimed (.waitt a i) (s.waitUntil ((s.rx a).toNat + i.toNat))
/-- REALIGN (05 R179): T is an exact sum (00 R12). -/
def execRealign (a : Reg) (i : BitVec 13) (s : State) : Answer :=
  let T := (s.rx a).toNat + i.toNat
  s.needTimed (.realign a i) (if T ≤ s.rt then s.raise 6 5 (BitVec.ofNat 64 T) else s.waitUntil T)

/-- A loop instruction (R88): activates a level, or skips the body when the count is 0. -/
def State.startLoop (s : State) (l : Nat) (n : BitVec 32) (words : Nat) : State :=
  let c := s.core
  let p := c.pc
  if c.active.contains l || c.active.any (fun k => decide ((c.loopAt k).stop = p)) then s.raise 0x0D 0 p
  else
    let stop := p + BitVec.ofNat 64 (4 * words)
    let c1 := ((c.setLoop l ⟨n, p + 4, stop⟩).count s.timed 1 1).sign p (decide (n = 0))
    if n = 0 then (s.setCore { c1 with pc := stop + 4 }).issueAfter 2
    else (s.setCore { c1 with active := l :: c.active, pc := p + 4 }).issueAfter 1

/-- LOOP (R87, R88). -/
def execLoop (l : BitVec 2) (a : Reg) (e : BitVec 13) (s : State) : Answer :=
  .next (s.startLoop l.toNat ((s.rx a).setWidth 32) e.toNat)
/-- LOOPI (R87, R88). -/
def execLoopi (l : BitVec 2) (c : BitVec 12) (e : BitVec 11) (s : State) : Answer :=
  .next (s.startLoop l.toNat (c.setWidth 32) e.toNat)
/-- LOOPS (R87, R88, 05 R167). -/
def execLoops (l : BitVec 2) (k : BitVec 6) (e : BitVec 11) (s : State) : Answer :=
  s.needTimed (.loops l k e) (s.startLoop l.toNat (SMap.get 0 s.core.shape k.toNat) e.toNat)

/-- The loop register that an fb field numbers (02 R49). -/
def Core.loopReg (c : Core) (f : Nat) : Word :=
  let v := c.loopAt (f % 4)
  if f / 4 = 0 then v.count.setWidth 64 else if f / 4 = 1 then v.start else v.stop
/-- LREG.r (R91). -/
def execLregRead (d : Reg) (f : BitVec 6) (s : State) : Answer :=
  .next ((s.deliver d (s.core.loopReg f.toNat) 1).finish 1)
/-- LREG.w (R91): a count at any time, an address only of an inactive level. -/
def execLregWrite (a : Reg) (f : BitVec 6) (s : State) : Answer :=
  let c := s.core
  let l := f.toNat % 4
  let v := c.loopAt l
  let x := s.rx a
  .next (if f.toNat / 4 = 0 then (s.setCore (c.setLoop l { v with count := x.setWidth 32 })).finish 1
    else if c.active.contains l then s.raise 0x0D 0 c.pc
    else (s.setCore (c.setLoop l (if f.toNat / 4 = 1 then { v with start := x } else { v with stop := x }))).finish 1)

/-- TRAP n (R110). -/
def execTrap (n : BitVec 19) (s : State) : Answer := .next (s.raise 0x10 0 (n.setWidth 64))
/-- BREAK n (R110). -/
def execBrk (n : BitVec 19) (s : State) : Answer := .next (s.raise 0x11 0 (n.setWidth 64))
/-- TRET (R112). -/
def execTret (s : State) : Answer :=
  s.needLoose .tret (if s.core.handler then ((s.count 1 1).returnTrap).issueAfter 1
    else s.illegal (((encode .tret).getD 0).setWidth 64))
/-- The issue of a word that is no instruction (02 R61). -/
def execIllegalInstruction (w : Word32) (s : State) : Answer := .next (s.illegal (w.setWidth 64))

end Sys2Proof.Machine
end

