-- ==== Sys2Proof/Machine/Alu.lean ====
section
/-!
DEFINITION. Integer operations of the CP (03 R72, R75 to R79).
-/

namespace Sys2Proof.Machine

/-- A result that performs `latency` cycles after its issue, and the next instruction one cycle later (R72, R74). -/
def State.result (s : State) (d : Reg) (v : Word) (latency : Nat) : Answer := .next ((s.deliver d v latency).finish 1)

/-- 1 or 0. -/
def boolWord (b : Bool) : Word := if b then 1 else 0
/-- Leading zeros among `w` bits. -/
def clzNat (w n : Nat) : Nat := w - bitLen n
/-- Trailing zeros: of the bits from `i` up, `fuel` left. -/
def ctzLoop (n : Nat) : Nat → Nat → Nat
  | 0, i => i
  | fuel + 1, i => if n.testBit i then i else ctzLoop n fuel (i + 1)
/-- Number of one bits among the lowest. -/
def popLoop (n : Nat) : Nat → Nat
  | 0 => 0
  | k + 1 => (if n.testBit k then 1 else 0) + popLoop n k
/-- SEXT (R75). -/
def sextTo (w : Nat) (v : Word) : Word :=
  if w = 0 then (v.setWidth 8).signExtend 64 else if w = 1 then (v.setWidth 16).signExtend 64
  else (v.setWidth 32).signExtend 64
/-- MULH (R79). -/
def mulHigh (a b : Word) : Word := BitVec.ofInt 64 (a.toInt * b.toInt / (2 ^ 64 : Nat))
/-- MULHN (R79). -/
def mulHighN (a b : Word) : Word := BitVec.ofNat 64 (a.toNat * b.toNat / 2 ^ 64)
/-- DIV (R79). -/
def divS (a b : Word) : Word := if b = 0 then BitVec.allOnes 64 else BitVec.ofInt 64 (a.toInt.tdiv b.toInt)
/-- REM (R79). -/
def remS (a b : Word) : Word := if b = 0 then a else BitVec.ofInt 64 (a.toInt - a.toInt.tdiv b.toInt * b.toInt)
/-- DIVN (R79). -/
def divN (a b : Word) : Word := if b = 0 then BitVec.allOnes 64 else BitVec.ofNat 64 (a.toNat / b.toNat)
/-- REMN (R79). -/
def remN (a b : Word) : Word := if b = 0 then a else BitVec.ofNat 64 (a.toNat % b.toNat)

/-- ADD (R75). -/
def execAdd (d a b : Reg) (s : State) : Answer := s.result d (s.rx a + s.rx b) 1
/-- SUB (R75). -/
def execSub (d a b : Reg) (s : State) : Answer := s.result d (s.rx a - s.rx b) 1
/-- AND (R75). -/
def execAnd (d a b : Reg) (s : State) : Answer := s.result d (s.rx a &&& s.rx b) 1
/-- OR (R75). -/
def execOr (d a b : Reg) (s : State) : Answer := s.result d (s.rx a ||| s.rx b) 1
/-- XOR (R75). -/
def execXor (d a b : Reg) (s : State) : Answer := s.result d (s.rx a ^^^ s.rx b) 1
/-- SLL (R75). -/
def execSll (d a b : Reg) (s : State) : Answer := s.result d (s.rx a <<< ((s.rx b).toNat % 64)) 1
/-- SRL (R75). -/
def execSrl (d a b : Reg) (s : State) : Answer := s.result d (s.rx a >>> ((s.rx b).toNat % 64)) 1
/-- SRA (R75). -/
def execSra (d a b : Reg) (s : State) : Answer := s.result d ((s.rx a).sshiftRight ((s.rx b).toNat % 64)) 1
/-- SLT (R75). -/
def execSlt (d a b : Reg) (s : State) : Answer := s.result d (boolWord ((s.rx a).slt (s.rx b))) 1
/-- SLTN (R75). -/
def execSltn (d a b : Reg) (s : State) : Answer := s.result d (boolWord ((s.rx a).ult (s.rx b))) 1
/-- MIN (R75). -/
def execMin (d a b : Reg) (s : State) : Answer := s.result d (if (s.rx b).slt (s.rx a) then s.rx b else s.rx a) 1
/-- MAX (R75). -/
def execMax (d a b : Reg) (s : State) : Answer := s.result d (if (s.rx a).slt (s.rx b) then s.rx b else s.rx a) 1
/-- MINN (R75). -/
def execMinn (d a b : Reg) (s : State) : Answer := s.result d (if (s.rx b).ult (s.rx a) then s.rx b else s.rx a) 1
/-- MAXN (R75). -/
def execMaxn (d a b : Reg) (s : State) : Answer := s.result d (if (s.rx a).ult (s.rx b) then s.rx b else s.rx a) 1
/-- CLZ (R75). -/
def execClz (d a : Reg) (s : State) : Answer := s.result d (BitVec.ofNat 64 (clzNat 64 (s.rx a).toNat)) 1
/-- CTZ (R75). -/
def execCtz (d a : Reg) (s : State) : Answer := s.result d (BitVec.ofNat 64 (ctzLoop (s.rx a).toNat 64 0)) 1
/-- POPC (R75). -/
def execPopc (d a : Reg) (s : State) : Answer := s.result d (BitVec.ofNat 64 (popLoop (s.rx a).toNat 64)) 1
/-- SEXT.b, .h, .w (R75). -/
def execSext (d a : Reg) (w : BitVec 6) (s : State) : Answer := s.result d (sextTo w.toNat (s.rx a)) 1
/-- MUL (R79). -/
def execMul (d a b : Reg) (s : State) : Answer := s.result d (s.rx a * s.rx b) 3
/-- MULH (R79). -/
def execMulh (d a b : Reg) (s : State) : Answer := s.result d (mulHigh (s.rx a) (s.rx b)) 3
/-- MULHN (R79). -/
def execMulhn (d a b : Reg) (s : State) : Answer := s.result d (mulHighN (s.rx a) (s.rx b)) 3
/-- DIV (R79). -/
def execDiv (d a b : Reg) (s : State) : Answer := s.result d (divS (s.rx a) (s.rx b)) 34
/-- DIVN (R79). -/
def execDivn (d a b : Reg) (s : State) : Answer := s.result d (divN (s.rx a) (s.rx b)) 34
/-- REM (R79). -/
def execRem (d a b : Reg) (s : State) : Answer := s.result d (remS (s.rx a) (s.rx b)) 34
/-- REMN (R79). -/
def execRemn (d a b : Reg) (s : State) : Answer := s.result d (remN (s.rx a) (s.rx b)) 34
/-- ADDI (R76). -/
def execAddi (d a : Reg) (i : BitVec 13) (s : State) : Answer := s.result d (s.rx a + imm i) 1
/-- ANDI (R76). -/
def execAndi (d a : Reg) (i : BitVec 13) (s : State) : Answer := s.result d (s.rx a &&& imm i) 1
/-- ORI (R76). -/
def execOri (d a : Reg) (i : BitVec 13) (s : State) : Answer := s.result d (s.rx a ||| imm i) 1
/-- XORI (R76). -/
def execXori (d a : Reg) (i : BitVec 13) (s : State) : Answer := s.result d (s.rx a ^^^ imm i) 1
/-- SLTI (R76). -/
def execSlti (d a : Reg) (i : BitVec 13) (s : State) : Answer := s.result d (boolWord ((s.rx a).slt (imm i))) 1
/-- SLTNI (R76). -/
def execSltni (d a : Reg) (i : BitVec 13) (s : State) : Answer := s.result d (boolWord ((s.rx a).ult (imm i))) 1
/-- SLLI (R76). -/
def execSlli (d a : Reg) (sh : BitVec 6) (s : State) : Answer := s.result d (s.rx a <<< sh.toNat) 1
/-- SRLI (R76). -/
def execSrli (d a : Reg) (sh : BitVec 6) (s : State) : Answer := s.result d (s.rx a >>> sh.toNat) 1
/-- SRAI (R76). -/
def execSrai (d a : Reg) (sh : BitVec 6) (s : State) : Answer := s.result d ((s.rx a).sshiftRight sh.toNat) 1
/-- LUI (R77). -/
def execLui (d : Reg) (i : BitVec 19) (s : State) : Answer := s.result d (imm i <<< 13) 1
/-- ADDSH (R78). -/
def execAddsh (d a b : Reg) (sh : BitVec 6) (s : State) : Answer := s.result d (s.rx a + (s.rx b <<< sh.toNat)) 1
/-- MADI (R78). -/
def execMadi (d a b : Reg) (i : BitVec 7) (s : State) : Answer := s.result d (s.rx a + s.rx b * imm i) 3

/-- A CP result performs into its register at its due cycle (R72, R73). -/
def execCpResultPerform (d : Reg) (v : Word) (s : State) : Answer := .next (s.wx d v)

end Sys2Proof.Machine
end

