-- ==== Sys2Proof/Machine/Csr.lean ====
section
/-!
DEFINITION. Control and status registers (02 R50, R51, 03 R107 to R109, R118).
-/

namespace Sys2Proof.Machine

/-- Copy engines that a region of the task has, or would have, on the die of the core in focus (02 R50, 06 R409). -/
def State.cecount (s : State) : Nat :=
  if s.timed then SMap.get 0 s.region.engines (s.dieOf s.cur.core)
  else if s.onBX then (s.ctx s.task.ctx).cesBx else (s.ctx s.task.ctx).cesMx

/-- The value of a CSR at its issue (02 R50, 03 R108). -/
def State.csrRead (s : State) (c : Nat) : Word :=
  match c with
  | 0x000 => BitVec.ofNat 64 s.ptc
  | 0x001 => if s.timed then BitVec.ofNat 64 s.rt else 0
  | 0x002 => if s.timed then BitVec.ofNat 64 s.region.slide else 0
  | 0x003 => if s.timed then BitVec.ofNat 64 s.region.ahead else 0
  | 0x004 => BitVec.ofNat 64 s.slidemax
  | 0x008 => BitVec.ofNat 64 ((if s.timed then s.region.base else 0) + s.cur.core)
  | 0x009 => BitVec.ofNat 64 (s.dieOf s.cur.core)
  | 0x00A => BitVec.ofNat 64 (if s.timed then max s.region.total s.region.ncores else s.task.ncores)
  | 0x00B => BitVec.ofNat 64 s.cecount
  | 0x010 => s.core.cause
  | 0x011 => s.core.epc
  | 0x012 => s.core.tval
  | 0x013 => s.core.tvec
  | 0x018 => s.core.psig
  | 0x019 => BitVec.ofNat 64 s.task.viewId
  | 0x020 => s.core.hpc[0]
  | 0x021 => s.core.hpc[1]
  | 0x022 => s.core.hpc[2]
  | 0x023 => s.core.hpc[3]
  | 0x028 => s.core.hpe[0]
  | 0x029 => s.core.hpe[1]
  | 0x02A => s.core.hpe[2]
  | 0x02B => s.core.hpe[3]
  | _ => 0

/-- The CSR with a value written; bits of reserved fields are discarded (02 R65, 03 R108). -/
def Core.csrSet (c : Core) (n : Nat) (v : Word) : Core :=
  match n with
  | 0x010 => { c with cause := v &&& 0xFFFF }
  | 0x011 => { c with epc := v &&& ~~~3 }
  | 0x012 => { c with tval := v }
  | 0x013 => { c with tvec := v &&& ~~~3 }
  | 0x018 => { c with psig := v }
  | 0x020 => { c with hpc := c.hpc.set 0 v }
  | 0x021 => { c with hpc := c.hpc.set 1 v }
  | 0x022 => { c with hpc := c.hpc.set 2 v }
  | 0x023 => { c with hpc := c.hpc.set 3 v }
  | 0x028 => { c with hpe := c.hpe.set 0 (v &&& 0x3FF) }
  | 0x029 => { c with hpe := c.hpe.set 1 (v &&& 0x3FF) }
  | 0x02A => { c with hpe := c.hpe.set 2 (v &&& 0x3FF) }
  | 0x02B => { c with hpe := c.hpe.set 3 (v &&& 0x3FF) }
  | _ => c

/-- A CSR write (R107, R108, R118). The counters and selectors take their value when the write's own cycle or tick is over,
so that its counts go by the old selector and a written counter loses them; every other CSR takes it at once, before an
update of the same cycle (R119). -/
def State.csrWrite (s : State) (d : Reg) (c : Nat) (v : Word) : Answer :=
  let s1 := s.deliver d (s.csrRead c) 2
  .next (if c < 0x20 then (s1.setCore (s1.core.csrSet c v)).finish 1
    else if s.timed then (s1.phaseIn 0 31 [c] (.csrWrite c v)).finish 1
    else
      let s2 := s1.finish 1
      s2.setCore { s2.core with csrNext := s2.core.csrNext ++ [(c, v)] })

/-- CSRR (R107, R51). -/
def execCsrr (d : Reg) (c : BitVec 11) (s : State) : Answer := .next ((s.deliver d (s.csrRead c.toNat) 2).finish 1)
/-- CSRW (R107). -/
def execCsrw (d a : Reg) (c : BitVec 11) (s : State) : Answer := s.csrWrite d c.toNat (s.rx a)
/-- CSRS (R107). -/
def execCsrs (d a : Reg) (c : BitVec 11) (s : State) : Answer := s.csrWrite d c.toNat (s.csrRead c.toNat ||| s.rx a)
/-- CSRC (R107). -/
def execCsrc (d a : Reg) (c : BitVec 11) (s : State) : Answer := s.csrWrite d c.toNat (s.csrRead c.toNat &&& ~~~s.rx a)

end Sys2Proof.Machine
end

