-- ==== Sys2Proof/Machine/Copying.lean ====
section
/-!
DEFINITION. Copy engines: COPY and COPYD, their rows and digests (06 R205 to R212), and the reads and writes of device
memory that the engines of a region make (08 R263, R264).
-/

namespace Sys2Proof.Machine

/-! ### Engine accesses to memory -/

/-- Serves a read of an agent of the running region whose issue cycle is given (08 R253, R264). -/
def State.regionLoad (s : State) (g : Agent) (k : Access) (issue va n : Nat) : Served :=
  serveRead g k (if s.timed then s.oldByte s.cur.task issue else noOld) (lineFuel n) s va n

/-- An engine write of the running region to memory (08 R264). -/
def State.engineStore (s : State) (g : Agent) (va : Nat) (bytes : List Byte) (bad : List Nat) : Wrote :=
  s.store g .write (some (some s.rt)) bad va bytes

/-! ### Descriptors -/

/-- One level of a nest is well formed (06 R205). -/
def levelOk (k : Nat) (l : CopyLevel) (lflag : Nat) : Bool :=
  decide (1 ≤ l.count) && decide (lflag / 2 = 0) && !(k == 0 && l.circ) &&
  (if l.circ then decide (1 ≤ l.extent) && decide (l.start < l.extent) else decide (l.start = 0) && decide (l.extent = 0)) &&
  (k != 0 || (decide (l.count ≤ 512) && decide (l.sstride = 0) && decide (l.dstride = 0)))

/-- An endpoint is well formed: its space, class, die and core (06 R205). -/
def State.endOk (s : State) (space cls core die base : Nat) : Bool :=
  decide (space ≤ 2) &&
  (if space = 0 then
     decide (1 ≤ cls) && decide (core = 0) && (if cls = 2 then decide (die < 12) else decide (die = 0))
   else
     decide (cls = 0) && decide (core < s.region.ncores) && decide (die = 0) &&
     (space != 2 || (decide (base < 16) && ((s.coreAt core).ring base).configured)))

/-- The rows of an endpoint stay inside the scratchpad or the slot (06 R206, R210): over the corners of the nest. -/
def rowsInside (size : Nat) (base : Int) (rowLen : Nat) (steps : List (Nat × Int)) : Bool :=
  let lo := steps.foldl (fun a (n, st) => a + min 0 (((n - 1 : Nat) : Int) * st)) base
  let hi := steps.foldl (fun a (n, st) => a + max 0 (((n - 1 : Nat) : Int) * st)) base
  decide (0 ≤ lo) && decide (hi + rowLen ≤ size)

/-- The counts and strides of a destination. -/
def CopyDesc.dstSteps (d : CopyDesc) : List (Nat × Int) :=
  if d.tr then (d.tileC, (d.level 1).dstride) :: ((d.levels.drop 2).map fun l => (l.count, l.dstride))
  else (d.levels.drop 1).map fun l => (l.count, l.dstride)

/-- The exact least and greatest index of a circular level matter only at its ends; the smallest index a circular level
reads is its start, or 0 when it wraps. -/
def CopyDesc.srcBase (d : CopyDesc) (base : Nat) : Int :=
  (d.levels.drop 1).foldl (fun a l => if l.circ && decide (l.start + l.count ≤ l.extent) then a + l.start * l.sstride else a) (base : Int)

/-- Steps counted from `srcBase`. -/
def CopyDesc.srcSpan (d : CopyDesc) : List (Nat × Int) :=
  (d.levels.drop 1).map fun l =>
    (if l.circ && !decide (l.start + l.count ≤ l.extent) then (if l.extent ≤ l.start + l.count then l.extent else l.count) else l.count, l.sstride)

/-- A descriptor that COPY or COPYD accepts (06 R205, R206, R209, R210). -/
def State.copyOk (s : State) (a : Nat) (d : CopyDesc) (digest : Bool) : Bool :=
  let l5 := d.level 5
  decide (s.snat (a + 0x14) 1 / 16 = 0) && decide (s.snat (a + 0x15) 1 / 16 = 0) && decide (s.snat (a + 0x18) 1 / 8 = 0) &&
  s.szero (a + 0x19) 3 &&
  (List.range 6).all (fun k => levelOk k (d.level k) (s.snat (a + 0x22 + 16 * k) 2)) &&
  s.endOk d.ssp d.scls d.score d.sdie d.sbase && s.endOk d.dsp d.dcls d.dcore d.ddie d.dbase &&
  (if digest then decide (d.digest % 64 = 0) && decide (d.digest + 64 ≤ Config.scratchBytes) else decide (d.digest = 0)) &&
  (if d.tr then
     decide (d.ssp ≠ 2) && decide (d.dsp ≠ 2) && decide (d.esize ≤ 2) && decide (d.count0 % d.esz = 0) &&
       decide (d.tileR ≤ 64) && decide (d.tileC ≤ 64)
   else decide (d.esize = 0)) &&
  (match d.ssp with
   | 1 => rowsInside Config.scratchBytes (d.srcBase d.sbase) d.count0 d.srcSpan
   | 2 => decide (l5.sstride = 0) && rowsInside ((s.coreAt d.score).ring d.sbase).slot (d.srcBase 0) d.count0 (d.srcSpan.take 4)
   | _ => true) &&
  (match d.dsp with
   | 1 => rowsInside Config.scratchBytes (d.dbase : Int) d.rowBytes d.dstSteps
   | 2 => decide (l5.dstride = 0) && rowsInside ((s.coreAt d.dcore).ring d.dbase).slot 0 d.rowBytes (d.dstSteps.take 4)
   | _ => true)

/-! ### Commands -/

/-- A copy command by identity. -/
def Region.copy (r : Region) (uid : Nat) : Option Copy := r.copies.find? (fun c => c.uid == uid)
/-- Replaces a copy command. -/
def State.setCopy (s : State) (c : Copy) : State :=
  s.setRegion { s.region with copies := s.region.copies.map fun x => if x.uid == c.uid then c else x }

/-- COPY and COPYD (06 R210): an engine that the region has not makes the word illegal, whatever the mode (02 R61, R63);
the queue and the address are checked at issue, the descriptor at issue + 3 (DEDUCED, notes/assumptions/44.md). -/
def State.startCopy (s : State) (i : Instr) (a n : Reg) (digest : Bool) : Answer :=
  if s.cecount ≤ n.toNat then .next (s.illegal (((encode i).getD 0).setWidth 64))
  else s.needTimed i (
      let die := s.dieOf s.cur.core
      if 16 ≤ (s.region.copies.filter fun c => c.die == die && c.engine == n.toNat && !c.done).length then
        s.raise 6 9 (n.setWidth 64)
      else
        s.descAddr (s.rx a) 128 128 (
          let (uid, s1) := s.newUid
          let c : Copy := { uid := uid, digest := digest, engine := n.toNat, core := s.cur.core, die := die, addr := (s.rx a).toNat,
                            pc := s.core.pc, issue := s.rt, start := none, desc := none, dslots := [], sslots := [], staged := [],
                            moved := [], bad := [], stagedRows := 0, rowsDone := 0, done := false }
          let s2 := s1.setRegion { s1.region with copies := s1.region.copies ++ [c] }
          (s2.phaseIn 3 10 [s.cur.core] (.copySample uid)).finish 1))

/-- COPY (06 R210). -/
def execCopy (a n : Reg) (s : State) : Answer := s.startCopy (.copy a n) a n false
/-- COPYD (06 R210). -/
def execCopyd (a n : Reg) (s : State) : Answer := s.startCopy (.copyd a n) a n true

/-- A trap of a copy command (06 R210, 17 R408). -/
def State.copyTrap (s : State) (c : Copy) (cause sub : Nat) (tval : Nat) : State :=
  s.trapUnit 4 cause sub (BitVec.ofNat 64 tval) c.pc c.core

/-- The second part of COPY, at issue + 3 (06 R210, R214). -/
def phaseCopySample (uid : Nat) (s : State) : State :=
  match s.region.copy uid with
  | none => s
  | some c =>
    s.sampled 4 c.addr 128 c.pc c.core (
      let d := readCopyDesc s.localCore s.core c.addr
      if !s.copyOk c.addr d c.digest then s.copyTrap c 1 0 c.addr
      else
        let e := c.die * 8 + c.engine
        let last := SMap.get (0, 0) s.region.engineLast e
        let start := max c.issue (last.1 + ceilDiv last.2 256)
        let s1 := s.setRegion { s.region with engineLast := SMap.put s.region.engineLast e (start, d.total) }
        (s1.setCopy { c with desc := some d, start := some start }).phaseIn 0 22 [c.core, 0] (.copyTake uid))

/-- Posts the staging of the next unit of a copy. -/
def State.postStage (s : State) (c : Copy) (d : CopyDesc) (start q : Nat) : State :=
  if d.stages ≤ q then s
  else s.post { due := max s.rt (c.stageAt d start q), rank := 10, key := [c.core], core := c.core,
                act := .event (.copyRowStage c.uid q), pc := c.pc, by' := c.core }

/-- Takes `n` sequence numbers of a ring into a table from index `i`. -/
def takeNumbers : Nat → Nat → Ring → SMap Nat → Ring × SMap Nat
  | 0, _, r, t => (r, t)
  | n + 1, i, r, t => takeNumbers n (i + 1) r.take.2 (SMap.put t i r.take.1)

/-- COPY takes its destination's sequence numbers (06 R190), and its first row is staged. -/
def phaseCopyTake (uid : Nat) (s : State) : State :=
  match s.region.copy uid with
  | none => s
  | some c =>
    match c.desc, c.start with
    | some d, some start =>
      let (s1, c1) :=
        if d.dsp = 2 then
          let o := s.coreAt d.dcore
          let (r, t) := takeNumbers (d.level 5).count 0 (o.ring d.dbase) []
          (s.setCoreAt d.dcore (o.setRing d.dbase r), { c with dslots := t })
        else (s, c)
      (s1.setCopy c1).postStage c1 d start 0
    | _, _ => s

/-- Posts the performing of the destination rows of stage q. -/
def State.postRows (s : State) (c : Copy) (d : CopyDesc) (start q : Nat) : State :=
  (List.range d.perStage).foldl (fun s j =>
    let r := q * d.perStage + j
    let s1 : State := { s with fresh := s.fresh + 1 }
    s1.post { due := s.rowAt c d start r, rank := 3, key := [c.issue, c.engine, c.core], core := c.core,
              act := .event (.copyRowPerform c.uid r), landed := false, landAt := s.later, die := s.physDie c.die
              pc := c.pc, by' := c.core }) s

/-- The source bytes of a stage in a scratchpad or ring. -/
def sourceBytes (o : Core) (rows : List Nat) (n : Nat) : List Byte := rows.flatMap fun a => takeBytes o.scratch a n

/-- Offsets of the poisoned bytes of a stage, from those of each of its rows. -/
def stageBad (n : Nat) (rows : List (List Nat)) : List Nat := rows.zipIdx.flatMap fun (l, j) => l.map (j * n + ·)

/-- The stage's poison is noted, where it has any. -/
def Copy.noteBad (c : Copy) (q : Nat) (l : List Nat) : Copy := if l.isEmpty then c else { c with bad := SMap.put c.bad q l }

/-- A source row or tile is staged (06 R206, R207, R209): scratchpad and ring bytes are sampled now, memory bytes when
the request is served. A source in another core's scratchpad is covered by that core's early-read checker (R214 does not say whose;
DESIGN CHOICE, notes/assumptions/66.md). -/
def State.stage (s : State) (c : Copy) (d : CopyDesc) (start q : Nat) (base : Nat) : State :=
  let rows := d.srcRows base q
  let o := s.coreAt d.score
  let spans := if d.ssp = 1 then rows.map fun a => (a, d.count0) else []
  let s1 := s.checkAgain 4 d.score spans c.pc c.core
  if (s.earlyReads d.score spans).isSome then s1
  else
    let c1 := { c with stagedRows := q + 1 }
    let c2 := if d.ssp = 0 then c1 else
      ({ c1 with staged := SMap.put c.staged q (sourceBytes o rows d.count0) }).noteBad q (stageBad d.count0 (rows.map fun a => o.sbad a d.count0))
    ((s1.setCopy c2).postRows c2 d start q).postStage c2 d start (q + 1)

/-- COPY_ROW_STAGE (06 R192, R206, R207). -/
def execCopyRowStage (uid q : Nat) (s : State) : Answer :=
  match s.region.copy uid with
  | none => .next s
  | some c =>
    match c.desc, c.start with
    | some d, some start =>
      if d.ssp = 2 then
        let per := d.stages / (d.level 5).count
        let o := s.coreAt d.score
        let r := o.ring d.sbase
        if q % per = 0 then
          match r.consumerCheck with
          | some tval => .next (s.trapUnit 4 6 2 tval c.pc c.core)
          | none =>
            let c1 := { c with sslots := SMap.put c.sslots (q / per) r.headSeq }
            let s1 := (s.setCopy c1).stage c1 d start q (r.slotAddr r.headSeq)
            let lastAt := max s.rt (c.stageAt d start (q + per - 1))
            .next (if lastAt = s.rt then s1.setCoreAt d.score ((s1.coreAt d.score).setRing d.sbase ((s1.coreAt d.score).ring d.sbase).consume)
              else s1.post { due := lastAt, rank := 2, core := d.score, act := .phase (.ringPop d.sbase uid), pc := c.pc, by' := c.core })
        else .next (s.stage c d start q (r.slotAddr (SMap.get 0 c.sslots (q / per))))
      else .next (s.stage c d start q d.sbase)
    | _, _ => .next s

/-- The pop of a ring's head slot (06 R192). -/
def phaseRingPop (n : Nat) (s : State) : State := s.setCore (s.core.setRing n (s.core.ring n).pop)

/-- A read of the memory source of a stage, at the home (06 R207, 08 R264). -/
def fetchRows (g : Agent) (issue n : Nat) : State → List Nat → Served
  | s, [] => .done [] false s
  | s, a :: l =>
    match s.regionLoad g .read issue a n with
    | .done b p s1 =>
      match fetchRows g issue n s1 l with
      | .done b2 p2 s2 => .done (b ++ b2) (p || p2) s2
      | .failed v t => .failed v t
    | .failed v t => .failed v t

/-- Bytes of destination row r, from the staged bytes of its stage (06 R206, R209). -/
def CopyDesc.rowBytesOf (d : CopyDesc) (staged : List Byte) (r : Nat) : List Byte :=
  if d.tr then
    (List.range d.tileR).flatMap fun i => (staged.drop (i * d.count0 + r % d.tileC * d.esz)).take d.esz
  else staged

/-- Offsets of the poisoned bytes of destination row r, from those of its stage of n bytes (17 R382). -/
def CopyDesc.badOf (d : CopyDesc) (n : Nat) (bad : List Nat) (r : Nat) : List Nat :=
  if bad.isEmpty then []
  else ((d.rowBytesOf ((List.range n).map fun i => if bad.contains i then 1 else 0) r).zipIdx.filter fun p => p.1 == 1).map (·.2)

/-- The address of the first source byte of row r: in memory, in the scratchpad, or in the ring slot that its stage samples (17 R382). -/
def State.rowSourceAt (s : State) (c : Copy) (d : CopyDesc) (r : Nat) : Nat :=
  let q := r / d.perStage
  let base := if d.ssp = 2 then
      ((s.coreAt d.score).ring d.sbase).slotAddr (SMap.get 0 c.sslots (q / max 1 (d.stages / max 1 (d.level 5).count))) else d.sbase
  (d.srcRows base q).headD 0 + (if d.tr then r % d.tileC * d.esz else 0)

/-- What a copy row still needs before it can land: its memory source served, its memory destination writable. -/
inductive RowReady where
  | ready (s : State)
  /-- `hedgerow`: the context whose quota stands in the way -/
  | notYet (hedgerow : Option Nat)
  | trapped (va : Nat) (t : Tr)

/-- The end of the page in use at an address: of the block that the agent's TLB holds, or of the page that a walk finds (11 R311, R312). -/
def State.pageEnd (s : State) (g : Agent) (va : Nat) : Option Nat :=
  match (s.ctx g.ctx).tlb.find? fun e => e.unit == g.unit && decide (e.base ≤ va) && decide (va < e.base + e.size) with
  | some e => some (e.base + e.size)
  | none => match walk s g.ctx va with
    | .ok w => let (base, size) := w.block va (Config.choose s.fresh); some (base + size)
    | .error _ => none

/-- A stream TLB prefetches the translation of the next page, in address order, that holds a later row or beat of the command, given as
addresses and lengths; a prefetch that meets a fault records nothing (11 R312). -/
def State.prefetch (s : State) (g : Agent) (va : Nat) (later : Unit → List (Nat × Nat)) : State :=
  match s.pageEnd g va with
  | none => s
  | some top =>
    match ((later ()).filterMap fun (a, n) => if top < a + n then some (max a top) else none).min? with
    | some a => s.noteTlb g a
    | none => s

/-- Rows of a copy's memory source from stage q on. -/
def CopyDesc.sourcesFrom (d : CopyDesc) (q : Nat) : List (Nat × Nat) :=
  (List.range (d.stages - q)).flatMap fun i => (d.srcRows d.sbase (q + i)).map fun a => (a, d.count0)
/-- Rows of a copy's memory destination from row r on. -/
def CopyDesc.destsFrom (d : CopyDesc) (r : Nat) : List (Nat × Nat) := (List.range (d.rows - r)).map fun i => (d.dstRow d.dbase (r + i), d.rowBytes)

/-- Serves the memory source of a stage, once. -/
def State.rowSource (s : State) (c : Copy) (d : CopyDesc) (start q : Nat) : RowReady :=
  if d.ssp ≠ 0 || SMap.has c.staged q then .ready s
  else
    let g := s.copyAgent c.die c.engine
    let rows := d.srcRows d.sbase q
    match fetchRows g start d.count0 (s.prefetch g (rows.headD 0) fun _ => d.sourcesFrom (q + 1)) rows with
    | .done b p s1 =>
      .ready (s1.setCopy (({ c with staged := SMap.put c.staged q b }).noteBad q
        (if p then stageBad d.count0 (rows.map fun a => s.badBytes g .read a d.count0) else [])))
    | .failed v t => if resolvable t && !s.region.declared then .notYet none else .trapped v t

/-- Whether a copy row can land now (06 R207, R211, 12 R334). -/
def State.rowReady (s : State) (c : Copy) (d : CopyDesc) (start r : Nat) : RowReady :=
  match s.rowSource c d start (r / d.perStage) with
  | .ready s1 =>
    if d.dsp ≠ 0 then .ready s1
    else
      let g := s.copyAgent c.die c.engine
      match writeCheck g .write (lineFuel d.rowBytes) s (d.dstRow d.dbase r) d.rowBytes with
      | .done _ => .ready (s1.prefetch g (d.dstRow d.dbase r) fun _ => d.destsFrom (r + 1))
      | .waits c => .notYet (some c)
      | .failed v t => if resolvable t && !s.region.declared then .notYet none else .trapped v t
  | w => w

/-- A copy row lands in its destination; `bad` gives the offsets of its poisoned bytes. -/
def State.putRow (s : State) (c : Copy) (d : CopyDesc) (r : Nat) (bytes : List Byte) (bad : List Nat) : State :=
  if d.dsp = 0 then
    match s.engineStore (s.copyAgent c.die c.engine) (d.dstRow d.dbase r) bytes bad with
    | .done s1 => s1
    | .waits _ => s
    | .failed v t => s.copyTrap c (trCause t).1 (trCause t).2 v
  else if d.dsp = 1 then
    s.setCoreAt d.dcore (((s.coreAt d.dcore).swrite (d.dstRow d.dbase r) bytes).smark (d.dstRow d.dbase r) bad)
  else
    let per := d.rows / (d.level 5).count
    let w : RingWrite := { ring := d.dbase, seq := SMap.get 0 c.dslots (r / per), off := d.dstRow 0 r, bytes := bytes,
                           last := decide (r % per = per - 1), pc := c.pc.toNat, by' := c.core, poison := bad }
    ((s.at' d.dcore).ringWrite 4 w).at' s.cur.core

/-- COPY_ROW_PERFORM (06 R207, R208, R210, 17 R382). -/
def execCopyRowPerform (uid r : Nat) (s : State) : Answer :=
  match s.region.copy uid with
  | none => .next s
  | some c0 =>
    match c0.desc, c0.start with
    | some d, some start =>
      match s.rowReady c0 d start r with
      | .trapped v t => .next (s.copyTrap c0 (trCause t).1 (trCause t).2 v)
      | .notYet h => .next (s.slideBack h)
      | .ready s1 =>
        let c := (s1.region.copy uid).getD c0
        let q := r / d.perStage
        let bytes := d.rowBytesOf (SMap.get [] c.staged q) r
        let bad := d.badOf ((SMap.get [] c.staged q).length) (SMap.get [] c.bad q) r
        if !bad.isEmpty && (c.digest || (d.dsp == 0 && d.dcls == 3)) then
          .next (s1.copyTrap c 0x0C 6 (s1.rowSourceAt c d r))
        else
          let s2 := (s1.putRow c d r bytes bad).count 0x11 1
          let last := decide (d.rows ≤ r + 1)
          let c1 := { c with rowsDone := r + 1, moved := if c.digest then c.moved ++ bytes else [], done := last
                             staged := if (r + 1) % d.perStage = 0 then SMap.del c.staged q else c.staged
                             bad := if (r + 1) % d.perStage = 0 then SMap.del c.bad q else c.bad }
          let s3 := s2.setCopy c1
          .next (if last && c.digest then
              s3.post { due := s.rt + 64, rank := 3, key := [c.issue, c.engine, c.core], core := c.core,
                        act := .event (.copydDigestPerform uid), pc := c.pc, by' := c.core }
            else if last then s3.setRegion { s3.region with copies := s3.region.copies.filter (·.uid != uid) }
            else s3)
    | _, _ => .next s

/-- COPYD_DIGEST_PERFORM (06 R210): SHA-512 of the destination bytes in row order. -/
def execCopydDigestPerform (uid : Nat) (s : State) : Answer :=
  match s.region.copy uid with
  | none => .next s
  | some c =>
    let at' := (c.desc.map (·.digest)).getD 0
    let s1 := s.setCore (s.core.swrite at' (sha512 c.moved))
    .next (s1.setRegion { s1.region with copies := s1.region.copies.filter (·.uid != uid) })

end Sys2Proof.Machine
end

