-- ==== Sys2Proof/Machine/Stream.lean ====
section
/-!
DEFINITION. Configurations, runs and stream engines: SSTR, GCFG, GRUN and their events (06 R197 to R204, 04 R125 to R139).
-/

namespace Sys2Proof.Machine

/-! ### Streams (06 R197 to R202) -/

/-- A stream of a core by identity. -/
def Core.stream (c : Core) (uid : Nat) : Option Stream := c.streams.find? (fun t => t.uid == uid)
/-- Replaces a stream. -/
def Core.setStream (c : Core) (t : Stream) : Core := { c with streams := c.streams.map fun x => if x.uid == t.uid then t else x }
/-- The element that a stream engine serves (04 R125). -/
def streamElement (se : Nat) : Nat := if se < 4 then 8 * se else 8 * (se - 4) + 7
/-- A trap of a stream, which belongs to the GRUN that committed it (17 R408). -/
def State.streamTrap (s : State) (u : Run) (cause sub : Nat) (tval : Word) : State :=
  s.trapUnit 5 cause sub tval u.pc s.cur.core

/-- SSTR (06 R202): stages a stream; its descriptor is sampled at issue + 3. -/
def execSstr (a n : Reg) (s : State) : Answer :=
  s.needTimed (.sstr a n) (s.descAddr (s.rx a) 64 64 (
    let (uid, s1) := s.newUid
    let t : Stream := { uid := uid, se := n.toNat, addr := (s.rx a).toNat, pc := s.core.pc, at' := s.rt + 3, desc := none,
                        run := none, slots := [], pairs := 0, fetched := [], done := false }
    let old := s1.core.streams.map fun x => if x.se == n.toNat && x.run.isNone then { x with done := true } else x
    ((s1.setCore { s1.core with streams := old ++ [t] }).phaseIn 3 10 [s.cur.core] (.streamSample uid)).finish 1))

/-- A stream descriptor that SSTR accepts (06 R197, R198, R201, R202). One in virtual memory whose BASE or a STRIDE breaks R198's alignment
is refused as one in the scratchpad is (R202 names the refusal of a breach of R198 for the scratchpad and rings alone; DESIGN CHOICE,
notes/assumptions/70.md). -/
def State.streamOk (s : State) (se a : Nat) (d : StreamDesc) : Bool :=
  let align : Nat := if d.kind = 0 then 4 else 2
  let reserved := decide (s.snat (a + 1) 1 / 16 = 0) && s.szero (a + 0x30) 16 &&
    (List.range 4).all (fun k => s.szero (a + 0x12 + 8 * k) 2)
  let classes := if d.space = 2 then decide (1 ≤ d.cls) && (if d.cls = 2 then decide (d.die < 12) else decide (d.die = 0))
    else decide (d.cls = 0) && decide (d.die = 0)
  let steps := d.levels
  reserved && decide (d.dir ≤ 2) && decide (d.space ≤ 2) && decide (d.kind ≤ 1) && classes &&
  (if d.dir = 2 then
     decide (4 ≤ se) && decide (d.space = 1) && decide (d.core = s.cur.core) && decide (d.kind = 0) && decide (d.off = 0) &&
       decide (d.base < 16) && steps.all (fun l => decide (l.1 = 0) && decide (l.2 = 0)) && (s.core.ring d.base).configured &&
       decide ((s.core.ring d.base).slot % 128 = 0)
   else
     steps.all (fun l => decide (1 ≤ l.1) && decide (l.2 % align = 0)) &&
     (match d.space with
      | 0 => decide (d.core = 0) && decide (d.base % align = 0) && decide (d.base < Config.scratchBytes) &&
          rowsInside Config.scratchBytes (d.base : Int) 64 steps
      | 1 =>
        let r := (s.coreAt d.core).ring d.base
        decide (d.base < 16) && (if d.dir = 0 then decide (d.core = s.cur.core) else decide (d.core < s.region.ncores)) &&
          r.configured && decide ((d.level 3).2 = 0) && rowsInside r.slot 0 64 (steps.take 3)
      | _ => decide (d.core = 0) && decide (d.base % align = 0) && decide (d.base < 2 ^ 56)))

/-- The last beat cycle of the stream that an engine carried before stream `uid` (06 R204). -/
def Core.lastBeat (c : Core) (se uid : Nat) : Option Nat :=
  (c.streams.filter fun t => t.se == se && t.run.isSome && decide (t.uid < uid)).foldl (fun m t =>
    match t.desc, t.run.bind c.runOf with
    | some d, some u =>
      match u.start with
      | some st => if u.n = 0 || d.dir == 2 || d.beats == 0 then m else some (max (m.getD 0) (st + d.off + d.beats - 1))
      | none => m
    | _, _ => m) none

/-- Posts one beat of a stream: the landing of a memory beat, the sampling of a scratchpad or ring beat, or the taking of
an output beat (06 R199). -/
def State.postBeat (s : State) (t : Stream) (u : Run) (d : StreamDesc) (start j : Nat) : State :=
  if d.beats ≤ j then s
  else
    let b := start + d.off + j
    let s1 : State := { s with fresh := s.fresh + 1 }
    if d.dir = 0 && d.space ≠ 2 then
      s.post { due := b - 3, rank := 10, key := [s.cur.core], core := s.cur.core, act := .phase (.beatSample t.uid j), pc := u.pc, by' := s.cur.core }
    else
      s1.post { due := b, rank := if d.dir = 0 then 1 else 22, key := [s.cur.core, 1 + t.se], core := s.cur.core,
                act := .event (.streamBeat t.se u.uid j), landed := decide (d.space ≠ 2), landAt := s.later, die := s.myDie
                pc := u.pc, by' := s.cur.core }

/-- A stream whose run's start and descriptor are both known begins (06 R199, R204). -/
def State.armStream (s : State) (uid : Nat) : State :=
  match s.core.stream uid with
  | none => s
  | some t =>
    match t.run.bind s.core.runOf, t.desc with
    | some u, some d =>
      match u.start with
      | none => s
      | some st =>
        if (s.core.lastBeat t.se uid).any (fun last => decide (st + d.off ≤ last)) then s.trapUnit 5 6 4 u.pc u.pc s.cur.core
        else if u.n = 0 then s.setCore (s.core.setStream { t with done := true })
        else if d.dir = 2 then s
        else (List.range (if d.dir = 0 && d.space == 2 then 64 else 1)).foldl (fun s j => s.postBeat t u d st j) s
    | _, _ => s

/-- SSTR's second part, at issue + 3 (06 R202, R214). -/
def phaseStreamSample (uid : Nat) (s : State) : State :=
  match s.core.stream uid with
  | none => s
  | some t =>
    s.sampled 0 t.addr 64 t.pc s.cur.core (
      let d := readStreamDesc s.localCore s.core t.addr
      if !s.streamOk t.se t.addr d then s.trapUnit 0 1 0 (BitVec.ofNat 64 t.addr) t.pc s.cur.core
      else if t.run.isNone && t.done then s.setCore { s.core with streams := s.core.streams.filter (·.uid != uid) }
      else (s.setCore (s.core.setStream { t with desc := some d })).armStream uid)

/-- The vector of a 64-byte beat: lane i is the word at 4i. -/
def beatVec (l : List Byte) : Vec := Vector.ofFn fun (i : Fin 16) => BitVec.ofNat 32 (leNat ((l.drop (4 * i.val)).take 4))
/-- The bytes of a vector. -/
def vecBytes (v : Vec) : List Byte := v.toList.flatMap fun w => leBytes 4 w.toNat

/-- The base of beat j: the scratchpad or memory base, or its slot's base. -/
def State.beatBase (s : State) (t : Stream) (d : StreamDesc) (k j : Nat) : Nat :=
  if d.space = 1 then ((s.coreAt k).ring d.base).slotAddr (SMap.get 0 t.slots (d.index 3 j)) else d.base

/-- An input beat from the scratchpad or a ring is sampled at its landing cycle - 3 (06 R187, R192, R199, R214). -/
def phaseBeatSample (uid j : Nat) (s : State) : State :=
  match s.core.stream uid with
  | none => s
  | some t =>
    match t.desc, t.run.bind s.core.runOf with
    | some d, some u =>
      let st := u.start.getD 0
      let r := s.core.ring d.base
      let first := d.space == 1 && j % d.perSlot == 0
      match (if first then r.consumerCheck else none) with
      | some tval => s.streamTrap u 6 2 tval
      | none =>
        let t1 := if first then { t with slots := SMap.put t.slots (d.index 3 j) r.headSeq } else t
        let a := d.addr (s.beatBase t1 d s.cur.core j) j
        if d.space = 0 && (s.earlyRead s.cur.core a 64).isSome then s.checkAgain 5 s.cur.core [(a, 64)] u.pc s.cur.core
        else
          let bytes := if s.core.spoisoned a 64 then [] else s.sread a 64
          let s1 := s.setCore (s.core.setStream { t1 with fetched := SMap.put t1.fetched j bytes })
          let s2 := if first then
              (if d.perSlot = 1 then s1.setCore (s1.core.setRing d.base (s1.core.ring d.base).consume)
               else s1.post { due := s.rt + d.perSlot - 1, rank := 2, core := s.cur.core, act := .phase (.ringPop d.base uid) })
            else if d.space = 0 then s1.checkAgain 5 s.cur.core [(a, 64)] u.pc s.cur.core
            else s1
          (s2.post { due := st + d.off + j, rank := 1, key := [s.cur.core, 1 + t.se], core := s.cur.core,
                     act := .event (.streamBeat t.se u.uid j), pc := u.pc, by' := s.cur.core }).postBeat t u d st (j + 1)
    | _, _ => s

/-- An element of the core in focus. -/
def Core.elem (c : Core) (e : Nat) : Elem := SMap.get {} c.els e
/-- Replaces an element. -/
def Core.setElem (c : Core) (e : Nat) (v : Elem) : Core := { c with els := SMap.put c.els e v }

/-- The stream of an engine in a run. -/
def Core.streamIn (c : Core) (se run : Nat) : Option Stream := c.streams.find? (fun t => t.se == se && t.run == some run)

/-- Beats of a memory stream from beat j on: addresses and lengths. -/
def StreamDesc.addrsFrom (d : StreamDesc) (j : Nat) : List (Nat × Nat) := (List.range (d.beats - j)).map fun i => (d.addr d.base (j + i), 64)

/-- The trap value of a beat that fails: the beat's address for a protection fault (R200), the address that does not
translate for a translation fault (11 R309). -/
def beatTval (f : Tr) (beat failing : Nat) : Word :=
  match f with
  | .pfault _ => BitVec.ofNat 64 beat
  | _ => BitVec.ofNat 64 failing

/-- Destination and perform cycle of an output beat (06 R187, R199). -/
def State.beatTarget (s : State) (t : Stream) (u : Run) (d : StreamDesc) (j : Nat) : BeatDest × Nat × Nat :=
  let b := s.rt
  if d.space = 0 then (.scratch (d.addr d.base j), b + 3, s.cur.core)
  else if d.space = 1 then
    (.ring ⟨d.base, SMap.get 0 t.slots (d.index 3 j), d.addr 0 j, [], decide (j % d.perSlot = d.perSlot - 1), u.pc.toNat, s.cur.core, []⟩,
     b + (if d.core = s.cur.core then 3 else s.lambda d.core), d.core)
  else
    (.mem (d.addr d.base j),
     b + (if d.cls = 1 then 1100 else if d.cls = 2 then 1100 + Config.dieLatency s.myDie (s.physDie d.die) else 6000), s.cur.core)

/-- STREAM_BEAT (06 R199, 04 R132): an input beat lands in the stream in-port; an output beat takes the out-port. -/
def execStreamBeat (se run j : Nat) (s : State) : Answer :=
  match s.core.streamIn se run, s.core.runOf run with
  | some t, some u =>
    match t.desc with
    | none => .next s
    | some d =>
      let e := streamElement se
      let st := u.start.getD 0
      let s0 := s.count 0x12 1
      if d.dir = 0 then
        let va := d.addr d.base j
        let fetched : Except (Nat × Tr) (List Byte) :=
          if SMap.has t.fetched j then .ok (SMap.get [] t.fetched j)
          else match s.regionLoad (s.streamAgent se) .read u.issue va 64 with
            | .done b bad _ => .ok (if bad then [] else b)
            | .failed v f => .error (v, f)
        match fetched with
        | .error (v, f) => .next (s.streamTrap u (trCause f).1 (trCause f).2 (beatTval f va v))
        | .ok bytes =>
          if bytes.isEmpty then .next (s.streamTrap u 0x0C 5 (BitVec.ofNat 64 (d.addr (s.beatBase t d s.cur.core j) j)))
          else
            let last := decide (d.beats ≤ j + 1)
            let c := (s0.core.setElem e { s0.core.elem e with strmIn := beatVec bytes }).setStream
              { t with fetched := SMap.del t.fetched j, done := t.done || last }
            .next (if d.space = 2 then (s0.setCore c).postBeat t u d st (j + 64) else s0.setCore c)
      else
        let taken := d.space == 1 && j % d.perSlot == 0
        let o := s0.coreAt d.core
        let (s1, t1) := if taken then
            (s0.setCoreAt d.core (o.setRing d.base (o.ring d.base).take.2),
             { t with slots := SMap.put t.slots (d.index 3 j) (o.ring d.base).take.1 })
          else (s0, t)
        let va := d.addr d.base j
        match (if d.space = 2 then writeLines (s.streamAgent se) .write (lineFuel 64) s va 64 else .ok []) with
        | .error (v, f) => .next (s.streamTrap u (trCause f).1 (trCause f).2 (beatTval f va v))
        | .ok _ =>
          let (dst, at', k) := s1.beatTarget t1 u d j
          let s2 := s1.setCore (s1.core.setStream t1)
          let s2 := if d.space = 2 then s2.prefetch (s.streamAgent se) va fun _ => d.addrsFrom (j + 1) else s2
          let s3 : State := { s2 with fresh := s2.fresh + 1 }
          .next ((s3.post { due := at', rank := 3, key := [u.issue, 8 + se, s.cur.core], core := if d.space = 1 then k else s.cur.core, el := s.cur.core,
                            act := .event (.streamWritePerform se run dst (vecBytes (s.core.elem e).strmOut)),
                            landed := decide (d.space = 0) || (d.space == 1 && decide (d.core = s.cur.core)), landAt := s2.later, die := s.myDie
                            pc := u.pc, by' := s.cur.core }).postBeat t1 u d st (j + 1))
  | _, _ => .next s

/-- One more beat of an output stream has performed. -/
def Core.beatDone (c : Core) (se run : Nat) : Core :=
  match c.streamIn se run with
  | some t => c.setStream { t with pairs := t.pairs + 1, done := decide ((t.desc.map (·.beats)).getD 0 ≤ t.pairs + 1) }
  | none => c

/-- STREAM_WRITE_PERFORM (06 R187, R191, R199): the focus's element field names the engine's core. -/
def execStreamWritePerform (se run : Nat) (dst : BeatDest) (bytes : List Byte) (s : State) : Answer :=
  let pc := match s.core.runOf run with | some u => u.pc | none => 0
  let done := fun (t : State) => t.setCoreAt s.cur.el ((t.coreAt s.cur.el).beatDone se run)
  .next (match dst with
    | .scratch a => done (s.setCore (s.core.swrite a bytes))
    | .ring w => done (s.ringWrite 5 { w with bytes := bytes })
    | .mem va =>
      match s.engineStore (s.streamAgent se) va bytes [] with
      | .done t => done t
      | .waits x => s.slideBack (some x)
      | .failed v f => s.trapUnit 5 (trCause f).1 (trCause f).2 (beatTval f va v) pc s.cur.core)

/-! ### Deferral (06 R201, 04 R157) -/

/-- Takes the sequence numbers that appended pairs begin, and puts their bytes on the way (06 R190, R201). -/
def phaseDeferTake (uid : Nat) (pairs : List (BitVec 32 × BitVec 32)) (s : State) : State :=
  match s.core.stream uid with
  | none => s
  | some t =>
    let n := (t.desc.map (·.base)).getD 0
    let u := (t.run.bind s.core.runOf)
    let (r, t1) := pairs.foldl (fun (acc : Ring × Stream) _ =>
      let per := pairsPerSlot acc.1.slot
      let (r1, slots) := if per ≠ 0 && acc.2.pairs % per = 0 then
          (acc.1.take.2, SMap.put acc.2.slots (acc.2.pairs / per) acc.1.take.1) else (acc.1, acc.2.slots)
      (r1, { acc.2 with slots := slots, pairs := acc.2.pairs + 1 })) (s.core.ring n, t)
    let s1 := s.setCore ((s.core.setRing n r).setStream { t1 with fetched := SMap.put t1.fetched s.rt (leBytes 4 t.pairs) })
    s1.post { due := s.rt + 3, rank := 3, key := [(u.map (·.issue)).getD 0, 8 + t.se, s.cur.core, 0], core := s.cur.core,
              act := .phase (.deferWrite uid pairs), pc := (u.map (·.pc)).getD 0, by' := s.cur.core }

/-- The bytes of appended pairs perform at the DEFER's issue + 4 (06 R201). -/
def phaseDeferWrite (uid : Nat) (pairs : List (BitVec 32 × BitVec 32)) (s : State) : State :=
  match s.core.stream uid with
  | none => s
  | some t =>
    let n := (t.desc.map (·.base)).getD 0
    let per := pairsPerSlot (s.core.ring n).slot
    let first := leNat (SMap.get [] t.fetched (s.rt - 3))
    let pc := (match t.run.bind s.core.runOf with | some u => u.pc | none => 0)
    let s1 := pairs.zipIdx.foldl (fun s (q : (BitVec 32 × BitVec 32) × Nat) =>
      let p := first + q.2
      (deferWrites (SMap.get 0 t.slots (p / per)) n (per / 16) p q.1.1 q.1.2 pc s.cur.core (decide (p % per = per - 1))).foldl (fun s w => s.ringWrite 5 w) s) s
    let r := s1.core.ring n
    s1.setCore ((s1.core.setRing n { r with dcount := (r.dcount + pairs.length) % ringWrap }).setStream { t with fetched := SMap.del t.fetched (s.rt - 3) })

/-- The padding of a partly filled block, four cycles after the run's end (06 R201). -/
def phaseDeferPad (uid : Nat) (s : State) : State :=
  match s.core.stream uid with
  | none => s
  | some t =>
    let n := (t.desc.map (·.base)).getD 0
    let per := pairsPerSlot (s.core.ring n).slot
    let pc := (match t.run.bind s.core.runOf with | some u => u.pc | none => 0)
    let gap := (16 - t.pairs % 16) % 16
    let s1 := (List.range gap).foldl (fun s i =>
      (deferWrites (SMap.get 0 t.slots ((t.pairs + i) / per)) n (per / 16) (t.pairs + i) 0 0xFFFFFFFF pc s.cur.core (i + 1 == gap)).foldl (fun s w => s.ringWrite 5 w) s) s
    s1.setCore (s1.core.setStream { t with done := true })

/-! ### Configurations and runs (06 R203, R204, 04 R127, R136 to R139) -/

/-- GCFG (06 R203). -/
def execGcfg (a : Reg) (s : State) : Answer :=
  s.needTimed (.gcfg a) (s.descAddr (s.rx a) 1024 32768 (
    let (uid, s1) := s.newUid
    let g : Image := { uid := uid, addr := (s.rx a).toNat, pc := s.core.pc, ready := s.rt + 160, sampled := false, bad := none, bundles := 0, blocks := [] }
    ((s1.setCore { s1.core with shadow := some g }).phaseIn 3 10 [s.cur.core] (.imageSample uid)).finish 1))

/-- Whether a slot word is accepted on an element (02 R64, 04 R138): 0 is an unconfigured slot; codes 20 and 21 need
their ports (02 R53). -/
def slotOk (el slot : Nat) (w : Word32) : Bool :=
  if w = 0 then true
  else
    match decodeGrid slot w with
    | none => false
    | some (.defer _) => decide (el % 8 = 7)
    | some (.gridSlotCScalar _) => true
    | some (.idle _) => true
    | some _ =>
      let f := gridFields w
      (decide (el % 8 = 0) || decide (el % 8 = 7)) || !(f.a == 20 || f.b == 20 || f.c == 20 || f.d == 20)

/-- Whether the 4-byte word at offset `off` of an element's block passes the loader's checks (04 R136 to R138). -/
def State.blockWordOk (s : State) (base el l off : Nat) : Bool :=
  let word := BitVec.ofNat 32 (s.snat (base + off) 4)
  if off < 0x300 then (if l ≤ off / 12 then word == 0 else slotOk el (off % 12 / 4) word)
  else if off < 0x340 then
    (List.range 4).all fun i =>
      let n := off - 0x300 + i
      let g := s.snat (base + off + i) 1
      decide (g / 64 = 0) && (decide (n < l) || decide (g = 0)) &&
      (List.range 3).all fun k => decide (s.snat (base + 12 * n + 4 * k) 4 ≠ 0) || decide (g / 4 ^ k % 4 = 0)
  else if off < 0x368 then true
  else if off = 0x368 then
    (if el = 0 then decide (1 ≤ word.toNat) && decide (word.toNat ≤ 64) else word == 0)
  else word == 0

/-- The lowest-addressed word of an image that fails (04 R139). -/
def State.imageFault (s : State) (a l : Nat) : Option Nat :=
  (List.range 32).findSome? fun el => (List.range 256).findSome? fun w =>
    if s.blockWordOk (a + 1024 * el) el l (4 * w) then none else some (a + 1024 * el + 4 * w)

/-- A block of an image (04 R136). -/
def State.blockAt (s : State) (b : Nat) : Block :=
  { words := (List.range 192).foldl (fun m i => SMap.set 0 m i (BitVec.ofNat 32 (s.snat (b + 4 * i) 4))) []
    guards := (List.range 64).foldl (fun m n => SMap.set 0 m n (BitVec.ofNat 8 (s.snat (b + 0x300 + n) 1))) []
    ks := (List.range 8).foldl (fun m n => SMap.set 0 m n (BitVec.ofNat 32 (s.snat (b + 0x340 + 4 * n) 4))) []
    pro := BitVec.ofNat 32 (s.snat (b + 0x360) 4), epi := BitVec.ofNat 32 (s.snat (b + 0x364) 4) }

/-- A start cycle becomes known for every committed run whose predecessor's length is known (06 R204). -/
def State.resolveRuns (s : State) : State :=
  s.core.runs.foldl (fun s u0 =>
    match s.core.runOf u0.uid with
    | none => s
    | some u =>
      if u.start.isSome then s
      else
        let prev := (s.core.runs.filter fun v => decide (v.uid < u.uid)).getLast?
        let prevEnd := match prev with
          | none => some 0
          | some v => (s.core.endOf v).map (· + 1)
        match prevEnd with
        | some e =>
          let ready := if u.commits then ((s.core.images.find? (fun g => g.uid == u.image)).map (·.ready)).getD 0 else 0
          let st := max (u.issue + 8) (max e ready)
          let s1 := s.setCore { s.core with runs := s.core.runs.map fun v => if v.uid == u.uid then { v with start := some st } else v }
          let s2 := s1.post { due := st, rank := 9, core := s.cur.core, act := .event (.gridRunStart u.uid), pc := u.pc, by' := s.cur.core }
          u.streams.foldl (fun s t => s.armStream t) s2
        | none => s) s

/-- GCFG's sampling, at issue + 3 (06 R203, R214); the load is ready at issue + 160. -/
def phaseImageSample (uid : Nat) (s : State) : State :=
  let shadowed := s.core.shadow.any (fun g => g.uid == uid)
  match (s.core.shadow.toList ++ s.core.images).find? (fun g => g.uid == uid) with
  | none => s
  | some g =>
    s.sampled 0 g.addr 32768 g.pc s.cur.core (
      let l := s.snat (g.addr + 0x368) 4
      let bad := s.imageFault g.addr (l % 128)
      let g1 := { g with sampled := true, bad := bad, bundles := max 1 (min 64 (l % 128))
                         blocks := if bad.isSome then [] else (List.range 32).foldl (fun m e => SMap.put m e (s.blockAt (g.addr + 1024 * e))) [] }
      let s1 := s.setCore (if shadowed then { s.core with shadow := some g1 }
        else { s.core with images := s.core.images.map fun x => if x.uid == uid then g1 else x })
      let s2 : State := { s1 with fresh := s1.fresh + 1 }
      (s2.post { due := g.ready, rank := 4, core := s.cur.core, act := .event (.configReady uid), landed := false, landAt := s1.later,
                 pc := g.pc, by' := s.cur.core }).resolveRuns)

/-- CONFIG_READY (06 R203, 04 R139): a load that failed its checks faults here; a replaced load does nothing. -/
def execConfigReady (uid : Nat) (s : State) : Answer :=
  match (s.core.shadow.toList ++ s.core.images).find? (fun g => g.uid == uid) with
  | none => .next s
  | some g =>
    match g.bad with
    | none => .next s
    | some a =>
      let c := if s.core.shadow.any (fun x => x.uid == uid) then { s.core with shadow := none } else s.core
      .next ((s.setCore c).trapUnit 0 0x12 0 (BitVec.ofNat 64 a) g.pc s.cur.core)

/-- GRUN (06 R204). -/
def State.startRun (s : State) (commit : Bool) (n : Nat) : State :=
  let c := s.core
  let fault := s.raise 6 4 c.pc
  if 2 ≤ (c.runs.filter fun u => !u.started).length then fault
  else
    let image := if commit then c.shadow.map (·.uid) else c.runs.getLast?.map (·.image)
    match image with
    | none => fault
    | some g =>
      let (uid, s1) := s.newUid
      let staged := (c.streams.filter fun t => t.run.isNone && !t.done).map (·.uid)
      let u : Run := { uid := uid, pc := c.pc, issue := s.rt, image := g, commits := commit, n := n, start := none, started := false,
                       ended := false, streams := staged }
      let c1 := { s1.core with
        runs := c.runs ++ [u]
        images := if commit then c.images ++ c.shadow.toList else c.images
        shadow := if commit then none else c.shadow
        streams := c.streams.map fun t => if staged.contains t.uid then { t with run := some uid } else t }
      ((s1.setCore c1).resolveRuns).finish 1

/-- grun (06 R204). -/
def execGrun (a : Reg) (s : State) : Answer := s.needTimed (.grun a) (s.startRun false ((s.rx a).toNat % 2 ^ 32))
/-- grun.c (06 R204). -/
def execGrunC (a : Reg) (s : State) : Answer := s.needTimed (.grunC a) (s.startRun true ((s.rx a).toNat % 2 ^ 32))
/-- grun.s (06 R204). -/
def execGrunS (k : Reg) (s : State) : Answer := s.needTimed (.grunS k) (s.startRun false (SMap.get 0 s.core.shape k.toNat).toNat)
/-- grun.c.s (06 R204). -/
def execGrunCS (k : Reg) (s : State) : Answer := s.needTimed (.grunCS k) (s.startRun true (SMap.get 0 s.core.shape k.toNat).toNat)

/-- Replaces a run. -/
def Core.setRun (c : Core) (u : Run) : Core := { c with runs := c.runs.map fun v => if v.uid == u.uid then u else v }

/-- An element at a run's start: the committed block, or what it holds; the iteration counter is 0 (04 R127, R136). -/
def Elem.begin (e : Elem) (b : Option Block) : Elem :=
  match b with
  | some b => { e with buffer := b, k := Vector.ofFn fun i => SMap.get 0 b.ks i.val, pro := b.pro, epi := b.epi, iter := 0, position := 0 }
  | none => { e with iter := 0, position := 0 }

/-- GRID_RUN_START (04 R127, R136, 06 R204). -/
def execGridRunStart (run : Nat) (s : State) : Answer :=
  match s.core.runOf run with
  | none => .next s
  | some u =>
    let blocks := if u.commits then (s.core.images.find? (fun g => g.uid == u.image)).map (·.blocks) else none
    let c := (List.range 32).foldl (fun c e => c.setElem e ((c.elem e).begin (blocks.map fun m => SMap.get {} m e))) s.core
    let s1 := s.setCore (c.setRun { u with started := true, ended := decide (u.n = 0) })
    .next (if u.n = 0 then s1
      else s1.post { due := s.rt, rank := 21, key := [s.cur.core], core := s.cur.core, act := .event (.gridBundleIssue run), pc := u.pc, by' := s.cur.core })

/-- The guard admits an operation (04 R128). -/
def admits (guard iter n pro epi : Nat) : Bool :=
  (guard % 2 == 0 || decide (pro ≤ iter)) && (guard / 2 == 0 || decide (iter + epi < n))

/-- The operations of a bundle that an element issues: slot and operation (04 R128). -/
def Elem.bundle (e : Elem) (b iter n : Nat) : List (Nat × Instr) :=
  (List.range 3).filterMap fun slot =>
    let g := (SMap.get 0 e.buffer.guards b).toNat / 4 ^ slot % 4
    if admits g iter n e.pro.toNat e.epi.toNat then (decodeGrid slot (SMap.get 0 e.buffer.words (3 * b + slot))).bind fun i =>
      (match i with | .idle _ => none | _ => some (slot, i)) else none

/-- GRID_BUNDLE_ISSUE (04 R127, R129): the bundle's operations issue next, element by element. -/
def execGridBundleIssue (run : Nat) (s : State) : Answer :=
  match s.core.runOf run with
  | none => .next s
  | some u =>
    let l := (s.core.bundlesOf u).getD 1
    let j := s.rt - u.start.getD 0
    let b := j % l
    let c := s.core.els.foldl (fun c (k, e) => c.setElem k { e with iter := BitVec.ofNat 32 (j / l), position := (b + 1) % l }) s.core
    let ops := s.core.els.flatMap fun (k, e) =>
      (e.bundle b (j / l) u.n).map fun (slot, i) => (({ s.cur with el := k, slot := slot } : Focus), Turn.event i)
    let s1 := (s.setCore c).count 0x13 1
    let s2 := if j + 1 < u.n * l then
        s1.post { due := s.rt + 1, rank := 21, key := [s.cur.core], core := s.cur.core, act := .event (.gridBundleIssue run), pc := u.pc, by' := s.cur.core }
      else s1.post { due := s.rt, rank := 25, core := s.cur.core, act := .event (.gridRunEnd run), pc := u.pc, by' := s.cur.core }
    .next { s2 with turn := ops ++ s2.turn }

/-- GRID_RUN_END (04 R127, 06 R201). -/
def execGridRunEnd (run : Nat) (s : State) : Answer :=
  match s.core.runOf run with
  | none => .next s
  | some u =>
    let s1 := s.setCore (s.core.setRun { u with ended := true })
    .next (s.core.streams.foldl (fun s t =>
      if t.run == some run && (t.desc.map (·.dir)) == some 2 then
        s.post { due := s.rt + 4, rank := 3, key := [u.issue, 8 + t.se, s.cur.core, 1], core := s.cur.core, act := .phase (.deferPad t.uid),
                 pc := u.pc, by' := s.cur.core }
      else s) s1)

end Sys2Proof.Machine
end

