-- ==== Sys2Proof/Machine/Grid.lean ====
section
/-!
DEFINITION. The grid operations: their operands, results and destinations (04 R129 to R133, R141 to R158).
-/

namespace Sys2Proof.Machine

/-- The element in focus. -/
def State.elem (s : State) : Elem := s.core.elem s.cur.el

/-- A vector with the same value in every lane. -/
def splat (v : BitVec 32) : Vec := Vector.replicate 16 v
/-- Lane-wise operation on one, two and three vectors. -/
def lanes1 (f : BitVec 32 → BitVec 32) (a : Vec) : Vec := a.map f
/-- Lane-wise operation on two vectors. -/
def lanes2 (f : BitVec 32 → BitVec 32 → BitVec 32) (a b : Vec) : Vec := Vector.zipWith f a b
/-- Lane-wise operation on three vectors. -/
def lanes3 (f : BitVec 32 → BitVec 32 → BitVec 32 → BitVec 32) (a b w3 : Vec) : Vec :=
  Vector.ofFn fun i => f a[i] b[i] w3[i]

/-- In-port p of an element; a port that faces off the grid reads zero (04 R131). -/
def portIn (el p : Nat) (e : Elem) : Vec :=
  if (p = 0 && decide (el < 8)) || (p = 1 && decide (el % 8 = 7)) || (p = 2 && decide (24 ≤ el)) || (p = 3 && decide (el % 8 = 0)) then splat 0
  else if h : p < 4 then e.ports[p] else splat 0

/-- A source operand (02 R53). -/
def State.src (s : State) (code : BitVec 5) : Vec :=
  let e := s.elem
  let n := code.toNat
  if h : n < 16 then e.v[n]
  else if n < 20 then portIn s.cur.el (n - 16) e
  else if n = 20 then e.strmIn
  else if h : 21 ≤ n ∧ n < 29 then splat (e.k[n - 21]'(by omega))
  else if n = 29 then Vector.ofFn fun i => BitVec.ofNat 32 i.val
  else if n = 30 then splat e.iter
  else splat 0

/-- Mask m of the element in focus. -/
def State.mask (s : State) (m : Nat) : BitVec 16 := if h : m < 4 then s.elem.m[m] else 0
/-- Scalar register of the element in focus; x0 reads zero (02 R52). -/
def State.gx (s : State) (r : Nat) : BitVec 32 := if r = 0 then 0 else if h : r < 8 then s.elem.x[r] else 0

/-- The code offset of the GRUN whose run issues now (17 R408). -/
def Core.runPc (c : Core) : Word := ((c.runs.find? fun u => u.started && !u.ended).map (·.pc)).getD 0

/-- Puts a grid result on its way: it performs `latency` cycles after its issue (04 R129, R130). -/
def State.gridResult (s : State) (latency : Nat) (w : GridWrite) : Answer :=
  .next (s.post { due := s.rt + latency, rank := 1, key := [s.rt, s.cur.slot], core := s.cur.core, el := s.cur.el,
                  act := .event (.gridResultPerform w), pc := s.core.runPc, by' := s.cur.core })
/-- A vector result to a destination code. -/
def State.vecResult (s : State) (f : GridWord) (latency : Nat) (v : Vec) : Answer := s.gridResult latency (.vec f.d v)

/-- The neighbour that an out-port faces, and its in-port (04 R131); none off the grid. -/
def neighbour (el p : Nat) : Option (Nat × Nat) :=
  if p = 0 then (if el < 8 then none else some (el - 8, 2))
  else if p = 1 then (if el % 8 = 7 then none else some (el + 1, 3))
  else if p = 2 then (if 24 ≤ el then none else some (el + 8, 0))
  else (if el % 8 = 0 then none else some (el - 1, 1))

/-- The mask of a 32-bit result: bit i set where lane i is not zero (04 R133). -/
def maskOf (v : Vec) : BitVec 16 := (List.finRange 16).foldl (fun (m : BitVec 16) (i : Fin 16) => if v[i] = 0 then m else m ||| (1 <<< i.val)) 0

/-- A write of a whole register clears its poison (17 R382). -/
def State.clearGridPoison (s : State) (n : Nat) : State :=
  if s.core.gridPoison.isEmpty then s
  else s.setCore { s.core with gridPoison := s.core.gridPoison.filter (· != 64 * s.cur.el + n) }

/-- An element of the core in focus receives a port. -/
def State.setPorts (s : State) (k : Nat) (e : Elem) : State := s.setCore (s.core.setElem k e)

/-- GRID_RESULT_PERFORM (04 R129 to R133, R157). -/
def execGridResultPerform (w : GridWrite) (s : State) : Answer :=
  let e := s.elem
  let put := fun (x : Elem) => s.setCore (s.core.setElem s.cur.el x)
  match w with
  | .scalar n v => .next (if h : n = 0 then s else (put { e with x := e.x.set n.toNat v n.isLt }).clearGridPoison (40 + n.toNat))
  | .append pairs =>
    .next (match s.core.deferStream (4 + s.cur.el / 8) (s.rt - 1) with
      | some t => if pairs.isEmpty then s else s.phaseIn 0 22 [s.cur.core, 1 + t.se] (.deferTake t.uid pairs)
      | none => s)
  | .vec code v =>
    let n := code.toNat
    .next (if h : n < 16 then (put { e with v := e.v.set n v }).clearGridPoison n
      else if n < 20 then
        match neighbour s.cur.el (n - 16) with
        | some (k, p) =>
          let x := s.core.elem k
          if h : p < 4 then
            { ({ s with cur := { s.cur with el := k } } : State).clearGridPoison (16 + p) with cur := s.cur }.setPorts k { x with ports := x.ports.set p v }
          else s
        | none => s
      else if n = 20 then (put { e with strmOut := v }).clearGridPoison 48
      else if h : 22 ≤ n ∧ n < 26 then (put { e with m := e.m.set (n - 22) (maskOf v) (by omega) }).clearGridPoison (10 + n)
      else s)

/-! ### Floating point (04 R142 to R150) -/

/-- A lane of all ones or zero. -/
def ones (b : Bool) : BitVec 32 := if b then BitVec.allOnes 32 else 0

/-- FADD (R142). -/
def execFadd (f : GridWord) (s : State) : Answer := s.vecResult f 4 (lanes2 (fun a b => rne32 ((fp a).add (fp b))) (s.src f.a) (s.src f.b))
/-- FSUB (R142). -/
def execFsub (f : GridWord) (s : State) : Answer := s.vecResult f 4 (lanes2 (fun a b => rne32 ((fp a).add (fp b).negate)) (s.src f.a) (s.src f.b))
/-- FMUL (R142). -/
def execFmul (f : GridWord) (s : State) : Answer := s.vecResult f 4 (lanes2 (fun a b => rne32 ((fp a).mul (fp b))) (s.src f.a) (s.src f.b))
/-- FMA (R142). -/
def execFma (f : GridWord) (s : State) : Answer :=
  s.vecResult f 4 (lanes3 (fun a b c => rne32 (((fp a).mul (fp b)).add (fp c))) (s.src f.a) (s.src f.b) (s.src f.c))
/-- FMS (R142). -/
def execFms (f : GridWord) (s : State) : Answer :=
  s.vecResult f 4 (lanes3 (fun a b c => rne32 (((fp a).mul (fp b)).add (fp c).negate)) (s.src f.a) (s.src f.b) (s.src f.c))
/-- FMIN (R143). -/
def execFmin (f : GridWord) (s : State) : Answer := s.vecResult f 1 (lanes2 (fun a b => rne32 (Fp.minOf (fp a) (fp b))) (s.src f.a) (s.src f.b))
/-- FMAX (R143). -/
def execFmax (f : GridWord) (s : State) : Answer := s.vecResult f 1 (lanes2 (fun a b => rne32 (Fp.maxOf (fp a) (fp b))) (s.src f.a) (s.src f.b))

/-- A predicate of FCMP (R144). -/
def fcmpHolds (p : Nat) (x y : Fp) : Bool :=
  let un := x.isNan || y.isNan
  match p with
  | 0 => !un && x.eqIeee y
  | 1 => un || !x.eqIeee y
  | 2 => !un && x.ltIeee y
  | 3 => !un && (x.ltIeee y || x.eqIeee y)
  | 4 => !un && y.ltIeee x
  | 5 => !un && (y.ltIeee x || x.eqIeee y)
  | 6 => un
  | _ => !un
/-- FCMP (R144). -/
def execFcmp (f : GridWord) (s : State) : Answer :=
  s.vecResult f 1 (lanes2 (fun a b => ones (fcmpHolds f.m.toNat (fp a) (fp b))) (s.src f.a) (s.src f.b))
/-- FSEL (R145). -/
def execFsel (f : GridWord) (s : State) : Answer :=
  let m := s.mask (f.m.toNat % 4)
  let inv := f.m.toNat / 4 % 2 == 1
  let a := s.src f.a
  let b := s.src f.b
  s.vecResult f 1 (Vector.ofFn fun i => if m.getLsbD i.val != inv then a[i] else b[i])
/-- FSGN (R146). -/
def execFsgn (f : GridWord) (s : State) : Answer :=
  s.vecResult f 1 (lanes2 (fun a b =>
    if (fp a).isNan then 0x7FC00000
    else if f.m = 0 then a &&& 0x7FFFFFFF
    else if f.m = 1 then a ^^^ 0x80000000
    else (a &&& 0x7FFFFFFF) ||| (b &&& 0x80000000)) (s.src f.a) (s.src f.b))
/-- A special function (R147, 01 R38). -/
def special (n : Nat) (x : Fp) : Fp :=
  if n = 0 then specRcp x else if n = 1 then specRsq x else if n = 2 then specSqrt x else if n = 3 then specExp2 x else specLog2 x
/-- FSPEC (R147). -/
def execFspec (f : GridWord) (s : State) : Answer := s.vecResult f 8 (lanes1 (fun a => rne32 (special f.m.toNat (fp a))) (s.src f.a))

/-- Whether DPT8 value `u` (in units of 2^-6) is the better result for |x| = m * 2^e than `best` (R149). -/
def dptBetter (rtz : Bool) (m : Nat) (e : Int) (u best : Nat) : Bool :=
  let k := min e (-6)
  let x : Int := m * 2 ^ (e - k).toNat
  let val : Nat → Int := fun n => n * 2 ^ (-6 - k).toNat
  if rtz then decide (val u ≤ x) && decide (val best < val u)
  else
    let du := (val u - x).natAbs
    let db := (val best - x).natAbs
    decide (du < db) || (decide (du = db) && decide (u < best))

/-- The code of a DPT8 value in units of 2^-6: the smallest byte with it (R149). -/
def dptCode (v : Int) : Nat :=
  if v = 0 then 8 else ((List.range 256).find? fun b => decide (dptUnits b = v)).getD 8

/-- FP32 to DPT8 (R149). -/
def toDpt8 (rtz : Bool) (x : Fp) : Nat :=
  match x with
  | .nan => dptCode 0
  | .inf neg => dptCode (if neg then -128 else 128)
  | .fin neg m e =>
    let k := min e 1
    if decide ((2 : Int) * 2 ^ (-k + 1).toNat ≤ m * 2 ^ (e - k + 1).toNat) then dptCode (if neg then -128 else 128)
    else
      let mags := (List.range 256).filterMap fun b => if 0 ≤ dptUnits b then some (dptUnits b).toNat else none
      let best := mags.foldl (fun b u => if dptBetter rtz m e u b then u else b) 0
      dptCode (if neg then -(best : Int) else best)

/-- CVT's kinds (R148). -/
def cvtLane (m : BitVec 5) (a b : BitVec 32) : BitVec 32 :=
  let rz := m.toNat % 2 == 1
  let lo := a.toNat % 0x10000
  let hi := a.toNat / 0x10000
  let pair := fun (w : Nat) (g : Fp → Nat) => BitVec.ofNat 32 (g (fp a) + 2 ^ w * g (fp b))
  match m.toNat / 2 with
  | 0 => rne32 (fbf.decode lo)
  | 1 => rne32 (fbf.decode hi)
  | 2 => rne32 (f16.decode lo)
  | 3 => rne32 (f16.decode hi)
  | 4 => rne32 (e4m3.decode (a.toNat % 256))
  | 5 => rne32 (e5m2.decode (a.toNat % 256))
  | 6 => rne32 (ofInt (dptUnits (a.toNat % 256)) (-6))
  | 7 => pair 8 (toDpt8 rz)
  | 8 => BitVec.ofNat 32 (f32.encode rz false (Fp.ofInteger a.toInt))
  | 9 => BitVec.ofInt 32 ((fp a).toInt rz 32)
  | 10 => pair 16 (fbf.encode rz false)
  | 11 => pair 16 (f16.encode rz false)
  | 12 => pair 8 (e4m3.encode rz false)
  | 13 => pair 8 (e4m3.encode rz true)
  | 14 => pair 8 (e5m2.encode rz false)
  | _ => pair 8 (e5m2.encode rz true)
/-- CVT (R148, R149). -/
def execCvt (f : GridWord) (s : State) : Answer := s.vecResult f 2 (lanes2 (cvtLane f.m) (s.src f.a) (s.src f.b))

/-- One BF16 half of BF2 (R150). -/
def bfHalf (m : BitVec 5) (a b c : Nat) : Nat :=
  let x := fbf.decode a
  let y := fbf.decode b
  fbf.rne (if m = 0 then x.add y else if m = 1 then x.add y.negate else if m = 2 then x.mul y else (x.mul y).add (fbf.decode c))
/-- BF2 (R150). -/
def execBf2 (f : GridWord) (s : State) : Answer :=
  s.vecResult f 4 (lanes3 (fun a b c => BitVec.ofNat 32 (bfHalf f.m (a.toNat % 65536) (b.toNat % 65536) (c.toNat % 65536) +
    65536 * bfHalf f.m (a.toNat / 65536) (b.toNat / 65536) (c.toNat / 65536))) (s.src f.a) (s.src f.b) (s.src f.c))

/-! ### Integer (04 R151) -/

/-- Clamps to the signed 32-bit range. -/
def satS (n : Int) : BitVec 32 := BitVec.ofInt 32 (max (-0x80000000) (min 0x7FFFFFFF n))
/-- Clamps to the unsigned 32-bit range. -/
def satU (n : Int) : BitVec 32 := BitVec.ofInt 32 (max 0 (min 0xFFFFFFFF n))
/-- IADD (R151). -/
def execIadd (f : GridWord) (s : State) : Answer :=
  s.vecResult f 1 (lanes2 (fun a b => if f.m = 0 then a + b else if f.m = 1 then satS (a.toInt + b.toInt) else satU (a.toNat + b.toNat : Nat)) (s.src f.a) (s.src f.b))
/-- ISUB (R151). -/
def execIsub (f : GridWord) (s : State) : Answer :=
  s.vecResult f 1 (lanes2 (fun a b => if f.m = 0 then a - b else if f.m = 1 then satS (a.toInt - b.toInt) else satU ((a.toNat : Int) - b.toNat)) (s.src f.a) (s.src f.b))
/-- IMUL (R151). -/
def execImul (f : GridWord) (s : State) : Answer :=
  s.vecResult f 1 (lanes2 (fun a b => if f.m = 0 then a * b else if f.m = 1 then BitVec.ofInt 32 (a.toInt * b.toInt / (2 ^ 32 : Nat))
    else BitVec.ofNat 32 (a.toNat * b.toNat / 2 ^ 32)) (s.src f.a) (s.src f.b))
/-- ILOG (R151). -/
def execIlog (f : GridWord) (s : State) : Answer :=
  s.vecResult f 1 (lanes2 (fun a b => if f.m = 0 then a &&& b else if f.m = 1 then a ||| b else if f.m = 2 then a ^^^ b else a &&& ~~~b) (s.src f.a) (s.src f.b))
/-- ISH (R151). -/
def execIsh (f : GridWord) (s : State) : Answer :=
  s.vecResult f 1 (lanes2 (fun a b => let n := b.toNat % 32; if f.m = 0 then a <<< n else if f.m = 1 then a >>> n else a.sshiftRight n) (s.src f.a) (s.src f.b))
/-- ICMP (R151). -/
def execIcmp (f : GridWord) (s : State) : Answer :=
  s.vecResult f 1 (lanes2 (fun a b => ones (match f.m.toNat with
    | 0 => a == b
    | 1 => a != b
    | 2 => a.slt b
    | 3 => !a.slt b
    | 4 => a.ult b
    | _ => !a.ult b)) (s.src f.a) (s.src f.b))
/-- IMINMAX (R151). -/
def execIminmax (f : GridWord) (s : State) : Answer :=
  s.vecResult f 1 (lanes2 (fun a b => match f.m.toNat with
    | 0 => if b.slt a then b else a
    | 1 => if a.slt b then b else a
    | 2 => if b.ult a then b else a
    | _ => if a.ult b then b else a) (s.src f.a) (s.src f.b))

/-! ### Lanes and masks (04 R152 to R155) -/

/-- MOV: a vector move, a scalar to every lane, or a lane to a scalar (R152). -/
def execMov (f : GridWord) (s : State) : Answer :=
  if f.m = 0 then s.vecResult f 1 (s.src f.a)
  else if f.m = 1 then s.vecResult f 1 (splat (s.gx f.a.toNat))
  else s.gridResult 1 (.scalar (f.d.setWidth 3) ((s.src f.a)[f.m.toNat % 16]'(Nat.mod_lt _ (by omega))))
/-- LPERM (R153). -/
def execLperm (f : GridWord) (s : State) : Answer :=
  let a := s.src f.a
  s.vecResult f 2 (lanes1 (fun b => a[b.toNat % 16]'(Nat.mod_lt _ (by omega))) (s.src f.b))
/-- LBCAST (R153). -/
def execLbcast (f : GridWord) (s : State) : Answer := s.vecResult f 2 (splat ((s.src f.a)[f.m.toNat % 16]'(Nat.mod_lt _ (by omega))))
/-- LSHIFT (R153). -/
def execLshift (f : GridWord) (s : State) : Answer :=
  let l := (s.src f.a).toList ++ (s.src f.b).toList
  s.vecResult f 2 (Vector.ofFn fun i => l.getD (i.val + f.m.toNat % 16) 0)

/-- One node of a lane reduction (R154, 01 R39). -/
def redNode (op : Nat) (a b : BitVec 32) : BitVec 32 :=
  match op with
  | 0 => rne32 ((fp a).add (fp b))
  | 1 => rne32 (Fp.maxOf (fp a) (fp b))
  | 2 => rne32 (Fp.minOf (fp a) (fp b))
  | _ => a + b
/-- What a masked-off lane contributes (R154). -/
def redIdle (op : Nat) : BitVec 32 :=
  match op with
  | 0 => 0x80000000
  | 1 => 0xFF800000
  | 2 => 0x7F800000
  | _ => 0
/-- LRED (R154). -/
def execLred (f : GridWord) (s : State) : Answer :=
  let op := f.m.toNat % 4
  let masked := f.m.toNat / 4 % 2 == 1
  let m := s.mask (f.m.toNat / 8)
  let a := s.src f.a
  let l := (List.finRange 16).map fun i => if masked && !m.getLsbD i.val then redIdle op else a[i]
  s.vecResult f 4 (splat (tree16 (redNode op) l))

/-- MSK (R155). -/
def execMsk (f : GridWord) (s : State) : Answer :=
  let m := s.mask (f.m.toNat % 4)
  let a := s.src f.a
  let lanes := fun (g : Bool → Bool → Bool) => (Vector.ofFn fun i => ones (g (m.getLsbD i.val) (a[i] != 0)) : Vec)
  s.vecResult f 1 (match f.m.toNat / 4 with
    | 0 => lanes fun b _ => !b
    | 1 => lanes fun b _ => b
    | 2 => lanes fun b z => b && z
    | 3 => lanes fun b z => b && !z
    | 4 => lanes fun b z => b || z
    | 5 => splat (BitVec.ofNat 32 (popLoop m.toNat 16))
    | 6 => splat (BitVec.ofNat 32 (ctzLoop m.toNat 16 0))
    | _ => splat (m.setWidth 32))

/-! ### Random numbers and deferral (04 R156, R157) -/

/-- RNGC (R156, 01 R40 to R42). -/
def execRngc (f : GridWord) (s : State) : Answer :=
  let a := s.src f.a
  let b := s.src f.b
  let w3 := s.src f.c
  s.vecResult f 8 (Vector.ofFn fun i =>
    let o := philox w3[0] w3[1] a[i] b[i] w3[2] w3[3]
    let w := match f.m.toNat % 4 with
      | 0 => o.1
      | 1 => o.2.1
      | 2 => o.2.2.1
      | _ => o.2.2.2
    if f.m.toNat / 4 % 2 = 1 then ones (w.ult w3[4]) else rne32 (ofInt (w.toNat / 256 : Nat) (-24)))
/-- DEFER (R157). -/
def execDefer (f : GridWord) (s : State) : Answer :=
  let m := s.mask (f.m.toNat % 4)
  let a := s.src f.a
  let b := s.src f.b
  s.gridResult 1 (.append ((List.finRange 16).filterMap fun i => if m.getLsbD i.val then some (a[i], b[i]) else none))

/-! ### The scalar subset of slot C (04 R158) -/

/-- SLTNI's 32-bit immediate and the other signed immediates. -/
def imm32 {n : Nat} (i : BitVec n) : BitVec 32 := i.signExtend 32
/-- A 0 or 1 lane scalar. -/
def bit32 (b : Bool) : BitVec 32 := if b then 1 else 0
/-- Signed division at 32 bits (R158). -/
def div32 (a b : BitVec 32) : BitVec 32 := if b = 0 then BitVec.allOnes 32 else BitVec.ofInt 32 (a.toInt.tdiv b.toInt)
/-- Signed remainder at 32 bits (R158). -/
def rem32 (a b : BitVec 32) : BitVec 32 := if b = 0 then a else BitVec.ofInt 32 (a.toInt - a.toInt.tdiv b.toInt * b.toInt)

/-- The destination, value and latency of a slot-C scalar word over x0 to x7 (R158, 03 R72). -/
def slotCResult (x : Nat → BitVec 32) : Instr → Option (Reg × BitVec 32 × Nat)
  | .add d a b => some (d, x a.toNat + x b.toNat, 1)
  | .sub d a b => some (d, x a.toNat - x b.toNat, 1)
  | .and d a b => some (d, x a.toNat &&& x b.toNat, 1)
  | .or d a b => some (d, x a.toNat ||| x b.toNat, 1)
  | .xor d a b => some (d, x a.toNat ^^^ x b.toNat, 1)
  | .sll d a b => some (d, x a.toNat <<< ((x b.toNat).toNat % 32), 1)
  | .srl d a b => some (d, x a.toNat >>> ((x b.toNat).toNat % 32), 1)
  | .sra d a b => some (d, (x a.toNat).sshiftRight ((x b.toNat).toNat % 32), 1)
  | .slt d a b => some (d, bit32 ((x a.toNat).slt (x b.toNat)), 1)
  | .sltn d a b => some (d, bit32 ((x a.toNat).ult (x b.toNat)), 1)
  | .min d a b => some (d, if (x b.toNat).slt (x a.toNat) then x b.toNat else x a.toNat, 1)
  | .max d a b => some (d, if (x a.toNat).slt (x b.toNat) then x b.toNat else x a.toNat, 1)
  | .minn d a b => some (d, if (x b.toNat).ult (x a.toNat) then x b.toNat else x a.toNat, 1)
  | .maxn d a b => some (d, if (x a.toNat).ult (x b.toNat) then x b.toNat else x a.toNat, 1)
  | .clz d a => some (d, BitVec.ofNat 32 (clzNat 32 (x a.toNat).toNat), 1)
  | .ctz d a => some (d, BitVec.ofNat 32 (ctzLoop (x a.toNat).toNat 32 0), 1)
  | .popc d a => some (d, BitVec.ofNat 32 (popLoop (x a.toNat).toNat 32), 1)
  | .sext d a w =>
    some (d, if w = 0 then ((x a.toNat).setWidth 8).signExtend 32 else if w = 1 then ((x a.toNat).setWidth 16).signExtend 32 else x a.toNat, 1)
  | .mul d a b => some (d, x a.toNat * x b.toNat, 3)
  | .mulh d a b => some (d, BitVec.ofInt 32 ((x a.toNat).toInt * (x b.toNat).toInt / (2 ^ 32 : Nat)), 3)
  | .mulhn d a b => some (d, BitVec.ofNat 32 ((x a.toNat).toNat * (x b.toNat).toNat / 2 ^ 32), 3)
  | .div d a b => some (d, div32 (x a.toNat) (x b.toNat), 34)
  | .divn d a b => some (d, if x b.toNat = 0 then BitVec.allOnes 32 else x a.toNat / x b.toNat, 34)
  | .rem d a b => some (d, rem32 (x a.toNat) (x b.toNat), 34)
  | .remn d a b => some (d, if x b.toNat = 0 then x a.toNat else x a.toNat % x b.toNat, 34)
  | .addi d a i => some (d, x a.toNat + imm32 i, 1)
  | .andi d a i => some (d, x a.toNat &&& imm32 i, 1)
  | .ori d a i => some (d, x a.toNat ||| imm32 i, 1)
  | .xori d a i => some (d, x a.toNat ^^^ imm32 i, 1)
  | .slti d a i => some (d, bit32 ((x a.toNat).slt (imm32 i)), 1)
  | .sltni d a i => some (d, bit32 ((x a.toNat).ult (imm32 i)), 1)
  | .slli d a sh => some (d, x a.toNat <<< sh.toNat, 1)
  | .srli d a sh => some (d, x a.toNat >>> sh.toNat, 1)
  | .srai d a sh => some (d, (x a.toNat).sshiftRight sh.toNat, 1)
  | .lui d i => some (d, imm32 i <<< 13, 1)
  | .addsh d a b sh => some (d, x a.toNat + (x b.toNat <<< sh.toNat), 1)
  | .madi d a b i => some (d, x a.toNat + x b.toNat * imm32 i, 3)
  | _ => none

/-- GRID_SLOT_C_SCALAR (R158). -/
def execGridSlotCScalar (w : Word32) (s : State) : Answer :=
  match (decode w).bind (slotCResult s.gx) with
  | some (d, v, latency) => s.gridResult latency (.scalar (d.setWidth 3) v)
  | none => .next s

end Sys2Proof.Machine
end

