-- ==== Sys2Proof/Machine/Queues.lean ====
section
/-!
DEFINITION. The two queues of a CP: where an access stands, what holds it back, in which order requests are sent and
arrive, and which lines are locked (03 R97 to R105, 08 R251 to R261, 14 R354, R355, R361, R363).
-/

namespace Sys2Proof.Machine

/-! ### Places (08 R252, R258) -/

/-- The home that a physical address names: its die, or 16 for host memory (11 R301). -/
def homeDie (pa : Nat) : Nat := if Config.hostBase ≤ pa then 16 else Config.paDie pa

/-- Home of an access that has its translation. -/
def homeOf (tr : Option (Nat × Nat)) : Option Nat := tr.map fun p => homeDie p.1

/-- A home lies in a space that a MARK's stor names (08 R258): bit 1 device memory, bit 2 host memory. An access whose home
is not known may lie in either. -/
def inStor (home : Option Nat) (stor : Nat) : Bool :=
  match home with
  | some h => if h = 16 then stor.testBit 2 else stor.testBit 1
  | none => true

/-- Bytes of an entry of the store queue; 0 for a MARK. -/
def StoreEntry.size (e : StoreEntry) : Nat :=
  match e.kind with
  | .store l => l.length
  | .amo _ wide _ _ _ _ => if wide then 8 else 4
  | .mark _ _ => 0

/-- The entry is a MARK. -/
def StoreEntry.isMark (e : StoreEntry) : Bool := match e.kind with | .mark _ _ => true | _ => false
/-- The entry is an AMO. -/
def StoreEntry.isAmo (e : StoreEntry) : Bool := match e.kind with | .amo _ _ _ _ _ _ => true | _ => false
/-- Entries counted against the 32 of the store queue: MARKs and range instructions take none (08 R259, 14 R363). -/
def Core.storeCount (c : Core) : Nat := (c.stores.filter fun e => !e.isMark).length

/-- The queues' next sequence number. -/
def Core.nextSeq (c : Core) : Nat :=
  (c.loads.map (·.seq) ++ c.stores.map (·.seq) ++ c.ranges.map (·.seq)).foldl max 0 + 1

/-- A range instruction writes back (R256): it has a place among the writes. -/
def RangeEntry.writes (e : RangeEntry) : Bool := e.op % 2 == 0
/-- A range instruction removes or fills copies (R256): it has a place among the reads. -/
def RangeEntry.reads (e : RangeEntry) : Bool := e.op != 0
/-- The permission that a range instruction asks (14 R360). -/
def RangeEntry.access (e : RangeEntry) : Access := if e.writes then .write else .read
/-- The first address behind a range. -/
def RangeEntry.stop (e : RangeEntry) : Nat := e.va.toNat + e.len

/-- The addresses at which a range of n bytes from A enters its 64 KiB granules (14 R361). -/
def rangePages (A n : Nat) : List Nat :=
  (List.range ((A % 0x10000 + n + 0xFFFF) / 0x10000)).map fun i => max A ((A / 0x10000 + i) * 0x10000)

/-- The translations of a range's granules, or the lowest failing address with its failure (14 R361). -/
def State.rangeWalk (s : State) (k : Access) : List Nat → Except (Nat × Tr) (List (Nat × Nat × Nat))
  | [] => .ok []
  | p :: l =>
    match translateAs s s.agent p k with
    | .ok pa attr => match s.rangeWalk k l with
      | .ok rest => .ok ((p, pa, attr) :: rest)
      | .error e => .error e
    | t => .error (p, t)

/-- The translated granule of a range that holds an address. -/
def RangeEntry.page (e : RangeEntry) (va : Nat) : Option (Nat × Nat) :=
  (e.pages.find? fun p => decide (p.1 ≤ va) && decide (va < (p.1 / 0x10000 + 1) * 0x10000)).map fun p => (p.2.1 + (va - p.1), p.2.2)

/-- The runs of device bytes, whole lines, on which a range has still to act (14 R361). -/
def State.rangeParts (s : State) (e : RangeEntry) : List (Nat × Nat) :=
  e.pages.filterMap fun (v, pa, attr) =>
    let lo := max v e.next
    let hi := min e.stop ((v / 0x10000 + 1) * 0x10000)
    if s.agent.remote pa attr && decide (lo < hi) then
      let a := (pa + (lo - v)) / 128 * 128
      some (a, (pa + (hi - v) + 127) / 128 * 128 - a)
    else none

/-- A range may still act on a line that the `n` bytes at an address touch; one without translations may act anywhere. -/
def State.rangeMeets (s : State) (e : RangeEntry) (tr : Option (Nat × Nat)) (n : Nat) : Bool :=
  e.pages.isEmpty ||
  (match tr with
   | some (pa, _) => (s.rangeParts e).any fun (a, m) => decide (a < pa + n) && decide (pa < a + m)
   | none => true)

/-- Two runs of bytes overlap, or may overlap where a place is not known (03 R100). -/
def runsMeet (x : Option (Nat × Nat)) (n : Nat) (y : Option (Nat × Nat)) (m : Nat) : Bool :=
  match x, y with
  | some (a, _), some (b, _) => decide (a < b + m) && decide (b < a + n)
  | _, _ => true

/-! ### MARK and AMO order (03 R105, 08 R252, R257 to R259) -/

/-- Scope of a MARK as it acts on this core: 0 core, 1 die, 2 package and wider (08 R251, R252). A region that is joined
stands on several packages. -/
def State.scopeOf (s : State) (agent : Nat) : Nat :=
  if agent = 0 then 0
  else if agent = 2 then 1
  else if agent = 1 then
    let n := if s.timed then s.region.ncores else s.task.ncores
    if s.region.total = 0 && (List.range n).all (fun k => s.dieOf k == s.dieOf s.cur.core) then 1 else 2
  else 2

/-- A store goes to the copy of a remote-cacheable line (08 R252, 14 R356). -/
def State.toCopy (s : State) (e : StoreEntry) : Bool :=
  !e.isAmo && (match e.tr with | some (pa, attr) => s.agent.remote pa attr && !s.foreign s.task.ctx pa | none => false)

/-- A store goes to a copy that this die holds; without one the copy is first filled from the home (14 R356). -/
def State.inCopy (s : State) (e : StoreEntry) : Bool :=
  s.toCopy e && e.tr.any fun p => (s.copyOf s.myDie (p.1 / 128)).isSome

/-- A write still in the store queue has performed at a scope narrower than package: it has been sent toward a home on
another die, and not to a copy on this one (08 R252). -/
def State.sentAway (s : State) (scope : Nat) (e : StoreEntry) : Bool :=
  decide (scope < 2) && e.sent.isSome && !s.toCopy e && (homeOf e.tr).any fun h => decide (h ≠ s.myDie) && decide (h ≠ 16)

/-- A write of the store queue before a MARK has not performed at its scope (08 R258). -/
def State.writePending (s : State) (m : StoreEntry) (scope stor : Nat) : Bool :=
  (s.core.stores.any fun e => decide (e.seq < m.seq) && !e.isMark && inStor (homeOf e.tr) stor && !s.sentAway scope e) ||
  (s.core.ranges.any fun e => decide (e.seq < m.seq) && e.writes && (decide (2 ≤ scope) || e.sent.isNone) &&
    (e.pages.isEmpty || e.pages.any fun p => inStor (some (homeDie p.2.1)) stor))

/-- A MARK still has an access before it that has not performed or completed at its scope (08 R258). A range instruction
has, at core and die scope, once it is sent (DEDUCED, notes/assumptions/57.md). -/
def State.markPending (s : State) (m : StoreEntry) : Bool :=
  match m.kind with
  | .mark agent stor =>
    let sc := s.scopeOf agent
    s.writePending m sc stor ||
    (s.core.ranges.any fun e => decide (e.seq < m.seq) && !e.writes && (decide (2 ≤ sc) || e.sent.isNone) &&
      (e.pages.isEmpty || e.pages.any fun p => inStor (some (homeDie p.2.1)) stor)) ||
    (s.core.loads.any fun e => decide (e.seq < m.seq) && e.cls != 4 && inStor (homeOf e.tr) stor && e.value.isNone &&
      (decide (2 ≤ sc) || e.sent.isNone)) ||
    (stor.testBit 0 && s.region.agenda.any fun p => p.core == s.cur.core && decide (p.due < m.issue + 3) &&
      (match p.act with | .phase (.stsWrite _ _) => true | _ => false))
  | _ => false

/-- A pending MARK or acquire holds back an access with sequence number `seq` (03 R105, 08 R258). -/
def State.heldBack (s : State) (seq : Nat) (home : Option Nat) : Bool :=
  s.core.stores.any fun e => decide (e.seq < seq) &&
    (match e.kind with
     | .mark _ stor => inStor home stor && s.markPending e
     | .amo _ _ _ _ acq _ => acq && decide (home ≠ some 16)
     | _ => false)

/-- A pending MARK holds back a range instruction (08 R256, R258). -/
def State.rangeHeldBack (s : State) (e : RangeEntry) (pages : List (Nat × Nat × Nat)) : Bool :=
  s.core.stores.any fun m => decide (m.seq < e.seq) &&
    (match m.kind with
     | .mark _ stor => (pages.any fun p => inStor (some (homeDie p.2.1)) stor) && s.markPending m
     | _ => false)

/-! ### Sending (03 R100, R105, 08 R255, R256, 14 R363) -/

/-- The translation with which an access may be sent now: the one it has, or the one it gets (03 R96); an access of timed code that waits
for one is served again once the flush under way is complete (11 R314). -/
def State.trNow (s : State) (tr : Option (Nat × Nat)) (va : Word) (k : Access) : Option (Nat × Nat) :=
  match tr with
  | some t => some t
  | none => if s.timed && (s.ctx s.task.ctx).flushing then none else match translateAs s s.agent va.toNat k with
    | .ok pa attr => some (pa, attr)
    | _ => none

/-- The permission of an entry of the store queue. -/
def StoreEntry.access (e : StoreEntry) : Access := if e.isAmo then .amo else .write

/-- A load may be sent: in issue order, behind overlapping stores of this CP, MARKs, acquires and range instructions
that read or remove copies (03 R100, 08 R255, R256, 14 R363). -/
def State.loadMaySend (s : State) (e : LoadEntry) : Bool :=
  e.sent.isNone && e.cls != 4 && decide (e.at' ≤ s.ptc) &&
  s.core.loads.all (fun x => x.cls == 4 || !decide (x.seq < e.seq) || x.sent.isSome) &&
  s.core.ranges.all (fun x => !x.reads || !decide (x.seq < e.seq) || x.sent.isSome) &&
  (match s.trNow e.tr e.va .read with
   | none => false
   | some tr =>
     !s.core.stores.any (fun x => decide (x.seq < e.seq) && !x.isMark && runsMeet x.tr x.size (some tr) e.size) &&
     !s.core.ranges.any (fun x => decide (x.seq < e.seq) && x.reads && s.rangeMeets x (some tr) e.size) &&
     !s.heldBack e.seq (homeOf (some tr)))

/-- A store or AMO may be sent: in issue order, behind overlapping loads and range instructions, MARKs and acquires, and
a release behind everything, write-backs too (03 R100, R105, 08 R252, R255, R256, 14 R363; DEDUCED, notes/assumptions/56.md). -/
def State.storeMaySend (s : State) (e : StoreEntry) : Bool :=
  e.sent.isNone && !e.isMark && decide (e.at' ≤ s.ptc) &&
  s.core.stores.all (fun x => x.isMark || !decide (x.seq < e.seq) || (x.sent.isSome && x.heldSince.isNone)) &&
  s.core.ranges.all (fun x => !x.writes || !decide (x.seq < e.seq) || (x.sent.isSome && x.heldSince.isNone)) &&
  (match e.kind with
   | .amo _ _ _ _ _ true =>
     s.core.stores.all (fun x => x.isMark || decide (e.seq ≤ x.seq) || homeOf x.tr == some 16) &&
     s.core.loads.all (fun x => x.cls == 4 || decide (e.seq ≤ x.seq) || x.value.isSome || homeOf x.tr == some 16) &&
     s.core.ranges.all (fun x => !x.writes || decide (e.seq ≤ x.seq) || (!x.pages.isEmpty && (s.rangeParts x).isEmpty))
   | _ => true) &&
  (match s.trNow e.tr e.va e.access with
   | none => false
   | some tr =>
     !s.core.loads.any (fun x => decide (x.seq < e.seq) && x.cls != 4 && x.value.isNone && runsMeet x.tr x.size (some tr) e.size) &&
     !s.core.ranges.any (fun x => decide (x.seq < e.seq) && s.rangeMeets x (some tr) e.size) &&
     !s.heldBack e.seq (homeOf (some tr)))

/-- The translations with which a range instruction may be sent, or the failure that it waits on. -/
def State.rangeNow (s : State) (e : RangeEntry) : Except (Nat × Tr) (List (Nat × Nat × Nat)) :=
  if e.pages.isEmpty && s.timed && (s.ctx s.task.ctx).flushing then .error (e.va.toNat, .tfault 1)
  else if e.pages.isEmpty then s.rangeWalk e.access (rangePages e.va.toNat e.len) else .ok e.pages

/-- A range instruction may be sent: in its places among the writes and the reads, when every granule translates
(08 R256, 14 R361). -/
def State.rangeMaySend (s : State) (e : RangeEntry) : Bool :=
  e.sent.isNone && decide (e.at' ≤ s.ptc) &&
  (!e.writes || (s.core.stores.all (fun x => x.isMark || !decide (x.seq < e.seq) || (x.sent.isSome && x.heldSince.isNone)) &&
    s.core.ranges.all (fun x => !x.writes || !decide (x.seq < e.seq) || (x.sent.isSome && x.heldSince.isNone)))) &&
  (!e.reads || (s.core.loads.all (fun x => x.cls == 4 || !decide (x.seq < e.seq) || x.sent.isSome) &&
    s.core.ranges.all (fun x => !x.reads || !decide (x.seq < e.seq) || x.sent.isSome))) &&
  (match s.rangeNow e with
   | .ok pages => !s.rangeHeldBack e pages
   | .error _ => false)

/-! ### Routes, arrival and locks (08 R254, R255, 14 R354, R367) -/

/-- The lines that an access of `n` bytes touches. -/
def linesOf (pa n : Nat) : List Nat := (List.range ((pa % 128 + n + 127) / 128)).map (pa / 128 + ·)

/-- A range sends a request for its next line, if it acts on it at all: the line and its home. -/
def State.rangeNext (s : State) (e : RangeEntry) : Option (Nat × Nat) :=
  match e.page e.next with
  | some (pa, attr) => if s.agent.remote pa attr && decide (e.next < e.stop) then some (pa / 128, homeDie pa) else none
  | none => none

/-- Where the core in focus hashes a line: its home slice, and for a remote-cacheable line the slice of its own die that may hold a
copy too (14 R352, R355). -/
def State.hashFor (s : State) (pa : Nat) (remote : Bool) : Nat × Nat :=
  let h := s.hashOf pa
  if remote then (h.1, h.2 + 64 * (1 + s.sliceOf s.myDie (bucketOf h.1))) else h

/-- The request of a range's next line was hashed under a map that no longer stands (14 R355). -/
def State.rangeStale (s : State) (e : RangeEntry) : Bool :=
  match s.rangeNext e, e.hash with
  | some (line, _), some h => decide (h ≠ s.hashFor (line * 128) true)
  | _, _ => false

/-- A load is served at the copy that this die holds (14 R356). -/
def State.atCopy (s : State) (tr : Option (Nat × Nat)) : Bool :=
  match tr with
  | some (pa, attr) => s.agent.remote pa attr && !s.foreign s.task.ctx pa && (s.copyOf s.myDie (pa / 128)).isSome
  | none => false

/-- Requests that a die has sent toward another die and that have not arrived, over all tasks and engines: their send order
(08 R254). -/
def State.onRoute (s : State) (a b : Nat) : List Nat :=
  s.tasks.flatMap fun (i, t) =>
    (t.region.agenda.filterMap fun p => if !p.landed && p.held.isEmpty && p.die == a && p.homes.contains b then p.sent else none) ++
    t.cores.flatMap fun (k, c) =>
      let f : State := { s with cur := { s.cur with task := i, core := k } }
      if f.myDie ≠ a then []
      else
        (c.loads.filterMap fun e => if e.value.isNone && e.cls != 4 && homeOf e.tr == some b && !f.atCopy e.tr then e.sent else none) ++
        (c.stores.filterMap fun e => if homeOf e.tr == some b && e.heldSince.isNone && !f.inCopy e then e.sent else none) ++
        (c.ranges.filterMap fun e =>
          if e.op != 1 && e.heldSince.isNone && (f.rangeParts e).any (fun p => homeDie p.1 == b) then e.sent else none)

/-- A request with a send order is the first of its route. -/
def State.firstOnRoute (s : State) (a b sent : Nat) : Bool :=
  a == b || b == 16 || (s.onRoute a b).all fun n => decide (sent ≤ n)

/-- Lines that a host or peer write of n bytes reaches. -/
def State.outsideLines (s : State) (c va n : Nat) : List Nat :=
  (List.range (lineFuel n)).filterMap fun i =>
    let a := if i = 0 then va else (va / 128 + i) * 128
    if va + n ≤ a then none
    else match walk s c a with | .ok w => some (w.pa / 128) | .error _ => none

/-- Lines of the device that host, peer and device writes which wait at their homes hold: the first of each origin and context, behind
which the others have still to arrive (12 R334, 14 R354, 18 R390). -/
def State.outsideLocks (s : State) : List Nat :=
  (s.hostHeld.zipIdx.filter fun (w, i) => !(s.hostHeld.take i).any fun v => v.origin == w.origin && v.ctx == w.ctx).flatMap fun (w, _) =>
    s.outsideLines w.ctx w.va w.bytes.length

/-- A write that waits at its home for the Hedgerow holds its line's lock (12 R334, 14 R354); `who` names the one who asks, by
task, core + 1 (0 for an engine) and sequence number. -/
def State.locked (s : State) (line : Nat) (who : Nat × Nat × Nat) : Bool :=
  s.outsideLocks.contains line ||
  s.tasks.any fun (i, t) =>
    (t.region.agenda.any fun p => p.held.contains line && decide (who ≠ (i, 0, p.seq))) ||
    t.cores.any fun (k, c) =>
      let f : State := { s with cur := { s.cur with task := i, core := k } }
      (c.stores.any fun e => e.heldSince.isSome && decide (who ≠ (i, k + 1, e.seq)) && e.tr.any fun p => decide (p.1 / 128 = line)) ||
      (c.ranges.any fun e => e.heldSince.isSome && decide (who ≠ (i, k + 1, e.seq)) && (f.rangeNext e).any fun p => decide (p.1 = line))

/-- The lock's view of an entry of the core in focus. -/
def State.owner (s : State) (seq : Nat) : Nat × Nat × Nat := (s.cur.task, s.cur.core + 1, seq)

/-- A sent read arrives where it is served, behind every earlier read of this CP to the same home: at this die's copy, or at its
home behind no earlier request of its route and no lock (08 R254, R255, 14 R354). -/
def State.loadMayArrive (s : State) (e : LoadEntry) : Bool :=
  match e.sent, e.tr with
  | some n, some (pa, _) =>
    let b := homeDie pa
    s.core.loads.all (fun x => x.cls == 4 || !decide (x.seq < e.seq) || x.value.isSome || homeOf x.tr != some b) &&
    (s.atCopy e.tr ||
     (s.firstOnRoute s.myDie b n && !s.locked (pa / 128) (s.owner e.seq) &&
      s.core.ranges.all fun x => x.op != 3 || !decide (x.seq < e.seq) || !(s.rangeParts x).any fun p => homeDie p.1 == b))
  | _, _ => false

/-- A sent write arrives where it is applied, or where the line that it writes in a copy is read first (08 R254, R255, 14 R354,
R356). -/
def State.storeMayArrive (s : State) (e : StoreEntry) : Bool :=
  match e.sent, e.tr with
  | some n, some (pa, _) =>
    let b := homeDie pa
    s.core.stores.all (fun x => x.isMark || !decide (x.seq < e.seq) || homeOf x.tr != some b) &&
    (s.inCopy e ||
     (s.firstOnRoute s.myDie b n && !s.locked (pa / 128) (s.owner e.seq) &&
      s.core.ranges.all fun x => !x.writes || !decide (x.seq < e.seq) || !(s.rangeParts x).any fun p => homeDie p.1 == b))
  | _, _ => false

/-- A sent range instruction may act on its next line: behind every earlier access of this CP to it, and its write-back or
fill behind the requests before it (03 R100, 08 R254 to R256, 14 R354, R362, R363). -/
def State.rangeMayAct (s : State) (e : RangeEntry) : Bool :=
  match e.sent, s.rangeNext e with
  | none, _ => false
  | some _, none => true
  | some n, some (line, b) =>
    let tr := some (line * 128, 0)
    s.core.loads.all (fun x => x.cls == 4 || !decide (x.seq < e.seq) || x.value.isSome || !runsMeet x.tr x.size tr 128) &&
    s.core.stores.all (fun x => x.isMark || !decide (x.seq < e.seq) || !runsMeet x.tr x.size tr 128) &&
    s.core.ranges.all (fun x => !decide (x.seq < e.seq) || !s.rangeMeets x tr 128) &&
    (e.op == 1 ||
     (s.firstOnRoute s.myDie b n && !s.locked line (s.owner e.seq) &&
      (!e.writes || (s.core.stores.all (fun x => x.isMark || !decide (x.seq < e.seq) || homeOf x.tr != some b) &&
        s.core.ranges.all (fun x => !x.writes || !decide (x.seq < e.seq) || !(s.rangeParts x).any fun p => homeDie p.1 == b))) &&
      (e.op != 3 || s.core.loads.all (fun x => x.cls == 4 || !decide (x.seq < e.seq) || x.value.isSome || homeOf x.tr != some b))))

/-- Bytes that this CP's queued writes may still change (03 R71, R100). -/
def State.ownMeets (s : State) (tr : Option (Nat × Nat)) (n : Nat) : Bool :=
  s.core.stores.any (fun x => !x.isMark && runsMeet x.tr x.size tr n) || s.core.ranges.any fun x => s.rangeMeets x tr n

/-- A read of a line at its home would pass requests that this die has sent toward it, or a write that holds the line (08 R254, 14 R354,
R367). -/
def State.routeBusy (s : State) (pa attr : Nat) : Bool :=
  !s.atCopy (some (pa, attr)) && (s.locked (pa / 128) (0, 2 ^ 32, 0) ||
    (decide (homeDie pa ≠ s.myDie) && decide (homeDie pa ≠ 16) && !(s.onRoute s.myDie (homeDie pa)).isEmpty))

/-- No access is under way in the package. -/
def State.calm (s : State) : Bool :=
  s.hostHeld.isEmpty && s.tasks.all fun (_, t) => t.region.agenda.isEmpty &&
    t.cores.all fun (_, c) => c.loads.isEmpty && c.stores.isEmpty && c.ranges.isEmpty

/-- A read of n bytes that this core makes outside its queues (a fetch, a record, a descriptor) has to wait: for its own earlier writes
(03 R71), or for what stands before it on its way (08 R254, 14 R354, R367). -/
def State.readWaits (s : State) (k : Access) (va n : Nat) : Bool :=
  !s.calm && (List.range (lineFuel n)).any fun i =>
    let a := if i = 0 then va else (va / 128 + i) * 128
    decide (a < va + n) && (match translateAs s s.agent a k with
      | .ok pa attr => s.ownMeets (some (pa, attr)) (inLine a (va + n - a)) || s.routeBusy pa attr
      | _ => false)

/-- The request was hashed under a map that no longer stands (14 R355). -/
def State.hashStale (s : State) (tr : Option (Nat × Nat)) (hash : Option (Nat × Nat)) : Bool :=
  match tr, hash with
  | some (pa, attr), some h => decide (h ≠ s.hashFor pa (s.agent.remote pa attr))
  | _, _ => false

end Sys2Proof.Machine
end

