-- ==== Sys2Proof/Machine/Mem.lean ====
section
/-!
DEFINITION. Loads, stores, atomics, MARK and the range instructions: their issue, and the events in which they are sent,
served, applied and landed (03 R93 to R106, 14 R360 to R363, 12 R334, R335).
-/

namespace Sys2Proof.Machine

/-! ### Issue (03 R93 to R106) -/

/-- A failed loose store is observed (12 R335): the Hedgerow fault at this instruction, else what follows (DEDUCED, notes/assumptions/38.md). -/
def State.afterFailed (s : State) (t : State) : State :=
  match s.task.failed with
  | some va => if s.timed then t else (s.setTask { s.task with failed := none }).raise 0x0B 2 va
  | none => t

/-- Counts of a translation that a CP's TLB makes (03 R117 events 0x0B and 0x0C). -/
def State.countWalk (s : State) (va : Nat) : State :=
  match s.tlbHit s.agent va with
  | some _ => if Config.freeBool (s.fresh + 1) then s else s.count 0x0B 1
  | none => (s.count 0x0B 1).count 0x0C 1

/-- Count of an access whose physical address names another die (03 R117 event 0x0A). -/
def State.countRemote (s : State) (pa : Nat) : State :=
  if homeDie pa ≠ s.myDie && homeDie pa ≠ 16 then s.count 0x0A 1 else s

/-- The counts and the TLB entry of a CP's access that translates. -/
def State.walked (s : State) (va pa : Nat) : State :=
  let s1 := s.countWalk va
  { (s1.countRemote pa).noteTlb s.agent va with fresh := s.fresh + 1 }

/-- The perform time of a load or AMO whose home is known (03 R94, R104, 05 R163): classes 0 to 3, 4 for an AMO. Host memory,
which a class 2 load may reach, has no home die; its latency is that to a pseudo-die 16 (R94 is silent on it;
DESIGN CHOICE, notes/assumptions/50.md). -/
def State.loadLatency (s : State) (cls : Nat) (home : Option Nat) : Option Nat :=
  match cls with
  | 0 => some 96
  | 1 => some 1100
  | 2 => home.map fun h => 1100 + 2 * Config.dieLatency s.myDie h
  | 3 => some 6000
  | _ => home.map fun h => if h = s.myDie then 1100 else 1100 + 2 * Config.dpl s.myDie h

/-- The precise or timed outcome of an access's translation at issue (03 R96): what follows when it may enter a queue, with
the translation if it has one (DEDUCED, notes/assumptions/28.md). -/
def State.accessible (s : State) (va : Word) (k : Access) (ok : Option (Nat × Nat) → State → State) : State :=
  match translateAs s s.agent va.toNat k with
  | .ok pa attr => ok (some (pa, attr)) (s.walked va.toNat pa)
  | t =>
    let s := s.countWalk va.toNat
    if s.timed && resolvable t && !s.region.declared then ok none s else s.raise (trCause t).1 (trCause t).2 va

/-- Appends a load entry. -/
def State.pushLoad (s : State) (seq : Nat) (reg : Reg) (va : Word) (size cls : Nat) (tr : Option (Nat × Nat)) : State :=
  let e : LoadEntry := { seq := seq, reg := reg, va := va, size := size, cls := cls, issue := s.rt, pc := s.core.pc,
                         perform := if s.timed then (s.loadLatency cls (homeOf tr)).map (s.rt + ·) else none, tr := tr
                         counted := tr.isSome, late := 0,
                         at' := s.later, sent := none, hash := none, value := none, landed := false, poison := false }
  { s.setCore { s.core with loads := s.core.loads ++ [e] } with fresh := s.fresh + 1 }

/-- Appends a store-queue entry. -/
def State.pushStore (s : State) (seq : Nat) (va : Word) (kind : StoreKind) (tr : Option (Nat × Nat)) : State :=
  let e : StoreEntry := { seq := seq, va := va, issue := s.rt, pc := s.core.pc, kind := kind, at' := s.later, sent := none,
                          hash := none, tr := tr, counted := tr.isSome, heldSince := none }
  { s.setCore { s.core with stores := s.core.stores ++ [e] } with fresh := s.fresh + 1 }

/-- The first cycle at which a load or AMO whose home is not known could perform (03 R96). -/
def LoadEntry.earliest (e : LoadEntry) : Nat := e.issue + (if e.cls = 4 then 1100 else 1148)

/-- LDQ (R93, R94, R96, R97). Its own checks come in this order: alignment, a full load queue, translation and protection (R63 orders only
the kinds before them; DESIGN CHOICE, notes/assumptions/69.md). -/
def execLdq (d a : Reg) (z c : BitVec 2) (o : BitVec 9) (s : State) : Answer :=
  let A := s.qAddr a z o
  .next (if A.toNat % sizeOf' z ≠ 0 then s.raise 3 0 A
    else if 32 ≤ s.core.loads.length then s.raise 6 3 (BitVec.allOnes 64)
    else s.accessible A .read fun tr s => ((s.pushLoad s.core.nextSeq d A (sizeOf' z) c.toNat tr).count 5 1).finish 1)

/-- LQPOP (R98, 17 R382). Before an entry's perform time is known, tval names the earliest it can have (R98 is silent on it;
DESIGN CHOICE, notes/assumptions/51.md). -/
def execLqpop (d : Reg) (s : State) : Answer :=
  match s.core.loads with
  | [] => .next (s.raise 6 1 (BitVec.allOnes 64))
  | e :: rest =>
    .next (if s.timed && !(match e.perform with | some p => decide (p ≤ s.rt) | none => false) then
        s.raise 6 1 (BitVec.ofNat 64 (e.perform.getD e.earliest))
      else if !e.landed then s.tryLater .load
      else if s.core.queuePoison.contains e.seq then s.raise 0x0C 7 64
      else if e.poison then s.raiseFor 0x0C 1 e.va e.pc
      else (((s.setCore { s.core with loads := rest }).setTask { (s.setCore { s.core with loads := rest }).task with wait := .none }).deliver
        (if d = 0 then e.reg else d) (e.value.getD 0) 1).finish 1)

/-- STQ (R93, R99, 12 R335). -/
def execStq (d a : Reg) (z : BitVec 2) (o : BitVec 9) (s : State) : Answer :=
  let A := s.qAddr a z o
  .next (if A.toNat % sizeOf' z ≠ 0 then s.raise 3 0 A
    else s.afterFailed (
      if 32 ≤ s.core.storeCount then s.tryLater .stores
      else s.accessible A .write fun tr s =>
        ((s.pushStore s.core.nextSeq A (.store (lowBytes (s.rx d) (sizeOf' z))) tr).count 6 1).finish 1))

/-- LDS (R93, R101, 06 R214). -/
def execLds (d a : Reg) (z : BitVec 2) (o : BitVec 9) (s : State) : Answer :=
  let A := s.qAddr a z o
  .next (if A.toNat % sizeOf' z ≠ 0 then s.raise 3 0 A
    else if Config.scratchBytes ≤ A.toNat then s.raise 5 5 A
    else if s.timed then ((s.phaseIn 3 10 [s.cur.core] (.ldsSample d A.toNat (sizeOf' z) s.core.pc)).count 0x15 1).finish 1
    else if s.core.spoisoned A.toNat (sizeOf' z) then s.raise 0x0C 3 A
    else ((s.wx d (zext (s.sread A.toNat (sizeOf' z)))).count 0x15 1).finish 1)

/-- LDS's sampling, at issue + 3 (R101). -/
def phaseLdsSample (d : Reg) (a n : Nat) (pc : Word) (s : State) : State :=
  s.sampled 0 a n pc s.cur.core (
    if d = 0 then s
    else s.post { due := s.rt + 1, rank := 0, key := [s.rt - 3], core := s.cur.core, act := .event (.cpResultPerform d (zext (s.sread a n))),
                  pc := pc, by' := s.cur.core })

/-- STS (R93, R101, R102). -/
def execSts (d a : Reg) (z : BitVec 2) (o : BitVec 9) (s : State) : Answer :=
  let A := s.qAddr a z o
  let bytes := lowBytes (s.rx d) (sizeOf' z)
  .next (if A.toNat % sizeOf' z ≠ 0 then s.raise 3 0 A
    else if Config.scratchBytes ≤ A.toNat then s.raise 5 5 A
    else if s.timed then ((s.phaseIn 3 4 [] (.stsWrite A.toNat bytes)).count 0x16 1).finish 1
    else ((s.setCore (s.core.swrite A.toNat bytes)).count 0x16 1).finish 1)

/-- STS's write, at issue + 3, after the engine writes of its cycle (R101, R102). -/
def phaseStsWrite (a : Nat) (l : List Byte) (s : State) : State := s.setCore (s.core.swrite a l)

/-- MARK (08 R257 to R259). -/
def execMark (g st : BitVec 3) (s : State) : Answer :=
  .next ((s.pushStore s.core.nextSeq 0 (.mark g.toNat st.toNat) none).finish 1)

/-- AMO and AMO.cas at issue (R103 to R106). Their own checks come in this order: alignment, a failed store (12 R335), a full load queue, then
translation and protection (R63 orders only the kinds before them; DESIGN CHOICE, notes/assumptions/69.md). -/
def State.startAmo (s : State) (addr : Word) (aop : Nat) (wide : Bool) (v c : Word) (acq rel : Bool) : Answer :=
  let n := if wide then 8 else 4
  .next (if addr.toNat % n ≠ 0 then s.raise 3 0 addr
    else s.afterFailed (
      if 32 ≤ s.core.loads.length then s.raise 6 3 (BitVec.allOnes 64)
      else if 32 ≤ s.core.storeCount then s.tryLater .stores
      else s.accessible addr .amo fun tr s =>
        let q := s.core.nextSeq
        (((s.pushLoad q 0 addr n 4 tr).pushStore q addr (.amo aop wide v c acq rel) tr).count 7 1).finish 1))
/-- AMO (R103). -/
def execAmo (a b : Reg) (p : BitVec 4) (acq rel w : BitVec 1) (s : State) : Answer :=
  s.startAmo (s.rx a) p.toNat (w = 1) (s.rx b) 0 (acq = 1) (rel = 1)
/-- AMO.cas (R103). -/
def execAmoCas (d a b : Reg) (acq rel w : BitVec 1) (s : State) : Answer :=
  s.startAmo (s.rx a) 9 (w = 1) (s.rx b) (s.rx d) (acq = 1) (rel = 1)

/-- The value an AMO writes, at 64 bits; none when cas fails (R103). -/
def amo64 (aop : Nat) (old v c : BitVec 64) : Option (BitVec 64) :=
  match aop with
  | 0 => some (old + v)
  | 1 => some (old &&& v)
  | 2 => some (old ||| v)
  | 3 => some (old ^^^ v)
  | 4 => some (if v.slt old then v else old)
  | 5 => some (if old.slt v then v else old)
  | 6 => some (if v.ult old then v else old)
  | 7 => some (if old.ult v then v else old)
  | 8 => some v
  | 9 => if old = c then some v else none
  | _ => some (rne64 ((dp old).add (dp v)))
/-- The value an AMO writes, at 32 bits (R103). -/
def amo32 (aop : Nat) (old v c : BitVec 32) : Option (BitVec 32) :=
  match aop with
  | 0 => some (old + v)
  | 1 => some (old &&& v)
  | 2 => some (old ||| v)
  | 3 => some (old ^^^ v)
  | 4 => some (if v.slt old then v else old)
  | 5 => some (if old.slt v then v else old)
  | 6 => some (if v.ult old then v else old)
  | 7 => some (if old.ult v then v else old)
  | 8 => some v
  | 9 => if old = c then some v else none
  | _ => some (rne32 ((fp old).add (fp v)))
/-- The bytes an AMO writes (R103). -/
def amoBytes (aop : Nat) (wide : Bool) (old v c : Word) : Option (List Byte) :=
  if wide then (amo64 aop old v c).map fun x => leBytes 8 x.toNat
  else (amo32 aop (old.setWidth 32) (v.setWidth 32) (c.setWidth 32)).map fun x => leBytes 4 x.toNat

/-- Appends a range instruction. -/
def State.pushRange (s : State) (op : Nat) (A : Word) (n c : Nat) (pages : List (Nat × Nat × Nat)) : State :=
  let e : RangeEntry := { seq := s.core.nextSeq, op := op, va := A, len := n, count := c, issue := s.rt, pc := s.core.pc, at' := s.later,
                          sent := none, hash := none, pages := pages, next := A.toNat, heldSince := none }
  { s.setCore { s.core with ranges := s.core.ranges ++ [e] } with fresh := s.fresh + 1 }

/-- The counts and TLB entries of a range's translations. -/
def State.walkedAll (s : State) (pages : List (Nat × Nat × Nat)) : State :=
  pages.foldl (fun s p => { (s.countWalk p.1).noteTlb s.agent p.1 with fresh := s.fresh + 1 }) s

/-- CWB, CINV, CWBI and CPF at issue (14 R361, R363): every granule translates first in loose code. -/
def State.startRange (s : State) (op : Nat) (a b : Reg) (c : Nat) : Answer :=
  let A := s.rx a
  let n := (s.rx b).toNat
  let k : Access := if op % 2 = 0 then .write else .read
  .next (if 2 ^ 32 < n then s.illegal (s.rx b)
    else if n = 0 then s.finish 1
    else
      let go := match s.rangeWalk k (rangePages A.toNat n) with
        | .ok pages => ((s.walkedAll pages).pushRange op A n c pages).finish 1
        | .error (p, t) =>
          let s := ((rangePages A.toNat n).filter fun q => decide (q ≤ p)).foldl State.countWalk s
          if s.timed && resolvable t && !s.region.declared then (s.pushRange op A n c []).finish 1
          else s.raise (trCause t).1 (trCause t).2 (BitVec.ofNat 64 p)
      if op % 2 = 0 then s.afterFailed go else go)
/-- CWB (14 R360 to R363). -/
def execCwb (a b : Reg) (s : State) : Answer := s.startRange 0 a b 0
/-- CINV (14 R360 to R363). -/
def execCinv (a b : Reg) (s : State) : Answer := s.startRange 1 a b 0
/-- CWBI (14 R360 to R363). -/
def execCwbi (a b : Reg) (s : State) : Answer := s.startRange 2 a b 0
/-- CPF (14 R360 to R363). -/
def execCpf (a b : Reg) (c : BitVec 7) (s : State) : Answer := s.startRange 3 a b c.toNat

/-! ### Sending, serving, applying and landing -/

/-- Replaces a load entry. -/
def State.setLoad (s : State) (e : LoadEntry) : State :=
  s.setCore { s.core with loads := s.core.loads.map fun x => if x.seq == e.seq then e else x }
/-- Replaces a store entry. -/
def State.setStore (s : State) (e : StoreEntry) : State :=
  s.setCore { s.core with stores := s.core.stores.map fun x => if x.seq == e.seq && !x.isMark then e else x }
/-- Replaces a range entry. -/
def State.setRangeEntry (s : State) (e : RangeEntry) : State :=
  s.setCore { s.core with ranges := s.core.ranges.map fun x => if x.seq == e.seq then e else x }
/-- Removes the MARKs that nothing before them holds any more (08 R258). -/
def State.dropMarks (s : State) : State :=
  s.setCore { s.core with stores := s.core.stores.filter fun x => !x.isMark || s.markPending x }
/-- Removes a store entry, and the MARKs that nothing before them holds any more. -/
def State.dropStore (s : State) (seq : Nat) : State :=
  (s.setCore { s.core with stores := s.core.stores.filter fun x => x.isMark || x.seq != seq }).dropMarks

/-- A landing in a region that stands in a slide moves the resume tick, where the freeze was decided for the item (05 R174). -/
def State.landed (s : State) (decided : Bool) : State :=
  match s.region.freeze with
  | some f => if decided then s.setRegion { s.region with freeze := some { f with lastLand := s.ptc } } else s
  | none => s

/-- A load entry has not landed at its perform cycle, or while that is not known at the first cycle at which it could perform
(03 R94, R96). -/
def LoadEntry.isDue (e : LoadEntry) (rt : Nat) : Bool := decide (e.perform.getD e.earliest ≤ rt)

/-- The perform cycle of an entry becomes that of the home that serves it (03 R96). -/
def State.fixPerform (s : State) (e : LoadEntry) (tr : Option (Nat × Nat)) : Option Nat :=
  if s.timed then e.perform.orElse fun _ => (s.loadLatency e.cls (homeOf tr)).map (e.issue + ·) else none

/-- An AMO's load entry gets its perform cycle with the AMO's translation. -/
def State.fixAmo (s : State) (seq : Nat) (tr : Option (Nat × Nat)) : State :=
  match s.core.loads.find? (fun l => l.seq == seq) with
  | some l => s.setLoad { l with tr := tr, perform := s.fixPerform l tr, late := if l.tr.isNone then 0 else l.late }
  | none => s

/-- The place to which a line is hashed as its request is sent (14 R355). -/
def State.hashNow (s : State) (tr : Option (Nat × Nat)) : Option (Nat × Nat) := tr.map fun p => s.hashFor p.1 (s.agent.remote p.1 p.2)

/-- The place to which a range instruction hashes its next line. -/
def State.hashRange (s : State) (e : RangeEntry) : Option (Nat × Nat) := (s.rangeNext e).map fun p => s.hashFor (p.1 * 128) true

/-- An entry leaves its queue for the network, with its translation, with which its check is made anew (03 R96, 08 R254, R255, 14 R355). -/
def phaseQueueSend (seq : Nat) (s : State) : State :=
  let next := fun (s : State) => ({ s with sendSeq := s.sendSeq + 1, fresh := s.fresh + 1 } : State)
  let got := fun (counted : Bool) (new : Option (Nat × Nat)) (va : Word) => match counted, new with
    | false, some (pa, _) => s.walked va.toNat pa
    | _, _ => s
  match s.core.stores.find? (fun e => e.seq == seq && !e.isMark) with
  | some e =>
    let tr := s.trNow e.tr e.va e.access
    let s1 := (got e.counted tr e.va).setStore { e with sent := some s.sendSeq, at' := s.later, tr := tr, counted := true, hash := s.hashNow tr }
    next (if e.isAmo then s1.fixAmo seq tr else s1)
  | none =>
    match s.core.loads.find? (fun e => e.seq == seq) with
    | some e =>
      let tr := s.trNow e.tr e.va .read
      next ((got e.counted tr e.va).setLoad { e with sent := some s.sendSeq, at' := s.later, tr := tr, counted := true
                                                     perform := s.fixPerform e tr, hash := s.hashNow tr, late := if e.tr.isNone then 0 else e.late })
    | none =>
      match s.core.ranges.find? (fun e => e.seq == seq) with
      | some e =>
        match s.rangeNow e with
        | .ok pages =>
          let e1 := { e with sent := some s.sendSeq, at' := s.later, pages := pages }
          next ((if e.pages.isEmpty then s.walkedAll pages else s).setRangeEntry { e1 with hash := s.hashRange e1 })
        | .error _ => s
      | none => s

/-- A read is served at a home slice: in device memory, and not from the die's copy (16 R374). -/
def State.servedHome (s : State) (pa attr : Nat) : Bool := Config.deviceStorage pa && !s.atCopy (some (pa, attr))

/-- Counts a service at a home slice, without or with a DRAM access (03 R117 events 0x08 and 0x09). A line of an uncached page
that no other mapping has brought into its slice needs the DRAM (14 R352); which of the two another line needs is free
(DEDUCED, notes/assumptions/17.md). -/
def State.countService (s : State) (pa attr : Nat) : State :=
  let dram := attrPolicy attr = 2 && !s.allocated.contains (pa / 128)
  { s.count (if !dram && Config.freeBool s.fresh then 8 else 9) 1 with fresh := s.fresh + 1 }

/-- Shadows held in Hedgerow lines: neither the "absent" marks nor the system checkpoint's (12 R322, 16 R374). -/
def State.shadows (s : State) : Nat := (s.versions.filter fun v => decide (0 < v.level) && v.content.isSome).length

/-- What a CP access of the core in focus, issued at a cycle, still sees of bytes that engine writes have replaced (08 R264). -/
def State.oldFor (s : State) (issue : Nat) : Old := if s.timed then s.oldByte s.cur.task issue else noOld

/-- A load is served at its place (03 R95, 08 R253, R264). -/
def phaseLoadServe (seq : Nat) (s : State) : State :=
  match s.core.loads.find? (fun e => e.seq == seq) with
  | none => s
  | some e =>
    match e.tr with
    | none => s
    | some (pa, attr) =>
      let r := s.readLine s.agent (s.oldFor e.issue) e.va.toNat pa attr e.size
      let s1 := if s.servedHome pa attr then s.countService pa attr else s
      let s2 : State := { r.2.2 with tasks := s1.tasks, fresh := s1.fresh + 1 }
      s2.setLoad { e with value := some (zext r.1), poison := r.2.1, at' := s2.later }

/-- LOAD_REPLY_LAND (03 R94, R98, 05 R174). -/
def execLoadReplyLand (seq : Nat) (s : State) : Answer :=
  match s.core.loads.find? (fun e => e.seq == seq && e.value.isSome) with
  | none => .next s
  | some e => .next ((s.setLoad { e with landed := true }).landed (e.isDue s.rt))

/-- A loose store or write-back fails (12 R335): it and every STQ, AMO, CWB and CWBI behind it leave the queue; an AMO's old
value is 0 (DEDUCED, notes/assumptions/37.md). -/
def State.failStore (s : State) (seq : Nat) (va : Word) : State :=
  let gone := (s.core.stores.filter fun x => decide (seq ≤ x.seq) && !x.isMark).map (·.seq)
  let c := { s.core with
    stores := s.core.stores.filter fun x => decide (x.seq < seq) || x.isMark
    ranges := s.core.ranges.filter fun x => decide (x.seq < seq) || !x.writes
    loads := s.core.loads.map fun l => if l.cls == 4 && gone.contains l.seq then { l with value := some 0, landed := true } else l }
  ((s.setCore c).setTask { (s.setCore c).task with failed := some va }).dropMarks

/-- A write waits at its home for lines of a context (12 R334). -/
def State.holdStore (s : State) (e : StoreEntry) (c : Nat) : State :=
  ({ s.setStore { e with heldSince := some (e.heldSince.getD s.ptc), at' := s.later } with fresh := s.fresh + 1 } : State).ask c

/-- One line of a range instruction at the copy of this core's die (14 R361, R362). -/
def State.rangeLine (s : State) (op count line : Nat) : State :=
  let die := s.myDie
  match op with
  | 0 => s.writeBack die line
  | 1 => s.dropCopy die line
  | 2 => (s.writeBack die line).dropCopy die line
  | _ => ((s.writeBack die line).dropCopy die line).fillCopy die line (some count)

/-- The first address behind a place at which a range may act again: the next line, or the next granule where this one's page
is skipped. -/
def RangeEntry.skip (e : RangeEntry) (acts : Bool) : Nat :=
  if acts then (e.next / 128 + 1) * 128 else (e.next / 0x10000 + 1) * 0x10000

/-- A range entry moves on, and leaves its queues at the end of its range. -/
def State.stepRange (s : State) (e : RangeEntry) (acts : Bool) : State :=
  let e0 := { e with next := e.skip acts, at' := if acts then s.later else e.at', heldSince := none }
  let e1 := { e0 with hash := s.hashRange e0 }
  if e.stop ≤ e1.next then (s.setCore { s.core with ranges := s.core.ranges.filter (·.seq != e.seq) }).dropMarks
  else { s.setRangeEntry e1 with fresh := s.fresh + 1 }

/-- A range instruction acts on its next line (14 R361, R362): a write-back that finds no Hedgerow line waits (12 R334). -/
def phaseRangeAct (seq : Nat) (s : State) : State :=
  match s.core.ranges.find? (fun e => e.seq == seq) with
  | none => s
  | some e =>
    match s.rangeNext e with
    | none => s.stepRange e false
    | some (line, _) =>
      if e.op != 1 && !s.writeBackOk s.myDie line then
        ({ s.setRangeEntry { e with heldSince := some (e.heldSince.getD s.ptc), at' := s.later } with fresh := s.fresh + 1 } : State).ask
          ((s.hedgeShort 0 line 0).getD 0)
      else (s.rangeLine e.op e.count line).stepRange e true

/-- A full store queue that has room again accepts the store that it kept out (03 R99). -/
def State.thenAccept (s : State) (seq : Nat) (t : State) : State :=
  if 32 ≤ s.core.storeCount && t.core.storeCount < 32 then { t with turn := (t.cur, .event (.storeQueueAccept seq)) :: t.turn } else t

/-- A STQ is applied at its place, or waits (03 R99, 12 R334, 08 R252). -/
def State.applyStq (s : State) (e : StoreEntry) (pa attr : Nat) (bytes : List Byte) : State :=
  let g := s.agent
  match (if s.toCopy e || !Config.deviceStorage pa || s.foreign g.ctx pa then none else s.hedgeShort g.ctx (pa / 128) (g.target e.va.toNat attr)) with
  | some c => s.holdStore e c
  | none =>
    let s1 := s.storeLine g e.va.toNat pa attr bytes
    (s1.count 0x0F (s1.shadows - s.shadows)).dropStore e.seq

/-- An AMO is applied at its home slice, or waits (03 R103, R104, 12 R334, 17 R382): the old value goes to its load entry; in another
context's granule it is all ones, and nothing is written (18 R393). -/
def State.applyAmoEntry (s : State) (e : StoreEntry) (pa attr aop : Nat) (wide : Bool) (v c : Word) : State :=
  let g := s.agent
  let n := if wide then 8 else 4
  let tv := g.target e.va.toNat attr
  let old := zext ((List.range n).map fun i => s.homeByte g.ctx tv (s.oldFor e.issue) (pa + i))
  let reply := fun (t : State) (bad : Bool) =>
    match t.core.loads.find? (fun l => l.seq == e.seq) with
    | some l => t.setLoad { l with value := some old, poison := bad, sent := some 0, at' := s.later }
    | none => t
  if s.foreign g.ctx pa then
    (((reply (s.logForeign g.ctx pa e.va.toNat) false).countService pa attr).allocate pa attr).dropStore e.seq
  else if s.poisoned tv pa then
    (if s.timed then (s.trapUnit 0 0x0C 1 e.va e.pc s.cur.core).dropStore e.seq else ((reply s true).countService pa attr).dropStore e.seq)
  else
    match amoBytes aop wide old v c with
    | none => (((reply s false).countService pa attr).allocate pa attr).dropStore e.seq
    | some bytes =>
      match s.hedgeShort g.ctx (pa / 128) tv with
      | some x => s.holdStore e x
      | none =>
        let s1 := s.applyAmo g e.issue tv pa bytes
        ((((reply s1 false).countService pa attr).allocate pa attr).count 0x0F (s1.shadows - s.shadows)).dropStore e.seq

/-- A poisoned entry of the store queue is read as it is applied: it is not, and the storage traps (17 R382); in loose code the task takes
the trap there and then (its number and place are DESIGN CHOICE, notes/assumptions/36.md). -/
def State.poisonedStore (s : State) (e : StoreEntry) : State :=
  let s1 := (s.setCore { s.core with storePoison := s.core.storePoison.filter (· != e.seq), loads := s.core.loads.filter fun l => l.cls != 4 || l.seq != e.seq }).dropStore e.seq
  if s.timed then s1.trapUnit 0 0x0C 7 96 e.pc s.cur.core
  else if s.task.state = .running then { (({ s1 with cur := { s1.cur with core := 0 } } : State).takeTrapAt 0x0C 7 96 e.pc) with cur := s.cur }
  else s1

/-- STORE_PERFORM (03 R99, R103, 12 R334, 17 R382): the head of its route is applied, or waits for the Hedgerow
(DEDUCED, notes/assumptions/29.md). -/
def execStorePerform (seq : Nat) (s : State) : Answer :=
  match s.core.stores.find? (fun e => e.seq == seq && !e.isMark) with
  | none => .next s
  | some e =>
    .next (if s.core.storePoison.contains seq then s.thenAccept seq (s.poisonedStore e) else s.thenAccept seq (match e.kind, e.tr with
      | .store bytes, some (pa, attr) => s.applyStq e pa attr bytes
      | .amo aop wide v c _ _, some (pa, attr) => s.applyAmoEntry e pa attr aop wide v c
      | _, _ => s))

/-- STORE_QUEUE_ACCEPT (03 R99): a freed entry takes the store that a full queue kept out; in a slide the acceptance lands. -/
def execStoreQueueAccept (_seq : Nat) (s : State) : Answer :=
  .next (if 32 ≤ s.core.storeCount then s
    else if s.region.freeze.isSome then s.landed true
    else s.setTask { s.task with wait := .none })

/-- REMAP_RESPONSE (14 R355): a request that reaches a slice which has handed its line over is hashed again and sent again,
in its place. -/
def execRemapResponse (task core seq : Nat) (s : State) : Answer :=
  let f : State := { s with cur := { task := task, core := core } }
  let c := f.core
  let f1 := f.setCore { c with
    loads := c.loads.map fun e =>
      if e.seq = seq && e.value.isNone && f.hashStale e.tr e.hash then { e with at' := f.later, hash := f.hashNow e.tr } else e
    stores := c.stores.map fun e => if e.seq = seq && f.hashStale e.tr e.hash then { e with at' := f.later, hash := f.hashNow e.tr } else e
    ranges := c.ranges.map fun e => if e.seq = seq && f.rangeStale e then { e with at' := f.later, hash := f.hashRange e } else e }
  .next { f1 with cur := s.cur, fresh := s.fresh + 1 }

/-- Every store and AMO of every core of the task has performed at package scope, and every range instruction has acted
(03 R114, 05 R169, 08 R252). -/
def State.storesDone (s : State) : Bool :=
  s.task.cores.all fun (_, c) => c.ranges.isEmpty && c.stores.all fun e => e.isMark

/-- Every read that the core in focus has issued has been served (08 R258, R268). -/
def State.readsDone (s : State) : Bool := s.core.loads.all fun e => e.cls == 4 || e.value.isSome

/-! ### Accesses of timed code that cannot translate (03 R96, 11 R314) -/

/-- The queued accesses of timed code whose translations have failed for good: core, code offset, trap. -/
def State.queueFaults (s : State) : List (Nat × Word × Nat × Nat × Word) :=
  let final := fun (va : Nat) (t : Tr) (k : Nat) (pc : Word) => match t with
    | .ok _ _ => none
    | t => if resolvable t && !s.region.declared then none else some (k, pc, (trCause t).1, (trCause t).2, BitVec.ofNat 64 va)
  (List.range s.region.ncores).flatMap fun k =>
    let f := s.at' k
    let c := f.core
    (c.loads.filterMap fun e => if e.tr.isSome then none else final e.va.toNat (translateAs f f.agent e.va.toNat (if e.cls = 4 then .amo else .read)) k e.pc) ++
    (c.stores.filterMap fun e => if e.tr.isSome || e.isMark then none else final e.va.toNat (translateAs f f.agent e.va.toNat e.access) k e.pc) ++
    c.ranges.filterMap fun e => if e.pages.isEmpty then (match f.rangeNow e with | .error (p, t) => final p t k e.pc | .ok _ => none) else none

/-- A STQ or range instruction of a core waits for firmware to resolve its translation: it slides the region from the cycle
after its issue on (03 R96, 14 R361; DESIGN CHOICE, notes/assumptions/28.md): its code offset. -/
def State.storeUntranslated (s : State) (k : Nat) : List Word :=
  let f := s.at' k
  (f.core.stores.filterMap fun e =>
    if !e.isMark && !e.isAmo && e.tr.isNone && decide (e.issue < s.rt) && (f.trNow none e.va e.access).isNone then some e.pc else none) ++
  (f.core.ranges.filterMap fun e =>
    if e.pages.isEmpty && decide (e.issue < s.rt) && (match f.rangeNow e with | .ok _ => false | .error _ => true) then some e.pc else none)

end Sys2Proof.Machine
end

