-- ==== Sys2Proof/Machine/Region.lean ====
section
/-!
DEFINITION. Regions: the region descriptor, entry and exit (05 R165 to R171, R180, R181, 18 R402), copy-engine allotment
(06 R409), the check of asynchronous items, freezes, slides and resumes (05 R172 to R178), and one region cycle.
-/

namespace Sys2Proof.Machine

/-! ### Reading the descriptor (05 R165 to R168) -/

/-- Why an instruction traps: cause, subcode and trap value. -/
structure Trapped where
  cause : Nat
  sub : Nat
  tval : Word
  deriving DecidableEq, Repr

/-- The counts of the translations of a run of bytes (03 R117). -/
def State.countPages (s : State) (va n : Nat) : State := (rangePages va n).foldl State.countWalk s

/-- Why an instruction that reads memory outside the queues does not go on: it traps, or a read has to wait. -/
inductive Stopped where
  /-- the core with the counts of its walks (03 R117) -/
  | trap (t : Trapped) (c : Core)
  | wait
  deriving DecidableEq, Repr

/-- The trap of an instruction that stops, or its next try. -/
def State.stopAt (s : State) (e : Stopped) : State :=
  match e with
  | .trap t c => (s.setCore c).raise t.cause t.sub t.tval
  | .wait => s.tryLater .load

/-- A read by the core in focus, with read permission: the bytes, whether any is poisoned, and the state; it waits for what stands before
it (03 R71, 08 R254, 14 R354). -/
def State.readVa (s : State) (va n : Nat) : Except Stopped (List Byte × Bool × State) :=
  if s.readWaits .read va n then .error .wait
  else match (s.countPages va n).load s.agent .read va n with
  | .done b p s1 => .ok (b, p, s1)
  | .failed v t => .error (.trap ⟨(trCause t).1, (trCause t).2, BitVec.ofNat 64 v⟩
      (((rangePages va n).filter fun p => decide (p ≤ v)).foldl State.countWalk s).core)

/-- A core-table entry (05 R166). -/
structure CoreEntry where
  code : Nat
  clen : Nat
  sdst : Nat
  simg : Nat
  slen : Nat
  reserved : Nat
  deriving DecidableEq, Repr

/-- A region descriptor (05 R165). -/
structure RegionDesc where
  ctab : Nat
  ncores : Nat
  lead : Nat
  budget : Nat
  shape : Nat
  xlat : Nat
  live : Nat
  reserved : Nat
  deriving DecidableEq, Repr

/-- The descriptor in 128 bytes (05 R165). -/
def regionDescOf (b : List Byte) : RegionDesc where
  ctab := fieldAt b 0 8
  ncores := fieldAt b 8 4
  lead := fieldAt b 0x10 8
  budget := fieldAt b 0x18 8
  shape := fieldAt b 0x20 8
  xlat := fieldAt b 0x28 4
  live := fieldAt b 0x30 32
  reserved := fieldAt b 0x0C 4 + fieldAt b 0x2C 4 + fieldAt b 0x50 48

/-- A core-table entry in 32 bytes (05 R166). -/
def coreEntryOf (b : List Byte) : CoreEntry where
  code := fieldAt b 0 8
  clen := fieldAt b 8 4
  sdst := fieldAt b 0x0C 4
  simg := fieldAt b 0x10 8
  slen := fieldAt b 0x18 4
  reserved := fieldAt b 0x1C 4

/-- A descriptor that RGENTER accepts (05 R165, R168, 18 R402); `route` is the greatest route latency of this package's links. -/
def RegionDesc.ok (d : RegionDesc) (placed : Nat) (join : Option Join) (linksUp : Bool) (route : Nat) : Bool :=
  decide (d.reserved = 0) && decide (d.ctab % 32 = 0) && decide (1 ≤ d.ncores) && decide (d.ncores ≤ placed) &&
  decide (2048 ≤ d.lead) && decide (d.lead ≤ 2 ^ 32) && decide (1 ≤ d.budget) && decide (d.budget < 2 ^ 48) &&
  decide (d.shape % 256 = 0) && decide (d.xlat ≤ 4095) &&
  (d.xlat == 0 || (match join with
    | some j => decide (max j.latency route ≤ d.xlat) && j.aligned && linksUp
    | none => false))

/-- A core-table entry that RGENTER accepts (05 R166, R168). -/
def CoreEntry.ok (e : CoreEntry) : Bool :=
  decide (e.reserved = 0) && decide (e.code % 4 = 0) && decide (e.clen % 4 = 0) && decide (4 ≤ e.clen) &&
  decide (e.clen ≤ Config.codeBytes) && decide (e.sdst % 128 = 0) && decide (e.simg % 128 = 0) && decide (e.slen % 128 = 0) &&
  decide (e.sdst + e.slen ≤ Config.scratchBytes) && (e.simg != 0 || e.slen == 0)

/-- What RGENTER loads into one core: its bytes, with the offsets of those that are poisoned (17 R382). -/
structure CoreImage where
  entry : CoreEntry
  code : List Byte
  codeBad : List Nat
  image : List Byte
  imageBad : List Nat
  deriving DecidableEq, Repr

/-- Everything RGENTER has read. -/
structure Plan where
  desc : RegionDesc
  cores : List CoreImage
  shape : List Byte
  deriving DecidableEq, Repr

/-- Every port of this package that the context's join uses is aligned (18 R402). -/
def State.joinUp (s : State) : Bool :=
  match (s.ctx s.task.ctx).join with
  | some j => j.ports.all fun p => (SMap.get {} s.ports p).aligned && !(SMap.get {} s.ports p).failed
  | none => true

/-- Logical dies of the first n cores. -/
def State.diesUsed (s : State) (n : Nat) : List Nat := ((List.range n).map s.dieOf).eraseDups

/-- The greatest route latency between the first n cores and the cores at the other ends of this package's links (18 R402, R403). -/
def State.greatestRoute (s : State) (n : Nat) : Nat :=
  match (s.ctx s.task.ctx).join with
  | some j => (j.links.flatMap fun l => (s.diesUsed n).map fun d => s.routeBy l (s.physDie d) ((l.far.map (·.2)).foldl max 24)).foldl max 0
  | none => 0

/-- Reads and checks the core table's entries, core by core. -/
def State.readEntries (s : State) (a : Word) (ctab : Nat) : Nat → Nat → Except Stopped (List CoreEntry × State)
  | _, 0 => .ok ([], s)
  | k, n + 1 => do
    let (b, _, s) ← s.readVa (ctab + 32 * k) 32
    let e := coreEntryOf b
    if !e.ok then .error (.trap ⟨1, 0, a⟩ s.core)
    else do
      let (rest, s) ← s.readEntries a ctab (k + 1) n
      .ok (e :: rest, s)

/-- Reads the bytes that the entries name, core by core. -/
def State.readCores (s : State) : List CoreEntry → Except Stopped (List CoreImage × State)
  | [] => .ok ([], s)
  | e :: l => do
    let (code, cbad, s1) ← s.readVa e.code e.clen
    let (image, ibad, s2) ← s1.readVa e.simg e.slen
    let (rest, s3) ← s2.readCores l
    let bad := fun (s : State) (p : Bool) (va n : Nat) => if p then s.badBytes s.agent .read va n else []
    .ok (⟨e, code, bad s cbad e.code e.clen, image, bad s1 ibad e.simg e.slen⟩ :: rest, s3)

/-- RGENTER's reads and checks (05 R168, R169): the plan, or the trap. The descriptor and the whole core table are checked
before any code or image is read; of several reads and checks that fail, the first in this order is reported: the descriptor, the core
table's entries one after another, each core's code and then its image, the shape record (R168 gives no order; DESIGN CHOICE,
notes/assumptions/67.md). -/
def State.plan (s : State) (a : Word) : Except Stopped (Plan × State) := do
  if a.toNat % 128 ≠ 0 then .error (.trap ⟨1, 0, a⟩ s.core)
  else do
    let (b, _, s) ← s.readVa a.toNat 128
    let d := regionDescOf b
    if !d.ok s.task.ncores (s.ctx s.task.ctx).join s.joinUp (s.greatestRoute d.ncores) then .error (.trap ⟨1, 0, a⟩ s.core)
    else do
      let (entries, s) ← s.readEntries a d.ctab 0 d.ncores
      let (cores, s) ← s.readCores entries
      if d.shape = 0 then .ok (⟨d, cores, []⟩, s)
      else do
        let (shape, _, s) ← s.readVa d.shape 256
        .ok (⟨d, cores, shape⟩, s)

/-! ### Copy engines (06 R409) -/

/-- Engines that the context's policy gives a region on a physical die (06 R409). -/
def State.allotment (s : State) (die : Nat) : Nat :=
  let c := s.ctx s.task.ctx
  max 1 (min (Config.copyEngines die) (if Config.isBX die then c.cesBx else c.cesMx))

/-- Engines of a physical die that no region holds. -/
def State.freeEngines (s : State) (die : Nat) : List Nat :=
  (List.range (Config.copyEngines die)).filter fun e => !SMap.has (s.die die).ceOwner e

/-- The engines of every die of the region are free. -/
def State.enginesFree (s : State) (n : Nat) : Bool :=
  (s.diesUsed n).all fun d => decide (s.allotment (s.physDie d) ≤ (s.freeEngines (s.physDie d)).length)

/-- The region's engines go back (05 R180). -/
def State.releaseEngines (s : State) : State :=
  { s with dies := s.dies.map fun (d, v) => (d, { v with ceOwner := v.ceOwner.filter fun p => p.2 != s.cur.task }) }

/-- Slots of a port's frames that no region holds (18 R399). -/
def Port.freeSlots (v : Port) : List Nat := (List.range 64).filter fun i => !v.reserved.any fun x => x.2.contains i

/-- The slots that firmware's allotment gives a region on a port, one of a frame staying free. -/
def Port.pickSlots (v : Port) (pick : Nat) : List Nat := (v.freeSlots.filter fun i => decide (i < 63)).take (1 + pick % 63)

/-- Firmware reserves slots for a joined region on the links that it uses (18 R399); which ones is its policy (DESIGN CHOICE, notes/assumptions/40.md). -/
def State.reserveSlots (s : State) : State :=
  let used := match (s.ctx s.task.ctx).join with | some j => j.ports | none => []
  let take := fun (p : Nat) (v : Port) => SMap.put v.reserved s.cur.task (v.pickSlots (Config.choose (s.fresh + p)))
  { s with fresh := s.fresh + 1, ports := s.ports.map fun (p, v) => (p, if used.contains p then { v with reserved := take p v } else v) }
/-- The region's slots go back (18 R399). -/
def State.releaseSlots (s : State) : State :=
  { s with ports := s.ports.map fun (p, v) => (p, { v with reserved := SMap.del v.reserved s.cur.task }) }
/-- What a region that ends gives back: copy engines and slots (06 R409, 18 R399). -/
def State.releaseAll (s : State) : State := s.releaseEngines.releaseSlots

/-- ALLOT_COPY_ENGINES (06 R409). -/
def execAllotCopyEngines (s : State) : Answer :=
  let n := s.region.ncores
  if !s.enginesFree n then .next s
  else
    let s1 := (s.diesUsed n).foldl (fun s d =>
      let p := s.physDie d
      let k := s.allotment p
      let take := (s.freeEngines p).take k
      let v := s.die p
      let s1 := s.setDie p { v with ceOwner := take.foldl (fun m e => SMap.put m e s.cur.task) v.ceOwner }
      s1.setRegion { s1.region with engines := SMap.put s1.region.engines d k }) s
    .next s1

/-! ### Entry (05 R169, R170, R172, 18 R402) -/

/-- The greatest dpl among the dies of the first n cores (05 R172). -/
def State.widest (s : State) (n : Nat) : Nat :=
  let dies := (s.diesUsed n).map s.physDie
  (dies.flatMap fun a => dies.map fun b => if a = b then 0 else Config.dpl a b).foldl max 0

/-- The check-ahead F of a region (05 R172); `others` is the greatest dpl among the dies of another member (18 R402). -/
def State.checkAhead (s : State) (n xlat others : Nat) : Nat :=
  if (s.diesUsed n).length ≤ 1 && xlat == 0 then 64 else 64 + max (max (s.widest n) others) xlat

/-- A core as RGENTER leaves it (05 R169, 02 R52): `lead` gives x0 to x63 of core 0. -/
def Core.enter (c : Core) (p : CoreImage) (shape : List Byte) (lead : Option (Vector Word 64)) : Core :=
  let c1 := (c.swrite p.entry.sdst p.image).smark p.entry.sdst p.imageBad
  { c1 with
    x := lead.getD c.x, pc := 0, code := putBytes [] 0 p.code
    codePoison := (p.codeBad.map (· / 4)).eraseDups
    loops := Vector.replicate 3 {}, active := [], loads := [], stores := [], ranges := [], rings := [], arrays := [], links := []
    els := c.els.map fun (k, e) => (k, { buffer := e.buffer })
    shadow := none, images := [], runs := [], streams := [], checker := (0, 0)
    shape := (List.range 64).foldl (fun m i => SMap.set 0 m i (BitVec.ofNat 32 (fieldAt shape (4 * i) 4))) []
    nextIssue := 0, exited := false }

/-- A region is loaded with entry tick E (05 R169). -/
def State.enterRegion (s : State) (p : Plan) (d : Reg) (addr e others : Nat) : State :=
  let lead := (s.at' 0).wx d (BitVec.ofNat 64 e)
  let c0 := lead.core
  let t := lead.task
  let cores := p.cores.zipIdx.foldl (fun m (q : CoreImage × Nat) =>
    SMap.put m q.2 ((SMap.get {} t.cores q.2).enter q.1 p.shape (if q.2 = 0 then none else some c0.x))) t.cores
  let n := p.desc.ncores
  let r : Region := {
    entering := true, desc := addr, ncores := n, budget := p.desc.budget, xlat := p.desc.xlat
    live := BitVec.ofNat 256 p.desc.live, entry := e, ahead := s.checkAhead n p.desc.xlat others
    enteredAt := c0.pc, savedLoops := c0.loops, savedActive := c0.active
    readyAt := (List.range n).map fun k => (k, s.ptc + Config.delay (s.fresh + k))
    engines := t.region.engines, dest := d }
  { (lead.setTask { t with cores := cores, region := r, wait := .none }) with fresh := s.fresh + n }

/-- This member of the context's join. -/
def State.joinSelf (s : State) : Nat := match (s.ctx s.task.ctx).join with | some j => j.self | none => 0

/-- Sends an event to every other member of the context's join. -/
def State.tellJoin (s : State) (i : Instr) : State :=
  match (s.ctx s.task.ctx).join with
  | some j => { s with outbox := s.outbox ++ (j.bases.eraseIdx j.self).map fun n => .peer n i }
  | none => s

/-- An RGENTER that waits for other members is taken back: it counts as not issued (10 R298), and they are told. -/
def State.leaveJoin (s : State) : State :=
  if s.region.joinSince.isNone then s
  else
    let c := s.task.ctx
    let s1 := s.tellJoin (.joinEntry ⟨c, s.joinSelf⟩ ⟨0, 0, 0, 0⟩)
    s1.setCtx c { s1.ctx c with joining := SMap.del (s1.ctx c).joining s.joinSelf }

/-- RGENTER (05 R169, R168, 18 R402). Its stores first, then its checks, then the copy engines, then the entry; that of a joined
region waits for every member's. -/
def execRgenter (d a : Reg) (s : State) : Answer :=
  s.needLoose (.rgenter d a) (
    if !s.core.loads.isEmpty then s.raise 2 0 (BitVec.ofNat 64 s.core.loads.length)
    else s.afterFailed (
      if !s.storesDone then s.tryLater .stores
      else match s.plan (s.rx a) with
        | .error e => s.stopAt e
        | .ok (p, s1) =>
          if s.region.engines.isEmpty then
            if s.enginesFree p.desc.ncores then
              let s2 := s.setRegion { s.region with ncores := p.desc.ncores }
              { s2 with turn := (s.cur, .event .allotCopyEngines) :: (s.cur, .issue) :: s2.turn }
            else s.tryLater .engines
          else if p.desc.xlat = 0 then (s1.count 1 1).enterRegion p d (s.rx a).toNat (s.ptc + p.desc.lead) 0
          else
            let i : Instr := .joinEntry ⟨s.task.ctx, s.joinSelf⟩ ⟨s.ptc + p.desc.lead, p.desc.ncores, s.widest p.desc.ncores, s.ptc⟩
            let s2 := (s.reserveSlots.setRegion { s.region with
              entering := true, joinSince := some s.ptc, desc := (s.rx a).toNat, dest := d, entry := s.ptc + p.desc.lead }).tellJoin i
            { s2 with turn := (s.cur, .event i) :: s2.turn }))

/-- Every member has issued its RGENTER (18 R402): E is the greatest of their proposals, and the region in focus is loaded; while a read
of the loading has to wait, the event comes `again`. -/
def State.enterJoined (s : State) (j : Join) (joining : SMap JoinSize) (again : Instr) : State :=
  let e := joining.foldl (fun e p => max e p.2.proposal) s.region.entry
  let others := joining.foldl (fun n p => if p.1 = j.self then n else max n p.2.dpl) 0
  let s0 := (s.at' 0).setCtx s.task.ctx { s.ctx s.task.ctx with joining := [] }
  match s0.plan (BitVec.ofNat 64 s.region.desc) with
  | .ok (p, s1) =>
    let s2 := (s1.count 1 1).enterRegion p s.region.dest s.region.desc e others
    s2.setRegion { s2.region with base := j.bases.getD j.self 0, total := joining.foldl (fun n p => n + p.2.cores) 0 }
  | .error (.trap f c) => ((s0.setCore c).setRegion {}).releaseAll.takeTrap f.cause f.sub f.tval
  | .error .wait => { s with inbox := s.inbox ++ [(s.later, again)], fresh := s.fresh + 1 }

/-- The first task of a context whose RGENTER waits for the other members of its join. -/
def State.joiner (s : State) (c : Nat) : Option Nat :=
  (s.tasks.find? fun (_, t) => t.ctx == c && t.region.entering && t.region.joinSince.isSome).map (·.1)

/-- JOIN_ENTRY (18 R402): a member's proposal, or one taken back (a proposal of 0); with the last of them E is fixed. -/
def execJoinEntry (who : JoinWho) (what : JoinSize) (s : State) : Answer :=
  let c := who.ctx
  let x := s.ctx c
  let joining := if what.proposal = 0 then SMap.del x.joining who.member else SMap.put x.joining who.member what
  let s1 := s.setCtx c { x with joining := joining }
  .next (match x.join, s1.joiner c with
    | some j, some i =>
      if (List.range j.bases.length).all fun k => SMap.has joining k then
        { ({ s1 with cur := { task := i } } : State).enterJoined j joining (.joinEntry who what) with cur := s.cur }
      else s1
    | _, _ => s1)

/-- The first logical core of the lowest member that is missing slidemax ticks after the first member's RGENTER (18 R402). -/
def State.joinMissing (s : State) : Option Nat :=
  let x := s.ctx s.task.ctx
  match x.join with
  | none => none
  | some j =>
    if x.joining.any fun p => decide (p.2.issued + s.slidemax ≤ s.ptc) then
      ((List.range j.bases.length).find? fun k => !SMap.has x.joining k).map fun k => j.bases.getD k 0
    else none

/-- JOIN_ENTRY_TIMEOUT (18 R402): a member is missing; `core` is its first logical core. -/
def execJoinEntryTimeout (core : Nat) (s : State) : Answer :=
  if !s.region.entering || s.region.joinSince.isNone then .next s
  else
    let s1 := (s.at' 0).setCtx s.task.ctx { s.ctx s.task.ctx with joining := [] }
    .next ((s1.setRegion {}).releaseAll.takeTrap 6 6 (BitVec.ofNat 64 core))

/-- REGION_ENTRY (05 R169, R170): every core issues at cycle 0, or the late-entry fault. -/
def execRegionEntry (s : State) : Answer :=
  let r := s.region
  if !r.entering then .next s
  else
    match (List.range r.ncores).find? (fun k => decide (r.entry < SMap.get 0 r.readyAt k)) with
    | some k =>
      .next ((s.at' 0).faultTask ⟨causeWord 6 6, r.enteredAt, BitVec.ofNat 64 (r.base + k), some 0, 0, false, false, (s.coreAt 0).handler⟩)
    | none => .next (s.setRegion { r with active := true, entering := false, rt := 0, slide := 0 })

/-! ### Exit (05 R180, R181) -/

/-- RGEXIT (05 R180). -/
def execRgexit (s : State) : Answer :=
  s.needTimed .rgexit (let s1 := s.finish 1; s1.setCore { s1.core with exited := true })

/-- A core as a region's exit leaves it (05 R180). -/
def Core.leave (c : Core) : Core :=
  { c with loads := [], ranges := [], rings := [], arrays := [], links := [], els := [], shadow := none, images := [], runs := [], streams := [],
           checker := (0, 0), exited := false }

/-- Everything R180 waits for has come about at the end of this cycle. -/
def State.exitReady (s : State) : Bool :=
  let r := s.region
  (List.range r.ncores).all (fun k => (s.coreAt k).exited && (s.coreAt k).runs.all (·.ended)) &&
  r.agenda.isEmpty && r.copies.isEmpty && s.storesDone

/-- A region's freeze for a request, or its exit before the cycle of one: the task is saved, or ends (05 R182, 10 R294, R297). -/
def State.stopTask (s : State) (why : FreezeWhy) : State :=
  match why with
  | .preempt => { s.setTask { s.task with state := .freezing, saveAt := s.later } with fresh := s.fresh + 1 }
  | .cancel => { s.setTask { s.task with state := .ending .cancelled, fault := none } with turn := (s.cur, .phase .taskEnd) :: s.turn }
  | _ => s

/-- REGION_EXIT (05 R180): the lead core resumes loose code after its RGENTER. A request whose cycle has not come takes the task in
its loose code (05 R182 and 10 R294 are silent on it; DESIGN CHOICE, notes/assumptions/62.md). -/
def execRegionExit (s : State) : Answer :=
  let r := s.region
  if !r.active then .next s
  else
    let s1 := ((s.setTask { s.task with cores := s.task.cores.map fun (k, c) => (k, c.leave), region := {} }).releaseAll).at' 0
    let s1 : State := { s1 with history := s1.history.filter fun h => h.task != s.cur.task }
    let c := { s1.core with pc := r.enteredAt, loops := r.savedLoops, active := r.savedActive, stores := [] }
    let s2 := (s1.setTask { s1.task with exitTick := some s.ptc }).setCore (c.sequential false)
    let s3 : State := { s2.setCore { s2.core with nextIssue := s.ptc + 1 + Config.delay s.fresh } with fresh := s.fresh + 1 }
    .next (match r.stopAt with
      | some (_, why) => s3.stopTask why
      | none => s3)

/-- REGION_DEADLINE (05 R181). -/
def execRegionDeadline (s : State) : Answer :=
  let r := s.region
  if !r.active then .next s
  else .next ((s.at' 0).faultTask ⟨causeWord 7 1, BitVec.allOnes 64, BitVec.ofNat 64 r.budget, some r.rt, 0, true, false, (s.coreAt 0).handler⟩)

/-! ### Landing (05 R173, R174, 06 R200, R211, 08 R254, R260) -/

/-- A device-memory read of an engine waits behind a MARK of its core (08 R260): for the writes before it. -/
def State.engineHeld (s : State) (k issue : Nat) : Bool :=
  let f := s.at' k
  f.core.stores.any fun m =>
    match m.kind with
    | .mark agent stor => stor.testBit 1 && decide (m.issue < issue) && f.writePending m (f.scopeOf agent) stor
    | _ => false

/-- An access that translates, or whose fault stands (11 R314), can land; one that firmware may still resolve cannot. -/
def State.settled (s : State) (t : Tr) : Bool := !resolvable t || s.region.declared

/-- What an asynchronous item of an engine still needs before its data can land. -/
inductive Ask where
  /-- nothing -/
  | none
  /-- firmware may still resolve its translation -/
  | wait (va : Nat) (t : Tr)
  /-- a read of these lines: physical address, view, attributes -/
  | read (lines : List (Nat × Nat × Nat))
  /-- a write of these lines, with the address of the row or beat -/
  | write (va : Nat) (lines : List (Nat × Nat × Nat))

/-- The lines of several runs of `n` bytes. -/
def runLines (g : Agent) (k : Access) (s : State) (n : Nat) : List Nat → Except (Nat × Tr) (List (Nat × Nat × Nat))
  | [] => .ok []
  | a :: l =>
    match writeLines g k (lineFuel n) s a n with
    | .error e => .error e
    | .ok x => match runLines g k s n l with
      | .ok y => .ok (x ++ y)
      | .error e => .error e

/-- A read of an engine, or the wait for its translation. -/
def State.askRead (s : State) (g : Agent) (n : Nat) (rows : List Nat) : Ask :=
  match runLines g .read s n rows with
  | .ok l => .read l
  | .error (v, t) => if s.settled t then .none else .wait v t

/-- A write of an engine, or the wait for its translation. -/
def State.askWrite (s : State) (g : Agent) (n va : Nat) : Ask :=
  match writeLines g .write (lineFuel n) s va n with
  | .ok l => .write va l
  | .error (v, t) => if s.settled t then .none else .wait v t

/-- What an item needs next (06 R200, R207, R211), and the agent that asks. -/
def State.itemAsk (s : State) (p : Pend) : Agent × Ask :=
  match p.act with
  | .event (.copyRowPerform uid r) =>
    match s.region.copy uid with
    | none => (s.agent, .none)
    | some c =>
      let g := s.copyAgent c.die c.engine
      match c.desc with
      | some d =>
        if d.ssp = 0 && !SMap.has c.staged (r / d.perStage) then (g, s.askRead g d.count0 (d.srcRows d.sbase (r / d.perStage)))
        else if d.dsp = 0 then (g, s.askWrite g d.rowBytes (d.dstRow d.dbase r))
        else (g, .none)
      | none => (g, .none)
  | .event (.streamBeat se run j) =>
    let g := s.streamAgent se
    match s.core.streamIn se run with
    | some t => match t.desc with
      | some d =>
        if d.dir = 0 then (g, if SMap.has t.fetched j then .none else s.askRead g 64 [d.addr d.base j])
        else if d.space = 2 then
          (g, match s.askWrite g 64 (d.addr d.base j) with | .write _ _ => .none | a => a)
        else (g, .none)
      | none => (g, .none)
    | none => (g, .none)
  | .event (.streamWritePerform se _ (.mem va) bytes) => (s.streamAgent se, s.askWrite (s.streamAgent se) bytes.length va)
  | _ => (s.agent, .none)

/-- The item's read stands behind a MARK (08 R260). -/
def State.readHeld (s : State) (p : Pend) : Bool :=
  match p.act with
  | .event (.copyRowPerform uid _) => (s.region.copy uid).any fun c => s.engineHeld c.core c.issue
  | .event (.streamBeat _ run _) => (s.core.runOf run).any fun u => s.engineHeld s.cur.core u.issue
  | _ => false

/-- The read of an item is served (06 R200, R207, 08 R264). -/
def State.serveItem (s : State) (p : Pend) : State :=
  match p.act with
  | .event (.copyRowPerform uid r) =>
    match s.region.copy uid with
    | some c => match c.desc, c.start with
      | some d, some start => match s.rowSource c d start (r / d.perStage) with
        | .ready s1 => s1
        | _ => s
      | _, _ => s
    | none => s
  | .event (.streamBeat se run j) =>
    match s.core.streamIn se run, s.core.runOf run with
    | some t, some u => match t.desc with
      | some d =>
        let g := s.streamAgent se
        let va := d.addr d.base j
        match (s.prefetch g va fun _ => d.addrsFrom (j + 1)).regionLoad g .read u.issue va 64 with
        | .done b bad s1 => s1.setCore (s1.core.setStream { t with fetched := SMap.put t.fetched j (if bad then [] else b) })
        | .failed _ _ => s
      | none => s
    | _, _ => s
  | _ => s

/-- The focus of an agenda item. -/
def State.onItem (s : State) (p : Pend) : State := { s with cur := { s.cur with core := p.core, el := p.el, slot := p.slot } }

/-- Replaces an agenda item. -/
def State.setItem (s : State) (p : Pend) : State :=
  s.setRegion { s.region with agenda := s.region.agenda.map fun q => if q.seq == p.seq then p else q }

/-- The first item whose data may land by now; while the task is being saved, one whose request has been sent (03 R123). -/
def State.landing (s : State) : Option Pend :=
  s.region.agenda.find? fun p => !p.landed && decide (p.landAt ≤ s.ptc) && (decide (s.task.state = .running) || p.sent.isSome)

/-- The item is tried again later. -/
def State.againItem (s : State) (p : Pend) : State := { s.setItem { p with landAt := s.later } with fresh := s.fresh + 1 }

/-- The item has landed. -/
def State.itemLanded (s : State) (p : Pend) : State :=
  (s.setItem { p with landed := true, held := [] }).landed (decide (p.due ≤ s.rt))

/-- The lines of an ask that travel to a home: not those that the engine's die holds a copy of (08 R253). -/
def State.askLines (s : State) (g : Agent) (isRead : Bool) (l : List (Nat × Nat × Nat)) : List Nat :=
  l.filterMap fun (pa, _, attr) =>
    if isRead && g.remote pa attr && (s.copyOf g.die (pa / 128)).isSome then none else some pa

/-- A request of an item that has been sent: true when it arrives now; else the item as it waits on (08 R254, 14 R354,
R355). -/
def State.arrives (s : State) (p : Pend) (sent : Nat) (pas : List Nat) : Bool :=
  p.homes.all (fun b => s.firstOnRoute p.die b sent) && pas.all fun a => !s.locked (a / 128) (s.cur.task, 0, p.seq)

/-- ITEM_LAND (05 R173, R174): an item's request is sent, arrives and is served, and its data lands; or it has to wait
longer, for the completion of a flush before it is sent too (11 R314). -/
def execItemLand (s : State) : Answer :=
  match s.landing with
  | none => .next s
  | some p =>
    let f := s.onItem p
    let (g, ask) := f.itemAsk p
    let send := fun (pas : List Nat) =>
      ({ s with sendSeq := s.sendSeq + 1 } : State).againItem
        { p with sent := some s.sendSeq, homes := (pas.map homeDie).eraseDups, hash := pas.map s.hashOf }
    let reach := fun (pas : List Nat) (go : State) => match p.sent with
      | none => if (s.ctx s.task.ctx).flushing then s.againItem p else send pas
      | some n =>
        if p.hash ≠ pas.map s.hashOf then s.againItem { p with hash := pas.map s.hashOf, homes := (pas.map homeDie).eraseDups }
        else if f.arrives p n pas then go else s.againItem p
    .next (match ask with
      | .none => s.itemLanded p
      | .wait _ _ => s.againItem { p with sent := none, homes := [], hash := [], held := [] }
      | .read l =>
        if f.readHeld p then s.againItem p
        else
          let pas := f.askLines g true l
          reach pas (
            let s1 : State := { f.serveItem p with cur := s.cur }
            let p1 := { p with sent := none, homes := [], hash := [] }
            match ((s1.onItem p).itemAsk p).2 with
            | .none => s1.itemLanded p1
            | _ => s1.againItem p1)
      | .write _ l =>
        let pas := f.askLines g false l
        reach pas (match hedgeRun g.ctx l f with
          | none => s.itemLanded p
          | some c => (s.againItem { p with held := pas.map (· / 128) }).ask c))

/-! ### Late items (05 R173 to R175) -/

/-- An instruction of a core that a late item belongs to: core, unit of 05 R183, code offset, and the address and context of a
write that waits for the Hedgerow. -/
structure Late where
  core : Nat
  unit : Nat
  pc : Word
  hedge : Option (Word × Nat)
  deriving DecidableEq, Repr

/-- The writes of this cycle that find no Hedgerow line, one after another, each counting those before it (12 R334): the item,
the address and the context that is short. -/
def hedgeDue : List Pend → State → List (Nat × Word × Nat)
  | [], _ => []
  | p :: l, s =>
    match (s.onItem p).itemAsk p with
    | (g, .write va lines) =>
      match hedgeRun g.ctx lines s with
      | some c => (p.seq, BitVec.ofNat 64 va, c) :: hedgeDue l s
      | none => hedgeDue l (lines.foldl (fun s (pa, tv, _) =>
          if Config.deviceStorage pa then (s.saveShadows (pa / 128) tv).makePrivate g.ctx (pa / 128) tv else s) s)
    | _ => hedgeDue l s

/-- An item due in this cycle has landed, but its translation has gone again. -/
def State.itemGone (s : State) (p : Pend) : Bool :=
  match ((s.onItem p).itemAsk p).2 with
  | .wait _ _ => true
  | _ => false

/-- Where a CP's MARKs and stores leave an item: it is late (05 R173) when it has not landed, was found late at its check and has
not been through a slide since, or can no longer perform. -/
def State.itemLate (s : State) (p : Pend) : Bool :=
  decide (p.due = s.rt) && (!p.landed || p.late == 1 || s.itemGone p)

/-- The unit that an item belongs to, by its place in the table of 05 R183: CP, grid element, matrix array, link host, copy engine, stream
engine, scratchpad. -/
def Pend.unit (p : Pend) : Nat :=
  match p.act with
  | .event (.gridResultPerform _) | .event (.gridRunStart _) | .event (.gridBundleIssue _) | .event (.gridRunEnd _) => 1
  | .event (.arrayCommandStart _) | .event (.contributionPerform _ _) | .phase (.rowSample _ _ _) => 2
  | .event (.hopPerform _ _ _ _) | .event (.chainConfigArrival _ _ _ _ _) | .event (.closeRowPerform _) | .event (.normContribution _ _ _ _)
  | .event (.chainRelease _ _) | .phase (.closeScales _ _ _ _ _ _) | .phase (.closeTake _ _ _) | .phase (.readTake _ _ _ _)
  | .phase (.linkComplete _) | .phase (.slotZero _ _) | .phase (.engineWrite _ _) | .phase (.ringWrite _) => 3
  | .event (.copyRowPerform _ _) | .event (.copyRowStage _ _) | .event (.copydDigestPerform _) | .phase (.copyTake _) => 4
  | .event (.streamBeat _ _ _) | .event (.streamWritePerform _ _ _ _) | .phase (.beatSample _ _) | .phase (.deferTake _ _)
  | .phase (.deferWrite _ _) | .phase (.deferPad _) => 5
  | .phase (.stsWrite _ _) => 6
  | _ => 0

/-- The word at the code-buffer offset where a core issues. -/
def Core.codeWord (c : Core) : Word32 := BitVec.ofNat 32 (leNat (takeBytes c.code c.pc.toNat 4))

/-- A core that issues a store or an AMO in this cycle into a full store queue (03 R99) (DEDUCED, notes/assumptions/31.md). -/
def State.storeLate (s : State) (k : Nat) : Bool :=
  let c := s.coreAt k
  !c.exited && decide (c.nextIssue ≤ s.rt) && decide (32 ≤ c.storeCount) &&
  (match decode c.codeWord with
   | some (.stq _ _ _ _) => true
   | some (.amo _ _ _ _ _ _) => true
   | some (.amoCas _ _ _ _ _ _) => true
   | _ => false)

/-- Every late item of this cycle. -/
def State.lates (s : State) : List Late :=
  let short := hedgeDue (s.region.agenda.filter fun p => decide (p.due = s.rt)) s
  ((List.range s.region.ncores).flatMap fun k =>
    let c := s.coreAt k
    (c.loads.filterMap fun e => if e.isDue s.rt && (!e.landed || e.late == 1) then some ⟨k, 0, e.pc, none⟩ else none) ++
    ((s.storeUntranslated k).map fun pc => ⟨k, 0, pc, none⟩) ++
    (if s.storeLate k then [⟨k, 0, c.pc, none⟩] else [])) ++
  (s.region.agenda.filterMap fun p =>
    let hedge := (short.find? fun x => x.1 == p.seq).map (·.2)
    if s.itemLate p || hedge.isSome then some ⟨p.by', p.unit, p.pc, hedge⟩ else none)

/-- Tells every other member of a joined region (18 R402). -/
def State.tellPeers (s : State) (i : Instr) : State := s.peers.foldl (fun s n => s.tell n i) s

/-- Cycles for which a check has decided a freeze (05 R173). -/
def State.lateCycles (s : State) : List Nat :=
  (s.region.agenda.filterMap fun p => if p.late = 1 then some p.due else none) ++
  s.task.cores.flatMap fun (_, c) => c.loads.filterMap fun e => if e.late = 1 then some (e.perform.getD e.earliest) else none

/-- The check of the items whose check is due in this cycle (05 R173): whether one that has not landed is found late is free
(DESIGN CHOICE, notes/assumptions/4.md); one that is found late freezes the region at its perform cycle, and the other members of
a joined region are told (18 R402). -/
def State.checkItems (s : State) : State :=
  let r := s.region
  let now := fun (due took : Nat) => decide (max (due - r.ahead) (took + 1) = r.rt)
  let agenda := r.agenda.map fun p =>
    if !p.landed && p.late == 0 && now p.due p.took && Config.freeBool (s.fresh + p.seq) then { p with late := 1 } else p
  let check := fun (k : Nat) (e : LoadEntry) =>
    if !e.landed && e.late == 0 && now (e.perform.getD e.earliest) e.issue && Config.freeBool (s.fresh + 64 * k + e.seq) then { e with late := 1 } else e
  let s1 := s.setTask { s.task with region := { r with agenda := agenda }
                                    cores := s.task.cores.map fun (k, c) => (k, { c with loads := c.loads.map (check k) }) }
  (s1.lateCycles.filter fun n => !s.lateCycles.contains n).foldl (fun s n => s.tellPeers (.regionFreeze ⟨.slide, n, none⟩)) { s1 with fresh := s.fresh + 1 }

/-- The freezes that were decided for items of later cycles stand only while those have not landed (05 R175). -/
def Task.afterSlide (t : Task) : Task :=
  { t with
    region := { t.region with agenda := t.region.agenda.map fun p => { p with late := if p.late = 1 then 2 else p.late } }
    cores := t.cores.map fun (k, c) => (k, { c with loads := c.loads.map fun e => { e with late := if e.late = 1 then 2 else e.late } }) }

/-- The first of several: the lowest core, then the first unit (05 R185). -/
def Late.least : List Late → Option Late
  | [] => none
  | l :: rest => some (rest.foldl (fun a b => if b.core < a.core || (b.core == a.core && decide (b.unit < a.unit)) then b else a) l)

/-! ### Freezes (05 R174, R175, R177, R182) -/

/-- Which of two reasons to stop goes first: a cancellation (10 R297), then a pre-emption. -/
def whyOver (a b : FreezeWhy) : FreezeWhy :=
  if a = .cancel || b = .cancel then .cancel else if a = .preempt || b = .preempt then .preempt else b

/-- A region that runs stops at a cycle for a request (05 R182); an earlier choice stands. -/
def Region.stopFor (r : Region) (why : FreezeWhy) (cycle : Nat) : Region :=
  { r with stopAt := match r.stopAt with
      | some (c, w) => some (min c cycle, whyOver w why)
      | none => some (cycle, why) }

/-- REGION_FREEZE (05 R174, R182, 18 R402): a freeze that is decided for a later cycle stays pending, and the other members are told;
one that has come stops the region before its cycle: what is due stays parked, and what is late has to land. -/
def execRegionFreeze (note : FreezeNote) (s : State) : Answer :=
  let r := s.region
  let why := note.why
  if !r.active then .next s
  else if r.rt < note.cycle then .next ((s.setRegion (r.stopFor why note.cycle)).tellPeers (.regionFreeze ⟨why, note.cycle, none⟩))
  else
    let short := hedgeDue (r.agenda.filter fun p => decide (p.due = r.rt)) s
    let agenda := r.agenda.map fun p =>
      if p.due = r.rt && (s.itemGone p || short.any fun x => x.1 == p.seq) then { p with landed := false, sent := none, homes := [], hash := [] } else p
    let through := fun (n : Nat) => if n = 1 then 2 else n
    let agenda := agenda.map fun p => if p.due = r.rt then { p with late := through p.late } else p
    let cores := s.task.cores.map fun (k, c) =>
      (k, { c with loads := c.loads.map fun e => if e.isDue r.rt then { e with late := through e.late } else e })
    let joined := decide (r.total ≠ 0)
    let f : Freeze := match r.freeze with
      | some f => { f with why := why }
      | none => { why := why, tick := s.ptc, lastLand := s.ptc, resume := none
                  peer := joined && (decide (why = .preempt) || r.peerStops.any fun p => decide (p.1 ≤ r.rt)) }
    let s1 := s.setTask { s.task with
      cores := cores
      region := { r with freeze := some f, agenda := agenda, stopAt := if (r.stopAt.map (·.2)) = some why then none else r.stopAt
                         peerStops := r.peerStops.filter fun p => decide (r.rt < p.1) } }
    let s2 := if r.freeze.isNone && decide (why ≠ .cancel) then s1.tellPeers (.regionFreeze ⟨why, r.rt, none⟩) else s1
    .next (s2.stopTask why)

/-- REGION_RESUME (05 R174, R175, R182): the time since the freeze is slide. -/
def execRegionResume (s : State) : Answer :=
  let r := s.region
  .next (match r.freeze with
    | none => s
    | some f => s.setTask { s.task with region := { r with freeze := none, slide := r.slide + (s.ptc - f.tick) } }.afterSlide)

/-- A store or AMO of timed code that has been held for the Hedgerow for slidemax ticks (12 R334): core and entry. -/
def State.heldStore (s : State) : Option (Nat × Word × Word) :=
  let long := fun (t : Option Nat) => t.any fun t => decide (s.slidemax ≤ s.ptc - t)
  (List.range s.region.ncores).findSome? fun k =>
    ((s.coreAt k).stores.findSome? fun e => if long e.heldSince then some (k, e.va, e.pc) else none).orElse fun _ =>
    (s.coreAt k).ranges.findSome? fun e => if long e.heldSince then some (k, BitVec.ofNat 64 e.next, e.pc) else none

/-- SLIDE_TIMEOUT (05 R177, 12 R334, 17 R408). -/
def execSlideTimeout (s : State) : Answer :=
  let r := s.region
  let fault := fun (cause sub : Nat) (tval pc : Word) (k : Nat) =>
    (s.at' k).faultTask ⟨causeWord cause sub, pc, tval, some r.rt, k, true, false, (s.coreAt k).handler⟩
  .next (match s.heldStore with
    | some (k, va, pc) => fault 0x0B 1 va pc k
    | none =>
      match r.freeze, Late.least s.lates with
      | none, _ => s
      | some _, none => fault 8 0 (BitVec.ofNat 64 r.rt) (BitVec.allOnes 64) 0
      | some _, some l =>
        match l.hedge with
        | some (va, _) => fault 0x0B 1 va l.pc l.core
        | none => fault 8 0 (BitVec.ofNat 64 r.rt) l.pc l.core)

/-! ### One cycle -/

/-- Before one of two keys of one rank comes the lexicographically smaller. -/
def keyLt : List Nat → List Nat → Bool
  | [], [] => false
  | [], _ => true
  | _, [] => false
  | a :: l, b :: m => decide (a < b) || (a == b && keyLt l m)

/-- The place of an item in the order of its cycle. -/
def Pend.place (p : Pend) : List Nat := p.rank :: (p.key ++ [p.seq])

/-- The item of this cycle that comes next; one that has not landed is left out where the cycle is only tried for its traps. -/
def State.nextItem (s : State) : Option Pend :=
  s.region.agenda.foldl (fun best p =>
    if p.due ≠ s.rt || (!p.landed && (s.region.probe || !s.region.traps.isEmpty)) then best
    else match best with
      | none => some p
      | some b => if keyLt p.place b.place then some p else best) none

/-- The core that issues next in this cycle: the lowest that is due (05 R173, 06 R207). -/
def State.nextCore (s : State) : Option Nat :=
  (List.range s.region.ncores).find? fun k => !(s.coreAt k).exited && decide ((s.coreAt k).nextIssue ≤ s.rt)

/-- Takes an item off the agenda and puts it on the turn; one for a core of another package comes due there (18 R403). -/
def State.runItem (s : State) (p : Pend) : State :=
  let s1 := s.setRegion { s.region with agenda := s.region.agenda.filter fun q => q.seq != p.seq }
  if s.region.badPend.contains p.seq then
    s1.trapUnit p.unit 0x0C 7 (BitVec.ofNat 64 (p.unit * 256 + p.seq % 256)) p.pc p.by'
  else if farCore ≤ p.core then s1.runFar p.act
  else { s1 with turn := ({ s.cur with core := p.core, el := p.el, slot := p.slot }, p.act) :: s1.turn }

/-- The next thing of an opened cycle: an item, an issue, or the cycle's end. -/
def State.cycleNext (s : State) : State :=
  let issue := s.nextCore
  match s.nextItem, issue with
  | some p, none => s.runItem p
  | some p, some k =>
    if p.rank < 20 then s.runItem p else { s with turn := ({ s.cur with core := k }, .issue) :: s.turn }
  | none, some k => { s with turn := ({ s.cur with core := k }, .issue) :: s.turn }
  | none, none => { s with turn := (s.cur, .phase .cycleEnd) :: s.turn }

/-- Counts a tick, and a cycle, on every core of the region (03 R115, R117): a core that has issued RGEXIT counts on while the
region runs (R117 is silent on it; DESIGN CHOICE, notes/assumptions/49.md). -/
def State.countRegion (s : State) (ev : Nat) : State :=
  s.setTask { s.task with cores := s.task.cores.map fun (k, c) => (k, if k < s.region.ncores then c.count true ev 1 else c) }

/-- The cycle's own start: its counts, its checks, and what a trap of it takes back. -/
def State.openCycle (s : State) : State :=
  let s1 := (((s.checkItems).countRegion 2).countRegion 3)
  { s1.setRegion { s1.region with opened := true } with pre := some s.before }

/-- The work of a cycle at which the region stands frozen, or is about to freeze, is tried for its traps (05 R175, 10 R294):
nothing of it stays unless it traps (DEDUCED, notes/assumptions/20.md). -/
def phaseCycleProbe (s : State) : State :=
  { s.setRegion { s.region with opened := true, probe := true } with pre := some s.before }

/-- The chain, the sending hop and this package's port of an item that crosses a link of a joined region: a partial between this
package and another (18 R403). A transfer from hop k to hop k + 1 goes by hop k (DESIGN CHOICE, notes/assumptions/73.md). -/
def State.farHop (s : State) (p : Pend) : Option (Nat × Nat × Nat) :=
  match p.act with
  | .event (.hopPerform uid hop _ _) =>
    match s.region.chain uid with
    | some c => match (if hop = 0 then none else c.hop (hop - 1)), c.hop hop with
      | some a, some b =>
        if decide (farCore ≤ a.core) != decide (farCore ≤ b.core) then
          (s.linkTo (if farCore ≤ a.core then a.core else b.core)).map fun l => (uid, hop - 1, l.port)
        else none
      | _, _ => none
    | none => none
  | _ => none

/-- The hop of this cycle that crosses a link which has been trained anew (18 R400). -/
def State.cutHop (s : State) : Option Pend :=
  s.region.agenda.find? fun p => decide (p.due = s.rt) && (s.farHop p).any fun h => s.region.cut.contains h.2.2

/-- Why another member of a joined region stops at this cycle, if one does (18 R402). -/
def State.peerStop (s : State) : Option FreezeWhy :=
  match s.region.peerStops.filter fun p => decide (p.1 ≤ s.rt) with
  | [] => none
  | p :: l => some (l.foldl (fun w q => whyOver w q.2) p.2)

/-- A cycle begins: a deadline (05 R181), a freeze chosen for it (05 R182, 10 R293), accesses that cannot translate (03 R96,
11 R314), a late item (05 R173), or its work (DEDUCED, notes/assumptions/20.md). -/
def phaseCycleOpen (s : State) : State :=
  let r := s.region
  let put := fun (i : Instr) => { s with turn := (s.cur, .event i) :: s.turn }
  if r.budgetAt.any (fun f => decide (f ≤ r.rt)) then
    (s.at' 0).faultTask ⟨causeWord 7 2, BitVec.allOnes 64, s.task.recordVa, some r.rt, 0, true, false, (s.coreAt 0).handler⟩
  else if let some p := s.cutHop then
    (s.at' p.by').faultTask ⟨causeWord 8 0, p.pc, BitVec.ofNat 64 r.rt, some r.rt, p.by', true, false, (s.coreAt p.by').handler⟩
  else if decide (r.budget ≤ r.rt) && (List.range r.ncores).any (fun k => !(s.coreAt k).exited) then put .regionDeadline
  else if !s.queueFaults.isEmpty then
    s.queueFaults.foldl (fun s (k, pc, cause, sub, tval) => s.trapUnit 0 cause sub tval pc k) (phaseCycleProbe s)
  else if r.stopAt.any fun p => decide (p.1 ≤ r.rt) && decide (p.2 ≠ .throttle) then phaseCycleProbe s
  else if s.lates.isEmpty then
    match s.peerStop, r.stopAt.any fun p => decide (p.1 ≤ r.rt) with
    | some w, _ => put (.regionFreeze ⟨w, r.rt, none⟩)
    | none, true => put (.regionFreeze ⟨.throttle, r.rt, none⟩)
    | none, false => s.openCycle
  else put (.regionFreeze ⟨.slide, r.rt, none⟩)

/-- The number by which a core stands in the order of the logical cores, over all members of a joined region. -/
def State.logical (s : State) (k : Nat) : Nat := if farCore ≤ k then k - farCore else s.region.base + k

/-- The trap that the fault record carries: the lowest core's, and there the first unit's (17 R380). -/
def leastTrap (rank : Nat → Nat) : List TrapRec → Option TrapRec
  | [] => none
  | t :: rest => some (rest.foldl (fun a b =>
      if rank b.core < rank a.core || (b.core == a.core && decide (b.unit < a.unit)) then b else a) t)

/-- The counts of a cycle join the counters (03 R118). -/
def Core.foldCounts (c : Core) : Core :=
  { c with hpc := Vector.ofFn fun i => c.hpc[i] + c.hpcNow[i], hpcNow := Vector.replicate 4 0 }

/-- A cycle that has been tried raises no trap: the region stands as before it, frozen, or freezes now (05 R175, 10 R294). -/
def State.probeDone (s : State) : State :=
  let s1 := match s.pre with | some b => s.restore b | none => s
  let r := { s1.region with opened := false, probe := false }
  match r.freeze with
  | some f =>
    let s2 := s1.setRegion { r with freeze := some { f with probed := true } }
    if s1.lates.isEmpty then s2.tellPeers (.regionFreeze ⟨f.why, r.rt, some (max f.lastLand f.tick)⟩) else s2
  | none => { s1.setRegion r with turn := (s1.cur, .event (.regionFreeze ⟨(r.stopAt.map (·.2)).getD .preempt, r.rt, none⟩)) :: s1.turn }

/-- A trap that a CP raises as it issues, whatever the items still under way bring: no schedule fault of a ring or a chain, and no
chain fault. -/
def TrapRec.certain (t : TrapRec) : Bool :=
  decide (t.unit = 0) && decide (t.cause ≠ 0x0A) && !(decide (t.cause = 6) && (decide (t.sub = 2) || decide (t.sub = 7)))

/-- The traps of a cycle that count: where it was tried with items that have not landed, those which do not hang on them
(05 R175, 10 R294; DEDUCED, notes/assumptions/20.md). -/
def State.cycleTraps (s : State) (before : State) : List TrapRec :=
  if s.region.probe && !before.lates.isEmpty then s.region.traps.filter (·.certain) else s.region.traps

/-- A cycle ends: its traps abort the region and take the cycle back (03 R113, 17 R380); else the next cycle comes, or
the region's exit (05 R180), for which a joined region waits for its other members (18 R402). -/
def phaseCycleEnd (s : State) : State :=
  let r := s.region
  let s1 := match s.pre with | some b => s.restore b | none => s
  let traps := s.cycleTraps s1
  match leastTrap s.logical traps with
  | some t =>
    (s1.at' t.core).faultTask ⟨causeWord t.cause t.sub, t.epc, t.tval, some r.rt, t.core, true, decide (1 < traps.length), (s.coreAt t.core).handler⟩
  | none =>
    if r.probe then s.probeDone
    else
      let s1 := s.setTask { s.task with cores := s.task.cores.map fun (k, c) => (k, c.foldCounts) }
      let s2 : State := { s1.setRegion { s1.region with opened := false } with pre := none }
      let next := fun (s : State) => s.setRegion { s.region with rt := r.rt + 1 }
      if !s2.exitReady then next (s2.setRegion { s2.region with ready := false })
      else if s2.peers.isEmpty || r.othersReady then { s2 with turn := (s.cur, .event .regionExit) :: s2.turn }
      else if r.ready then next s2
      else
        let s3 := s2.tellPeers .regionExit
        next (s3.setRegion { s3.region with ready := true })

end Sys2Proof.Machine
end

