-- ==== Sys2Proof/Machine/Tasks.lean ====
section
/-!
DEFINITION. Queues, task records, the distributor and its placements, task ends, the fault queue, pre-emption, save and
restore (10 R274 to R299, 17 R379, R381, 03 R114, R122 to R124, 05 R184, 07 R250).
-/

namespace Sys2Proof.Machine

/-! ### The device's own accesses to a context's memory (12 R319, DEDUCED, notes/assumptions/27.md) -/

/-- Lines of the reserved pool that no quota has (12 R334, 18 R397). -/
def State.hedgeFree (s : State) : Nat := s.hedgePool - s.contexts.foldl (fun n (_, x) => n + x.quota) 0

/-- A write that a host function, a peer or the device makes has to wait behind an earlier one of its origin (18 R390), or for a line
that another write holds at its home (12 R334, 14 R354). -/
def State.outsideLocked (s : State) (w : HeldWrite) : Bool :=
  (s.hostHeld.any fun v => v.origin == w.origin && v.ctx == w.ctx) ||
  (s.outsideLines w.ctx w.va w.bytes.length).any fun l => s.locked l (0, 2 ^ 32, 0)

/-- The permission that such a write needs: none for the device's own (12 R319). -/
def HeldWrite.access (w : HeldWrite) : Access := if w.add then .amo else if w.origin = 257 then .none else .write

/-- The bytes that such a write leaves: an add reads at its home first (10 R281). -/
def State.outsideBytes (s : State) (w : HeldWrite) : List Byte :=
  match (if w.add then translate s w.ctx w.va .amo else .tfault 0) with
  | .ok pa _ => leBytes 8 (leNat ((List.range 8).map fun i => s.homeByte w.ctx 0 noOld (pa + i)) + 1)
  | _ => w.bytes

/-- A function as a RAS entry names it: none for a peer or the device. -/
def HeldWrite.fn (w : HeldWrite) : Nat := if 256 ≤ w.origin then 0xFF else w.origin

/-- A write of a host function, a peer or the device itself, view 0 (11 R317, 12 R319, R334, 18 R390, R399): applied at the home, kept
waiting, or logged where its address does not translate. -/
def State.outsideWrite (s : State) (w : HeldWrite) : State :=
  if s.outsideLocked w then { s with hostHeld := s.hostHeld ++ [w] }
  else match s.store (systemAgent w.ctx) w.access none [] w.va (s.outsideBytes w) with
  | .done s1 => s1
  | .waits x => { s with hostHeld := s.hostHeld ++ [w] }.ask x
  | .failed v _ => s.rasLog { type := 4, unit := 1, die := 0, va := v, ctx := w.ctx, fn := w.fn }

/-- A write of the device itself, view 0; none where the address does not translate. -/
def State.putMem (s : State) (c va : Nat) (bytes : List Byte) : Option State :=
  let ok := (List.range (lineFuel bytes.length)).all fun i =>
    let a := if i = 0 then va else (va / 128 + i) * 128
    decide (va + bytes.length ≤ a) || (match translate s c a .none with | .ok _ _ => true | _ => false)
  if ok then some (s.outsideWrite { ctx := c, origin := 257, va := va, bytes := bytes }) else none

/-- The same, leaving the state unchanged where the address does not translate. -/
def State.putMem' (s : State) (c va : Nat) (bytes : List Byte) : State := (s.putMem c va bytes).getD s

/-- Bytes at an address of a context as a device write that still waits will leave them. -/
def HeldWrite.overlay (w : HeldWrite) (c va : Nat) (l : List Byte) : List Byte :=
  if w.ctx = c && w.origin = 257 && !w.add then
    l.zipIdx.map fun (b, i) => if w.va ≤ va + i && va + i < w.va + w.bytes.length then w.bytes.getD (va + i - w.va) b else b
  else l

/-- A read of the device itself, view 0, behind its own writes. -/
def State.getMem (s : State) (c va n : Nat) : Option (List Byte) :=
  match s.load (systemAgent c) .none va n with
  | .done b _ _ => some (s.hostHeld.foldl (fun l w => w.overlay c va l) b)
  | .failed _ _ => none

/-- A little-endian number in a context's memory; 0 where it does not translate. -/
def State.numAt (s : State) (c va n : Nat) : Nat := leNat ((s.getMem c va n).getD [])

/-! ### The fault queue (17 R381) -/

/-- What a fault record says beside its cause, epc and tval. -/
structure Record where
  freeze : Option Nat
  queue : Nat
  core : Nat
  die : Nat
  flags : Nat
  recordVa : Word
  deriving DecidableEq, Repr

/-- The 64 bytes of a fault record (17 R381). -/
def recordBytes (ptc : Nat) (cause epc tval : Word) (r : Record) : List Byte :=
  leBytes 8 cause.toNat ++ leBytes 8 epc.toNat ++ leBytes 8 tval.toNat ++ leBytes 8 ptc ++
  leBytes 8 (r.freeze.getD (2 ^ 64 - 1)) ++ leBytes 2 r.queue ++ leBytes 2 r.core ++ leBytes 1 r.die ++ leBytes 1 r.flags ++
  leBytes 2 0 ++ leBytes 8 r.recordVa.toNat ++ leBytes 8 0

/-- FAULT_RECORD_WRITE: the record, or a count of a dropped one; the host is notified (17 R381, 18 R391). -/
def State.faultRecord (s : State) (c : Nat) (cause epc tval : Word) (r : Record) : State :=
  let x := s.ctx c
  let w := s.numAt c x.fqBase 8
  let n := s.numAt c (x.fqBase + 8) 8
  let s1 :=
    if (w + 2 ^ 64 - n) % 2 ^ 64 = 2 ^ x.fqLog2n then
      s.putMem' c (x.fqBase + 16) (leBytes 8 (s.numAt c (x.fqBase + 16) 8 + 1))
    else
      (s.putMem' c (x.fqBase + 64 + 64 * (w % 2 ^ x.fqLog2n)) (recordBytes s.ptc cause epc tval r)).putMem' c x.fqBase (leBytes 8 (w + 1))
  s1.raiseVector c 0

/-! ### Task records (10 R277, R278) -/

/-- A field of a task's record. -/
def recField (m : SMap Byte) (o n : Nat) : Nat := leNat (takeBytes m o n)

/-- Positions of a die mask, lowest first. -/
def positions (mask : Nat) : List Nat := (List.range 12).filter fun p => mask.testBit p

/-- The shape of a record: position and cores of each logical die (10 R278). -/
def shapeOf (m : SMap Byte) : List (Nat × Nat) :=
  (positions (recField m 0x0C 2)).zipIdx.map fun (p, k) => (p, recField m 0x10 8 / 32 ^ k % 32)

/-- Cores of a record's shape. -/
def coresOf (m : SMap Byte) : Nat := (shapeOf m).foldl (fun n d => n + d.2) 0

/-- Logical die of logical core k. -/
def dieOfCore : List (Nat × Nat) → Nat → Nat → Nat
  | [], _, i => i
  | (_, n) :: l, k, i => if k < n then i else dieOfCore l (k - n) (i + 1)

/-- A record keeps R277 and R278, GANG and the addresses apart: those have reasons of their own in 10 R289. -/
def recordOk (m : SMap Byte) : Bool :=
  let n := (shapeOf m).length
  decide (recField m 0 8 % 4 = 0) && decide (recField m 0 8 < 2 ^ 56) && decide (recField m 0x0C 2 ≠ 0) &&
  decide (recField m 0x0C 2 < 4096) && decide (recField m 0x0E 1 < 4) && decide (recField m 0x0F 1 = 0) &&
  decide (recField m 0x10 8 < 32 ^ n) &&
  (shapeOf m).all (fun (p, c) => decide (1 ≤ c) && decide (c ≤ Config.enabledCores p))

/-- The GANG bit. -/
def isGang (m : SMap Byte) : Bool := (recField m 0x0E 1).testBit 0

/-! ### Queues (10 R275, R276, R282, R283) -/

/-- A queue. -/
def State.queue (s : State) (q : Nat) : Queue := SMap.get {} s.queues q
/-- Replaces a queue. -/
def State.setQueue (s : State) (q : Nat) (v : Queue) : State := { s with queues := SMap.put s.queues q v }
/-- The queue is full. -/
def Queue.full (q : Queue) : Bool := decide (q.subcount - q.claimcount = 2 ^ q.log2n)
/-- Virtual address of record n (counting from 1) in the ring. -/
def Queue.slot (q : Queue) (n : Nat) : Nat := q.base.toNat + 128 * ((n - 1) % 2 ^ q.log2n)
/-- Record n of a queue, as memory holds it; zeros where its slot does not translate (DESIGN CHOICE, notes/assumptions/63.md). -/
def State.recordAt (s : State) (q n : Nat) : SMap Byte :=
  putBytes [] 0 ((s.getMem (s.queue q).ctx ((s.queue q).slot n) 128).getD [])

/-- Appends a record as number SUBCOUNT + 1 (10 R276). -/
def State.append (s : State) (q : Nat) (record : List Byte) : State :=
  let v := s.queue q
  let s1 := s.putMem' v.ctx (v.slot (v.subcount + 1)) record
  s1.setQueue q { v with subcount := v.subcount + 1 }

/-- The head passes cancelled records (10 R276); `fuel` bounds them. -/
def passCancelled : Nat → Queue → Queue
  | 0, q => q
  | n + 1, q =>
    if q.claimcount < q.subcount && q.cancelled.contains (q.claimcount + 1) then
      passCancelled n { q with claimcount := q.claimcount + 1, cancelled := q.cancelled.filter (· != q.claimcount + 1) }
    else q

/-- A task of queue q has ended: DONECOUNT, and vector 1 where the NOTIFY bit is set (10 R276, 18 R389, R391). -/
def State.countDone (s : State) (q : Nat) : State :=
  let v := s.queue q
  let s1 := s.setQueue q { v with donecount := v.donecount + 1 }
  let f := SMap.get {} s.fns v.ctx
  if (SMap.get 0 f.notify (q / 8)).getLsbD (q % 8) then s1.raiseVector v.ctx 1 else s1

/-- LAUNCH (10 R283). -/
def execLaunch (d a b : Reg) (s : State) : Answer :=
  let A := s.rx a
  let q := s.rx b
  s.needLoose (.launch d a b) (
    if A.toNat % 128 ≠ 0 then s.raise 3 0 A
    else if 256 ≤ q.toNat then s.illegal q
    else
      let v := s.queue q.toNat
      if !v.enabled || decide (v.ctx ≠ s.task.ctx) then s.raise 5 6 q
      else s.afterFailed (
        if !s.storesDone then s.tryLater .stores
        else match s.readVa A.toNat 128 with
          | .error e => s.stopAt e
          | .ok (bytes, _, s1) =>
            let m := putBytes [] 0 bytes
            if !recordOk m || isGang m then s.illegal A
            else if v.full then (s1.wx d 0).finish 1
            else ((s1.append q.toNat bytes).wx d (BitVec.ofNat 64 (v.subcount + 1))).finish 1))

/-- The window of queue q exists for function fn (18 R388). -/
def State.windowOf (s : State) (fn q : Nat) : Bool := decide (q < 256) && decide ((s.queue q).ctx = fn)

/-- SUBMIT (10 R282): appends the staged record, or sets REFUSED. -/
def execSubmit (fn q : Nat) (s : State) : Answer :=
  let v := s.queue q
  .next (if !s.windowOf fn q then s
    else if !v.enabled || v.full then s.setQueue q { v with refused := true }
    else let s1 := s.append q (takeBytes v.window 0 128); s1.setQueue q { s1.queue q with refused := false })

/-- QUEUE_ENABLE (10 R276): the counts start at 0. -/
def execQueueEnable (q : Nat) (s : State) : Answer :=
  let v := s.queue q
  .next (if v.enabled then s
    else
      let s1 := s.setQueue q { v with enabled := true, subcount := 0, claimcount := 0, donecount := 0, cancelled := [], readyTick := none }
      { s1 with groups := s1.groups.map fun (g, w) => (g, if w.queue = q then { w with queue := 256 } else w) })

/-! ### Placements (10 R278, R285, 05 R164, 17 R384) -/

/-- Enabled physical cores of a die: spares take the places of retired cores while they last (17 R384). -/
def State.dieCores (s : State) (d : Nat) : List Nat :=
  (((List.range (Config.enabledCores d + Config.spareCores d)).filter fun c => !(s.die d).retiredCores.contains c)).take (Config.enabledCores d)

/-- Physical cores held by tasks: (die, core). -/
def State.heldCores (s : State) : List (Nat × Nat) :=
  s.tasks.flatMap fun (_, t) => t.places.map fun (_, l, c) => (SMap.get l t.dies l, c)

/-- Extends a choice of physical dies to the rest of a shape (05 R164): classes, distances and free cores kept; `ok` says
whether a logical die may stand on a physical one. -/
def extendPlacement (free : Nat → Nat) (ok : Nat → Nat → Bool) : List (Nat × Nat) → List (Nat × Nat) → List (List Nat)
  | [], chosen => [chosen.map (·.2)]
  | (p, n) :: rest, chosen =>
    (List.range Config.numDies).flatMap fun d =>
      if Config.isBX p == Config.isBX d && decide (n ≤ free d) && ok chosen.length d &&
          chosen.all (fun (p', d') => decide (d' ≠ d) && decide (Config.distance p p' = Config.distance d d'))
      then extendPlacement free ok rest (chosen ++ [(p, d)]) else []

/-- Every placement of a shape on cores that `held` leaves. -/
def State.placements (s : State) (held : List (Nat × Nat)) (ok : Nat → Nat → Bool) (shape : List (Nat × Nat)) : List (List Nat) :=
  extendPlacement (fun d => ((s.dieCores d).filter fun c => !held.contains (d, c)).length) ok shape []

/-- The physical cores of a placement: (logical die, core) by logical core, and the cores taken. -/
def State.assign (s : State) (held : List (Nat × Nat)) : List (Nat × Nat) → Nat → Nat → SMap (Nat × Nat)
  | [], _, _ => []
  | (d, n) :: rest, l, k =>
    let cores := ((s.dieCores d).filter fun c => !held.contains (d, c)).take n
    (cores.zipIdx.map fun (c, i) => (k + i, (l, c))) ++ s.assign held rest (l + 1) (k + n)

/-- A placement, chosen freely among the valid ones (10 R288, DESIGN CHOICE, notes/assumptions/7.md): dies and places. -/
def State.place (s : State) (held : List (Nat × Nat)) (shape : List (Nat × Nat)) : Option (SMap Nat × SMap (Nat × Nat)) :=
  let l := s.placements held (fun _ _ => true) shape
  match l[Config.choose s.fresh % l.length]? with
  | none => none
  | some dies =>
    some (dies.zipIdx.map (fun (d, i) => (i, d)), s.assign held (dies.zip (shape.map (·.2))) 0 0)

/-- Placements of several tasks at once on disjoint cores (10 R291): shapes, with the copy engines that a saved region needs
on each logical die for itself alone (06 R409, DEDUCED, notes/assumptions/45.md); `used` counts those taken so far, `pick` says with which
placement the search begins (DESIGN CHOICE, notes/assumptions/7.md). -/
def State.placeAll (s : State) (pick : Nat) : List (List (Nat × Nat) × SMap Nat) → List (Nat × Nat) → (Nat → Nat) →
    Option (List (SMap Nat × SMap (Nat × Nat)))
  | [], _, _ => some []
  | (shape, engines) :: rest, held, used =>
    let ok := fun l d => SMap.get 0 engines l == 0 || decide (used d + SMap.get 0 engines l ≤ (s.freeEngines d).length)
    ((s.placements held ok shape).rotateLeft pick).findSome? fun dies =>
      let places := s.assign held (dies.zip (shape.map (·.2))) 0 0
      let taken := places.map fun (_, l, c) => (dies.getD l 0, c)
      let used' := fun d => used d + dies.zipIdx.foldl (fun n (x, l) => if x = d then n + SMap.get 0 engines l else n) 0
      (s.placeAll pick rest (held ++ taken) used').map fun more => (dies.zipIdx.map (fun (d, i) => (i, d)), places) :: more

/-- What a saved task needs of its placement. -/
def Task.needs (t : Task) : List (Nat × Nat) × SMap Nat := (shapeOf t.record, if t.region.active then t.region.engines else [])

/-! ### Heads (10 R280, R289) -/

/-- A gate counter's value, where its address is good (10 R280). -/
def State.gate (s : State) (c a : Nat) : Option Nat :=
  match translate s c a .none with
  | .ok pa attr => if a % 8 = 0 && Config.deviceStorage pa && decide (attrPolicy attr = 0) then some (s.numAt c a 8) else none
  | _ => none

/-- One gate is satisfied. -/
def State.gateOpen (s : State) (c a thr : Nat) : Bool := a == 0 || (match s.gate c a with | some v => decide (thr ≤ v) | none => false)

/-- The head of a queue: its submission number. -/
def Queue.head (q : Queue) : Option Nat := if q.enabled && decide (q.claimcount < q.subcount) then some (q.claimcount + 1) else none

/-- The group whose members' records are numbers of this queue (13 R341), with the member's index. -/
def State.groupOf (s : State) (q n : Nat) : Option (Nat × Nat) :=
  s.groups.findSome? fun (g, v) =>
    if v.queue = q && decide (v.firstSub ≤ n) && decide (n < v.firstSub + v.members.length) then some (g, n - v.firstSub) else none

/-- Why the head of queue q is refused at claim (10 R289). Of several reasons the first of 1, 5, 2, 3, 4 is taken, and a slot that does
not translate reads as zeros, a record of reason 1 (R289 is silent on both; DESIGN CHOICE, notes/assumptions/63.md). -/
def State.refusal (s : State) (q n : Nat) : Option Nat :=
  let m := s.recordAt q n
  let c := (s.queue q).ctx
  let bad := fun (o : Nat) => decide (recField m o 8 ≠ 0) && (s.gate c (recField m o 8)).isNone
  if !recordOk m then some 1
  else if isGang m && (s.groupOf q n).isNone then some 5
  else if (s.placements [] (fun _ _ => true) (shapeOf m)).isEmpty then some 2
  else if bad 0x18 || bad 0x28 || bad 0x38 then some 3
  else if (s.ctx c).saveStride < 0x10000 + coresOf m * 0x2400000 then some 4
  else none

/-- The head is ready: both gates are satisfied (10 R280) (DESIGN CHOICE, notes/assumptions/43.md). -/
def State.headReady (s : State) (q n : Nat) : Bool :=
  let m := s.recordAt q n
  let c := (s.queue q).ctx
  s.gateOpen c (recField m 0x18 8) (recField m 0x20 8) && s.gateOpen c (recField m 0x28 8) (recField m 0x30 8)

/-- A free task block of a context. -/
def State.freeBlock (s : State) (c : Nat) : Option Nat :=
  (List.range (s.ctx c).saveCount).find? fun k => !(s.ctx c).held.contains k

/-- Address of task block k. -/
def State.blockVa (s : State) (c k : Nat) : Nat := (s.ctx c).saveBase + k * (s.ctx c).saveStride

/-- The numbers claimed with head n: a gang's members together (10 R291). -/
def State.together (s : State) (q n : Nat) : List Nat :=
  match (if isGang (s.recordAt q n) then s.groupOf q n else none) with
  | some (g, i) =>
    let v := SMap.get {} s.groups g
    (List.range (v.members.length - i)).map (n + ·) |>.filter fun k => !(s.queue q).cancelled.contains k
  | none => [n]

/-! ### The distributor (10 R285 to R288) -/

/-- A candidate: a queue's head, or saved tasks; its queue, its effective priority, and when it was saved. -/
structure Cand where
  queue : Nat
  prio : Nat
  saved : Option (Nat × List Nat)
  deriving DecidableEq, Repr

/-- The effective priority (10 R287). -/
def State.effective (s : State) (base waited : Nat) : Nat := min 7 (if s.aging = 0 then base else base + waited / s.aging)

/-- A saved task may be restored: it does not wait for a group that has not resolved (13 R344). -/
def State.restorable (s : State) (t : Task) : Bool :=
  decide (t.state = .saved) && (match t.wait with
    | .group g true => decide ((SMap.get {} s.groups g).state ≠ 1)
    | _ => true)

/-- The unended tasks of the gang that a task belongs to, or the task alone (10 R291). -/
def State.gangOf (s : State) (i : Nat) : List Nat :=
  let t := SMap.get {} s.tasks i
  match (if isGang t.record then t.group else none) with
  | some (g, _) => (s.tasks.filter fun (_, u) => (u.group.map (·.1)) == some g).map (·.1)
  | none => [i]

/-- Eligible candidates (10 R285). -/
def State.candidates (s : State) : List Cand :=
  (s.tasks.filterMap fun (i, t) =>
    let l := s.gangOf i
    if l.head? == some i && l.all (fun j => s.restorable (SMap.get {} s.tasks j)) &&
        (s.placeAll 0 (l.map fun j => (SMap.get {} s.tasks j).needs) s.heldCores fun _ => 0).isSome then
      some ⟨t.queue, s.effective t.prio (s.ptc - t.saveAt), some (t.saveAt, l)⟩ else none) ++
  (s.queues.filterMap fun (q, _) =>
    let v := s.queue q
    match v.head with
    | none => none
    | some n =>
      let l := s.together q n
      if (s.refusal q n).isNone && l.all (fun k => s.headReady q k) &&
          decide (l.length ≤ ((List.range (s.ctx v.ctx).saveCount).filter fun k => !(s.ctx v.ctx).held.contains k).length) &&
          (s.placeAll 0 (l.map fun k => (shapeOf (s.recordAt q k), [])) s.heldCores fun _ => 0).isSome then
        some ⟨q, s.effective v.prio (s.ptc - max (v.readyTick.getD s.ptc) v.lastClaim), none⟩ else none)

/-- Distance of a queue from the rotating pointer. -/
def State.turns (s : State) (q : Nat) : Nat := (q + 256 - s.pointer) % 256

/-- One candidate goes before another (10 R286). -/
def State.goesFirst (s : State) (a b : Cand) : Bool :=
  if a.prio ≠ b.prio then decide (b.prio < a.prio)
  else if a.queue ≠ b.queue then decide (s.turns a.queue < s.turns b.queue)
  else match a.saved, b.saved with
    | some (x, _), some (y, _) => decide (x < y)
    | some _, none => true
    | none, _ => false

/-- The candidate that a selection takes (10 R286). -/
def State.selected (s : State) : Option Cand :=
  match s.candidates with
  | [] => none
  | c :: rest => some (rest.foldl (fun a b => if s.goesFirst b a then b else a) c)

/-- Claims record n of queue q into a new task (10 R288): block, record copy and claim priority; its placement. -/
def State.claim (s : State) (q n prio : Nat) (at' : SMap Nat × SMap (Nat × Nat)) : State :=
  let v := s.queue q
  let c := v.ctx
  let m := s.recordAt q n
  let k := (s.freeBlock c).getD 0
  let va := s.blockVa c k
  let id := s.nextTask
  let member := s.groupOf q n
  let g := SMap.get {} s.groups ((member.map (·.1)).getD 0)
  let t : Task := {
    queue := q, subnum := n, ctx := c, prio := prio, state := .bound, record := m, recordVa := BitVec.ofNat 64 va
    dies := at'.1, places := at'.2, ncores := coresOf m, budget := recField m 8 4, saveBlock := some k, noted := 1, group := member
    viewId := match member with | some (_, i) => g.view0 + i | none => 0
    viewBase := if member.isSome then recField g.record 0x28 8 else 0
    viewLen := if member.isSome then recField g.record 0x30 8 else 0 }
  let s1 := s.setQueue q (passCancelled (v.subcount + 1) { v with claimcount := n, lastClaim := s.ptc, readyTick := none })
  let s2 := (s1.setCtx c { s1.ctx c with held := k :: (s1.ctx c).held }).putMem' c va
    (takeBytes m 0 128 ++ leBytes 2 q ++ leBytes 1 prio ++ leBytes 1 1 ++ leBytes 4 0 ++ leBytes 8 (2 ^ 64 - 1) ++ leBytes 8 0 ++ leBytes 8 0 ++
     List.replicate 0xFF60 0)
  { s2 with tasks := SMap.put s2.tasks id t, nextTask := id + 1 }

/-- SELECTION (10 R286, R288, R291). -/
def execSelection (s : State) : Answer :=
  match s.selected with
  | none => .next s
  | some c =>
    let s0 : State := { s with pointer := (c.queue + 1) % 256, nextSelect := s.ptc + 1 + Config.delay s.fresh % 4096, fresh := s.fresh + 1 }
    match c.saved with
    | some (_, l) =>
      match s.placeAll (Config.choose s.fresh) (l.map fun j => (SMap.get {} s.tasks j).needs) s.heldCores (fun _ => 0) with
      | none => .next s
      | some ps =>
        let s1 := (l.zip ps).foldl (fun s (j, p) =>
          { s with tasks := SMap.put s.tasks j { SMap.get {} s.tasks j with dies := p.1, places := p.2 } }) s0
        .next { s1 with turn := (l.map fun j => (({ task := j } : Focus), Turn.event .restoreBind)) ++ s1.turn }
    | none =>
      match (s.queue c.queue).head with
      | none => .next s
      | some n =>
        let l := s.together c.queue n
        let ps := if l.length = 1 then (s.place s.heldCores (shapeOf (s.recordAt c.queue n))).toList.map fun p => [p]
          else (s.placeAll (Config.choose s.fresh) (l.map fun k => (shapeOf (s.recordAt c.queue k), [])) s.heldCores fun _ => 0).toList
        match ps.head? with
        | none => .next s
        | some ps =>
          let s1 := (l.zip ps).foldl (fun s (k, p) => s.claim c.queue k c.prio p) s0
          .next { s1 with turn := ((List.range l.length).map fun i => (({ task := s.nextTask + i } : Focus), Turn.event .taskBind)) ++ s1.turn }

/-- A core at task start (10 R279). -/
def Core.fresh (args : List Word) (record : Word) (lead : Bool) (entry : Word) : Core :=
  { x := Vector.ofFn fun i =>
      if lead then (if i.val = 3 then record else if 10 ≤ i.val ∧ i.val ≤ 17 then args.getD (i.val - 10) 0 else 0) else 0
    pc := if lead then entry else 0 }

/-- A sibling's lead core (13 R342): the parent's at the FORK event, with its index and its record. -/
def Core.sibling (parent : Core) (d : Reg) (i : Nat) (record entry : Word) : Core :=
  let c : Core := { x := parent.x, pc := entry, loops := parent.loops, active := parent.active, tvec := parent.tvec, psig := parent.psig,
                    scratch := parent.scratch, scratchPoison := parent.scratchPoison }
  let c1 := c.wx d (BitVec.ofNat 64 i)
  c1.wx 3 record

/-- The placement at which the claimed task in focus can be bound: its own while all its cores stand, else one that can be
made now (10 R288). -/
def State.bindPlace (s : State) : Option (SMap Nat × SMap (Nat × Nat)) :=
  let t := s.task
  if !t.places.isEmpty && t.places.all (fun (_, l, c) => (s.dieCores (SMap.get l t.dies l)).contains c) then some (t.dies, t.places)
  else s.place ({ s with tasks := SMap.del s.tasks s.cur.task }).heldCores (shapeOf t.record)

/-- TASK_BIND (10 R279, R288, 13 R342): the cores of the placement are set, and the lead core may issue. -/
def execTaskBind (s : State) : Answer :=
  let t := s.task
  if t.state ≠ .bound then .next s
  else
    match s.bindPlace with
    | none => .next s
    | some (dies, places) =>
      let entry := BitVec.ofNat 64 (recField t.record 0 8)
      let args := (List.range 8).map fun i => BitVec.ofNat 64 (recField t.record (0x40 + 8 * i) 8)
      let lead := match t.group with
        | some (g, i) => let v := SMap.get {} s.groups g; Core.sibling v.core0 v.dest i t.recordVa entry
        | none => Core.fresh args t.recordVa true entry
      let cores := (List.range t.ncores).map fun k => (k, if k = 0 then lead else Core.fresh [] 0 false 0)
      let s1 := s.setTask { t with state := .running, noted := 2, dies := dies, places := places,
                                   cores := cores.map fun (k, c) => (k, { c with nextIssue := s.ptc + 1 }) }
      .next (s1.putMem' t.ctx (t.recordVa.toNat + 0x83) (leBytes 1 2))

/-- Notes how the task of a group's member ended, for the group unit (13 R347). -/
def State.noteEnding (s : State) (g i : Nat) (e : EndKind) : State :=
  let v := SMap.get {} s.groups g
  let l := v.members.zipIdx.map fun (m, j) => if j = i then { m with ending := some e } else m
  if SMap.has s.groups g then { s with groups := SMap.put s.groups g { v with members := l } } else s

/-- TASK_REFUSED (10 R289, 17 R381): the record is claimed at once, and its task is faulted. -/
def execTaskRefused (q reason : Nat) (s : State) : Answer :=
  let v := s.queue q
  match v.head with
  | none => .next s
  | some n =>
    let s1 := s.setQueue q (passCancelled (v.subcount + 1) { v with claimcount := n, lastClaim := s.ptc, readyTick := none })
    let s2 := s1.faultRecord v.ctx (causeWord 0x13 reason) (BitVec.allOnes 64) (BitVec.ofNat 64 (v.slot n))
      { freeze := none, queue := q, core := 0, die := 0, flags := 0, recordVa := 0 }
    let s3 := s2.countDone q
    .next (match s.groupOf q n with
      | some (g, i) => { s3.noteEnding g i .faulted with turn := (s3.cur, .event (.groupMemberEnd g i)) :: s3.turn }
      | none => s3)

/-! ### The state that a task block names (10 R292, R295) -/

/-- The number of a task's state in its block. -/
def Task.stateCode (t : Task) : Nat :=
  match t.state with
  | .bound => 1
  | .running => if t.region.active || t.region.entering then 3 else 2
  | .freezing => 4
  | .saved => 5
  | .restoring => 3
  | .ending .retired => 6
  | .ending .faulted => 7
  | .ending .cancelled => 8
  | .gone => 0

/-- The state byte of the block follows the task's state (DEDUCED, notes/assumptions/35.md). -/
def phaseNoteState (s : State) : State :=
  let t := s.task
  let s1 := s.setTask { t with noted := t.stateCode }
  if t.saveBlock.isSome then s1.putMem' t.ctx (t.recordVa.toNat + 0x83) (leBytes 1 t.stateCode) else s1

/-! ### Ends of tasks (10 R281, R297, 17 R379) -/

/-- RETIRE (03 R114). -/
def execRetire (s : State) : Answer :=
  s.needLoose .retire (s.afterFailed (
    if !s.storesDone then s.tryLater .stores
    else
      let s1 := (s.setCore { s.core with loads := [] }).count 1 1
      let s2 := s1.setTask { s1.task with state := .ending .retired, wait := .none }
      { s2 with turn := (s.cur, .phase .noteState) :: (s.cur, .event (.taskEndSignal s.cur.task)) :: s2.turn }))

/-- A core of a task that is being stopped: STQs and AMOs that have begun to perform go on, the rest is discarded (10 R297). -/
def Core.stopped (c : Core) : Core :=
  { c.leave with loads := c.loads.filter (fun e => e.cls == 4 && e.sent.isSome), stores := c.stores.filter fun e => !e.isMark && e.sent.isSome,
                 exited := true }

/-- What a faulting or cancelled task discards, and a fault's record (10 R297, 17 R379, R381). -/
def phaseTaskEnd (s : State) : State :=
  let t := s.task
  let s0 := (if t.region.active then s.tellPeers .slideTimeout else s.leaveJoin).setTask
    { t with cores := t.cores.map fun (k, c) => (k, c.stopped), region := {}, wait := .none, fault := none, failed := none }
  let s1 : State := { s0.releaseAll with history := s.history.filter fun h => h.task != s.cur.task }
  match t.fault with
  | none => s1
  | some f =>
    let flags := (if f.timed then 1 else 0) + (if f.multi then 2 else 0) + (if f.handler then 4 else 0)
    (if f.timed && decide (f.cause.toNat / 256 = 0x0C) then s1.logPoison (f.cause.toNat % 256) f.tval else s1).faultRecord t.ctx f.cause f.epc f.tval
      { freeze := f.freeze, queue := t.queue, core := s.logical f.core, die := s.dieOf f.core, flags := flags, recordVa := t.recordVa }

/-- A report or cancellation that a task has sent and the group unit has not applied is taken back, and the checks of a FORK that waits
(10 R298). -/
def State.withdraw (s : State) (i : Nat) : State :=
  let t := SMap.get {} s.tasks i
  let quiet := SMap.put s.tasks i { t with wait := .none }
  match t.wait, t.group with
  | .report, some (g, m) =>
    let v := SMap.get {} s.groups g
    if v.reports.any (fun r => r.1 == m) then
      { s with groups := SMap.put s.groups g { v with reports := v.reports.filter fun r => r.1 != m }, tasks := quiet }
    else s
  | .cancel, _ =>
    if t.answer.isNone then
      { s with groups := s.groups.map (fun (g, v) => (g, { v with cancels := v.cancels.filter fun c => c.1 != i })), tasks := quiet }
    else s
  | .fork _ _, _ => { s with tasks := quiet }
  | _, _ => s

/-- A cancellation reaches a task (10 R297): a running region stops as for a pre-emption, any other task at once. -/
def State.cancelTask (s : State) (i : Nat) : State :=
  let s := s.withdraw i
  let t := SMap.get {} s.tasks i
  let stop : State := { s with tasks := SMap.put s.tasks i { t with state := .ending .cancelled, fault := none }
                               turn := s.turn ++ [(({ task := i } : Focus), .phase .taskEnd)] }
  match t.state with
  | .ending _ => s
  | .gone => s
  | .running =>
    if t.region.active && t.region.freeze.isNone then
      { s with tasks := SMap.put s.tasks i { t with region := t.region.stopFor .cancel (t.region.rt + t.region.ahead) } }
    else stop
  | _ => stop

/-- The signal of a task's end (10 R281): the atomic add, or the record of its failure. A misaligned address, which only a
record that no claim has checked can hold, takes no add (DESIGN CHOICE, notes/assumptions/59.md). -/
def State.signal (s : State) (t : Task) : State :=
  let a := recField t.record 0x38 8
  if a % 8 ≠ 0 then s
  else match translate s t.ctx a .amo with
  | .ok _ _ => s.outsideWrite { ctx := t.ctx, origin := 257, va := a, bytes := leBytes 8 0, add := true }
  | f =>
    s.faultRecord t.ctx (causeWord (trCause f).1 (trCause f).2) (BitVec.allOnes 64) (BitVec.ofNat 64 a)
      { freeze := none, queue := t.queue, core := 0, die := 0, flags := 8, recordVa := t.recordVa }

/-- TASK_END_SIGNAL (10 R281): signal, count, release, in this order. -/
def execTaskEndSignal (i : Nat) (s : State) : Answer :=
  let t := SMap.get {} s.tasks i
  match t.state with
  | .ending e =>
    if t.cores.any (fun (_, c) => c.stores.any fun x => !x.isMark) then .next s
    else
      let wants := decide (recField t.record 0x38 8 ≠ 0) && (decide (e = .retired) || (recField t.record 0x0E 1).testBit 1)
      let s1 := (if wants then s.signal t else s).countDone t.queue
      let x := s1.ctx t.ctx
      let s2 := s1.setCtx t.ctx { x with held := match t.saveBlock with | some k => x.held.filter (· != k) | none => x.held }
      let s3 : State := { s2 with tasks := SMap.del s2.tasks i }
      .next (match t.group with
        | some (g, m) =>
          let s4 := s3.noteEnding g m e
          { s4 with turn := (s4.cur, .event (.groupMemberEnd g m)) :: s4.turn }
        | none => s3)
  | _ => .next s

/-- The head passes cancelled records, and the wait of the head that it passes is over (10 R276, R287). -/
def Queue.pass (v : Queue) : Queue :=
  let w := passCancelled (v.subcount + 1) v
  { w with readyTick := if w.claimcount = v.claimcount then w.readyTick else none }

/-- Cancels a queued record (10 R281, R297): marked, its signal where SIGALL is set, counted, passed at once at the head. -/
def State.cancelRecord (s : State) (q n : Nat) : State :=
  let v := s.queue q
  if n ≤ v.claimcount || v.subcount < n || v.cancelled.contains n then s
  else
    let m := s.recordAt q n
    let s0 := if (recField m 0x0E 1).testBit 1 && decide (recField m 0x38 8 ≠ 0) then
        s.signal { queue := q, subnum := n, ctx := v.ctx, record := m } else s
    let s1 := s0.setQueue q { s0.queue q with cancelled := v.cancelled ++ [n] }
    let s2 := s1.countDone q
    let s3 := s2.setQueue q (s2.queue q).pass
    match s.groupOf q n with
    | some (g, i) =>
      let s4 := s3.noteEnding g i .cancelled
      { s4 with turn := s4.turn ++ [(s4.cur, .event (.groupMemberEnd g i))] }
    | none => s3

/-- Every queued record of a queue. -/
def State.cancelRecords (s : State) (q : Nat) : State :=
  (List.range ((s.queue q).subcount - (s.queue q).claimcount)).foldl (fun s' i => s'.cancelRecord q ((s.queue q).claimcount + 1 + i)) s

/-- CANCEL_QUEUED (10 R282): a write of 1 to CANCEL. -/
def execCancelQueued (fn q : Nat) (s : State) : Answer := .next (if s.windowOf fn q then s.cancelRecords q else s)
/-- CANCEL_ALL (10 R282): a write of 2 to CANCEL. -/
def execCancelAll (fn q : Nat) (s : State) : Answer :=
  .next (if s.windowOf fn q then
      let s1 := s.cancelRecords q
      (s1.tasks.filter fun (_, t) => t.queue == q).foldl (fun s (i, _) => s.cancelTask i) s1
    else s)

/-! ### Budgets, pre-emption, save and restore (10 R293 to R298) -/

/-- TASK_BUDGET_EXPIRY (10 R293): a request to a region takes the freeze cycle that 05 R182 chooses, which in a region that
stands frozen is its own; a region that is loading takes it at cycle 0 (10 R292, R298). -/
def execTaskBudgetExpiry (s : State) : Answer :=
  let t := s.task
  let r := t.region
  .next (if r.active && r.freeze.isSome then
      (s.at' 0).faultTask ⟨causeWord 7 2, BitVec.allOnes 64, t.recordVa, some r.rt, 0, true, false, (s.coreAt 0).handler⟩
    else if r.active || (r.entering && r.joinSince.isNone) then
      s.setRegion { r with budgetAt := some (r.budgetAt.getD (r.rt + r.ahead)) }
    else (s.at' 0).faultTask ⟨causeWord 7 2, (s.coreAt 0).pc, t.recordVa, none, 0, false, false, (s.coreAt 0).handler⟩)

/-- A pre-emption reaches one task (10 R294, R298, 05 R182). A region that stands frozen in a slide is saved at its cycle, once that
cycle's traps have been tried (05 R175); one before the resume tick of a restore is saved again as it stands; a region that is loading stops as if the request reached it at cycle 0; an RGENTER
that waits for other members counts as not issued. -/
def State.preemptTask (s : State) (i : Nat) : State :=
  let s := s.withdraw i
  let t := SMap.get {} s.tasks i
  let r := t.region
  let put := fun (t : Task) => ({ s with tasks := SMap.put s.tasks i t } : State)
  let save := fun (r : Region) =>
    ({ put { t with region := r, state := .freezing, saveAt := s.later } with fresh := s.fresh + 1 } : State)
  let stop := fun (c : Nat) =>
    { ({ put { t with region := r.stopFor .preempt c } with cur := { task := i } } : State).tellPeers (.regionFreeze ⟨.preempt, c, none⟩) with cur := s.cur }
  match t.state, r.freeze with
  | .restoring, some f => save { r with freeze := some { f with why := .preempt, resume := none } }
  | .running, freeze =>
    if r.entering && r.joinSince.isNone then stop r.ahead
    else if r.active then stop (if freeze.isSome then r.rt else r.rt + r.ahead)
    else if r.joinSince.isSome then
      let s1 := { ({ s with cur := { task := i } } : State).leaveJoin.releaseAll with cur := s.cur }
      { s1 with tasks := SMap.put s1.tasks i { SMap.get ({} : Task) s1.tasks i with region := {}, state := .freezing, saveAt := s.later }, fresh := s.fresh + 1 }
    else save {}
  | _, _ => s

/-- PREEMPTION_REQUEST (10 R291, R294): a gang as a whole. -/
def execPreemptionRequest (i : Nat) (s : State) : Answer :=
  .next ((s.gangOf i).foldl (fun s j => s.preemptTask j) s)

/-- The bytes of a link's states, two bits each (07 R226). -/
def linkStates (l : Link) : List Byte :=
  (List.range 1024).map fun i =>
    (List.range 4).foldl (fun b k => b ||| ((SMap.get 0 l.states (4 * i + k)).setWidth 8 <<< (2 * k))) 0

/-- The width in bytes of an element of a partial of B bytes (07 R232). -/
def partialWidth (p : Partial) : Nat := if p.size = 8 then 8 else p.size / 4096

/-- The bytes of a partial, as the incoming buffer or the sent bytes of a slot hold it (07 R226, R232). -/
def partialBytes (p : Partial) : List Byte :=
  if p.x64 then ((List.range 4096).flatMap fun e => leBytes 8 (SMap.get 0 p.elems e).toNat) ++ linkStates { states := p.states }
  else (List.range (p.size / partialWidth p)).flatMap fun e =>
    let v := dp (SMap.get 0 p.elems e)
    leBytes (partialWidth p) (match partialWidth p with
      | 8 => (SMap.get 0 p.elems e).toNat
      | 4 => f32.rne v
      | 2 => fbf.rne v
      | _ => e4m3.encode false true (v.scale (-p.scale)))

/-- Elements that a run of bytes holds, 8 bytes each. -/
def elemsOf (b : List Byte) : SMap (BitVec 64) :=
  b.zipIdx.foldl (fun m (x, i) => SMap.set 0 m (i / 8) (SMap.get 0 m (i / 8) ||| (x.setWidth 64 <<< (8 * (i % 8))))) []

/-- Link states that a run of bytes holds, two bits each. -/
def statesOf (b : List Byte) : SMap (BitVec 2) :=
  b.zipIdx.foldl (fun m (x, i) => (List.range 4).foldl (fun m k => SMap.set 0 m (4 * i + k) ((x >>> (2 * k)).setWidth 2)) m) []

/-- A partial whose bytes have been read back. -/
def partialOf (p : Partial) (b : List Byte) : Partial :=
  if p.x64 then { p with elems := elemsOf (b.take 32768), states := statesOf (b.drop 32768) }
  else { p with elems := (List.range (p.size / partialWidth p)).foldl (fun m e =>
    let n := leNat ((b.drop (partialWidth p * e)).take (partialWidth p))
    SMap.set 0 m e (match partialWidth p with
      | 8 => BitVec.ofNat 64 n
      | 4 => rne64 (f32.decode n)
      | 2 => rne64 (fbf.decode n)
      | _ => rne64 ((e4m3.decode n).scale p.scale))) [] }

/-- The first 128 bytes of a device-form part of a core's block: part 0 of the CP, 1 of engines and grid, 2 + n of link slot n (10 R295;
DESIGN CHOICE, notes/assumptions/22.md). -/
def formBytes (k : Core) (part : Nat) : List Byte := (List.range 128).map fun i => deviceForm k (128 * part + i)

/-- A buffer of a slot: its bytes, then zeros. -/
def bufferBytes (p : Option Partial) : List Byte :=
  let b := (p.map partialBytes).getD []
  b ++ List.replicate (33792 - b.length) 0

/-- What a save writes of link slot n (10 R295, 07 R250): elements and states where the slot is live, the rest always. -/
def State.saveLink (s : State) (c va : Nat) (l : Link) (live : Bool) (form : List Byte) : State :=
  let s1 := if live then
      (s.putMem' c va ((List.range 4096).flatMap fun e => leBytes 8 (SMap.get 0 l.elems e).toNat)).putMem' c (va + 0x8000) (linkStates l)
    else s
  let s2 := (s1.putMem' c (va + 0x8400) (bufferBytes l.incoming)).putMem' c (va + 0x10800) (bufferBytes l.sent)
  s2.putMem' c (va + 0x18C00) form

/-- What a save writes into a core's block (10 R295). -/
def State.saveCore (s : State) (c va : Nat) (k : Core) (timed : Bool) (live : BitVec 256) : State :=
  let s1 := s.putMem' c va ((k.x.toList.flatMap fun w => leBytes 8 w.toNat) ++ leBytes 8 k.pc.toNat ++ formBytes k 0)
  let s2 := (s1.putMem' c (va + 0x40000) (formBytes k 1)).putMem' c (va + 0x80000) (takeBytes k.code 0 Config.codeBytes)
  let s3 := s2.putMem' c (va + 0x100000) (takeBytes k.scratch 0 Config.scratchBytes)
  if !timed then s3
  else (List.range 256).foldl (fun s n => s.saveLink c (va + 0x400000 + n * 0x20000) (k.link n) (live.getLsbD n) (formBytes k (2 + n))) s3

/-- A restored link slot (10 R295, 07 R250): a slot that is not live comes back with its elements and states zero. -/
def State.restoreLink (s : State) (c va : Nat) (l : Link) (live : Bool) : Link :=
  let read := fun (o n : Nat) => (s.getMem c (va + o) n).getD []
  { l with
    elems := if live then elemsOf (read 0 0x8000) else []
    states := if live then statesOf (read 0x8000 0x400) else []
    incoming := l.incoming.map fun p => partialOf p (read 0x8400 33792)
    sent := l.sent.map fun p => partialOf p (read 0x10800 33792) }

/-- What a core's device-form parts stand for at a restore: the core as it was saved while they hold what the save wrote (10 R295). -/
def State.savedForm (s : State) (c va : Nat) (k : Core) (timed : Bool) : Core :=
  let part := fun (o : Nat) => (s.getMem c (va + o) 128).getD []
  let links := if timed then (List.range 256).map fun n => part (0x400000 + n * 0x20000 + 0x18C00) else []
  let want := if timed then (List.range 256).map fun n => formBytes k (2 + n) else []
  if part 0x208 = formBytes k 0 && part 0x40000 = formBytes k 1 && links = want then k
  else (deviceCore (part 0x208 ++ part 0x40000 ++ links.flatten)).getD {}

/-- Whether an item that had not landed at a save is late is decided again at the restore (05 R173, R183): free, for one whose check
falls at or before the freeze cycle. -/
def State.lateAgain (s : State) (due seed : Nat) : Nat :=
  if decide (s.rt < due) && decide (due ≤ s.rt + s.region.ahead) && Config.freeBool seed then 1 else 0

/-- A restored core: what the block holds in readable form, the rest as its device form stands for (10 R295, R296, 07 R250). Requests
that had not landed are translated and sent again (03 R122, R123). -/
def State.restoreCore (s : State) (g : Agent) (va : Nat) (saved : Core) (timed : Bool) (live : BitVec 256) : Core :=
  let c := g.ctx
  let k := s.savedForm c va saved timed
  let again := fun (tr : Option (Nat × Nat)) (a : Nat) (w : Access) => match tr, translate s c a w with
    | some _, .ok pa attr => some (pa, attr)
    | _, _ => if timed then none else tr
  { k with
    x := Vector.ofFn fun i => if i.val = 0 then 0 else BitVec.ofNat 64 (s.numAt c (va + 8 * i.val) 8)
    pc := BitVec.ofNat 64 (s.numAt c (va + 0x200) 8) &&& ~~~3
    code := putBytes [] 0 ((s.getMem c (va + 0x80000) Config.codeBytes).getD [])
    scratch := putBytes [] 0 ((s.getMem c (va + 0x100000) Config.scratchBytes).getD [])
    loads := k.loads.map fun e =>
      if e.landed then e
      else { e with sent := none, value := none, hash := none, at' := s.later
                    late := s.lateAgain (e.perform.getD e.earliest) (s.fresh + e.seq), tr := again e.tr e.va.toNat (if e.cls = 4 then .amo else .read) }
    stores := k.stores.map fun e =>
      if e.isMark then e
      else { e with sent := none, hash := none, heldSince := none, at' := s.later, tr := again e.tr e.va.toNat e.access }
    ranges := k.ranges.map fun e =>
      { e with sent := none, heldSince := none, hash := none, at' := s.later
               pages := match (rangePages e.va.toNat e.len).mapM fun p => (again (e.pages.head?.map (·.2)) p e.access).map fun t => (p, t) with
                 | some l => l
                 | none => if timed then [] else e.pages }
    links := if timed then ((List.range 256).filter fun n => SMap.has k.links n || live.getLsbD n).map fun n =>
        (n, s.restoreLink c (va + 0x400000 + n * 0x20000) (k.link n) (live.getLsbD n))
      else k.links }

/-- Every unended member of a group stands saved (13 R347). -/
def State.gangSaved (s : State) (g : Nat) : Bool :=
  let live := (SMap.get {} s.groups g).members.zipIdx.filter fun (m, _) => !m.ended
  !live.isEmpty && live.all fun (_, i) => s.tasks.any fun (_, t) => t.group == some (g, i) && decide (t.state = .saved)

/-- Ticks during which a group's deadline has been paused (13 R338, R347). -/
def Group.pauseNow (v : Group) (ptc : Nat) : Nat := v.pause + (match v.pausedAt with | some p => ptc - p | none => 0)

/-- The tick at which a gang's unended members are all saved pauses its group's deadline; a pause ends with its last unended
member (13 R347). -/
def State.pauseGroup (s : State) (g : Nat) : State :=
  let v := SMap.get {} s.groups g
  if v.state = 1 && v.pausedAt.isNone && (recField v.record 2 1).testBit 0 && s.gangSaved g then
    { s with groups := SMap.put s.groups g { v with pausedAt := some s.ptc } }
  else if v.pausedAt.isSome && v.members.all (·.ended) then
    { s with groups := SMap.put s.groups g { v with pause := v.pauseNow s.ptc, pausedAt := none } }
  else s

/-- What has begun to perform, and has to complete before a save (03 R122, R123): sent stores and ranges, the reply of a load or AMO
that has been served, and in loose code the instruction that has issued (03 R84, R124). -/
def State.saveWaits (s : State) : Bool :=
  let t := s.task
  (t.cores.any fun (_, c) =>
    (c.stores.any fun e => !e.isMark && e.sent.isSome) || (c.ranges.any fun e => e.sent.isSome) ||
    c.loads.any fun e => e.value.isSome && !e.landed) ||
  (!t.region.active && decide (s.ptc < (s.coreAt 0).nextIssue))

/-- SAVE_COMPLETE (10 R294, R295, 03 R122 to R124, 12 R335). -/
def execSaveComplete (s : State) : Answer :=
  let t := s.task
  let r := t.region
  if t.state ≠ .freezing || s.saveWaits then .next s
  else
    match (if r.active then none else t.failed) with
    | some va =>
      if !(s.coreAt 0).handler then
        .next ((s.at' 0).faultTask ⟨causeWord 0x0B 2, (s.coreAt 0).pc, va, none, 0, false, false, false⟩)
      else .next (save t r)
    | none => .next (save t r)
where
  save (t : Task) (r : Region) : State :=
    let b := t.recordVa.toNat
    let head := leBytes 1 5 ++ leBytes 4 0 ++ leBytes 8 (if r.active then r.rt else 2 ^ 64 - 1) ++
      leBytes 8 (if r.active then r.slide else 0) ++ leBytes 8 t.running
    let s1 := s.putMem' t.ctx (b + 0x83) head
    let s2 := t.cores.foldl (fun s (k, c) => s.saveCore t.ctx (b + 0x10000 + k * 0x2400000) c r.active r.live) s1
    let s3 := (s2.setTask { t with state := .saved, noted := 5, saveAt := s.ptc, savedCores := t.cores, cores := [], places := [], dies := [] }).releaseEngines
    match t.group with
    | some (g, _) => s3.pauseGroup g
    | none => s3

/-- RESTORE_BIND (10 R296, 05 R184, 06 R409): the block is read back; a region waits for its resume tick. -/
def execRestoreBind (s : State) : Answer :=
  let t := s.task
  if t.state ≠ .saved || t.places.isEmpty then .next s
  else
    let b := t.recordVa.toNat
    let cores := t.savedCores.map fun (k, c) =>
      (k, (s.at' k).restoreCore (s.at' k).agent (b + 0x10000 + k * 0x2400000) c t.region.active t.region.live)
    let agenda := t.region.agenda.map fun p =>
      if p.landed then p else { p with landAt := s.later, sent := none, homes := [], hash := [], held := [], late := s.lateAgain p.due (s.fresh + p.seq) }
    let record := putBytes [] 0 ((s.getMem t.ctx b 128).getD (takeBytes t.record 0 128))
    let region := if t.region.active then
        { t.region with
          agenda := agenda, rt := s.numAt t.ctx (b + 0x88) 8, slide := s.numAt t.ctx (b + 0x90) 8
          freeze := t.region.freeze.map fun f => { f with resume := some (s.ptc + 2048 + Config.delay s.fresh), probed := false } }
      else t.region
    let s1 := s.setTask { t with
      record := record, budget := recField record 8 4, queue := s.numAt t.ctx (b + 0x80) 2, prio := s.numAt t.ctx (b + 0x82) 1
      state := if t.region.active then .restoring else .running
      noted := if t.region.active then 3 else 2
      cores := if t.region.active then cores else cores.map fun (k, c) => (k, { c with nextIssue := s.ptc + 1 })
      savedCores := [], region := region, running := s.numAt t.ctx (b + 0x98) 8
      readyAt := (List.range t.ncores).map fun k => (k, s.ptc + Config.delay (s.fresh + 1 + k)) }
    let s2 : State := { s1.putMem' t.ctx (b + 0x83) (leBytes 1 (if t.region.active then 3 else 2)) with fresh := s.fresh + 2 + t.ncores }
    let s3 := if t.region.active then
        (s2.diesUsed region.ncores).foldl (fun s d =>
          let p := s.physDie d
          let v := s.die p
          s.setDie p { v with ceOwner := ((s.freeEngines p).take (SMap.get 0 region.engines d)).foldl (fun m e => SMap.put m e s.cur.task) v.ceOwner }) s2
      else s2
    let s4 := if t.region.active then s3.tellPeers (.regionFreeze ⟨.preempt, region.rt, some s.ptc⟩) else s3
    .next (match t.group with
      | none => s4
      | some (g, _) =>
        let v := SMap.get {} s4.groups g
        if v.pausedAt.isSome then { s4 with groups := SMap.put s4.groups g { v with pause := v.pauseNow s.ptc, pausedAt := none } } else s4)

/-- RESTORE_RESUME (05 R184, 03 R121): the region resumes at f, or the late-entry fault (18 R402: no member resumes before the others are restored). -/
def execRestoreResume (s : State) : Answer :=
  let t := s.task
  let r := t.region
  match t.state, r.freeze with
  | .restoring, some f =>
    match (List.range r.ncores).find? (fun k => decide (s.ptc < SMap.get 0 t.readyAt k)) with
    | some k =>
      .next ((s.at' 0).faultTask ⟨causeWord 6 6, BitVec.allOnes 64, BitVec.ofNat 64 (r.base + k), some r.rt, 0, true, false, (s.coreAt 0).handler⟩)
    | none => .next (s.setTask { t with state := .running, region := { r with freeze := none, slide := r.slide + (s.ptc - f.tick) } })
  | _, _ => .next s

/-! ### The submit window as the host reads it (10 R282) -/

/-- STATUS. -/
def Queue.status (q : Queue) : Nat :=
  (if q.full then 1 else 0) + (if q.refused then 2 else 0) + (if q.enabled then 4 else 0)

/-- An 8-byte register of the submit window at offset o, as function fn reads it. -/
def State.windowRead (s : State) (fn q o : Nat) : Nat :=
  let v := s.queue q
  if !s.windowOf fn q then 0
  else if o < 0x80 then leNat (takeBytes v.window o 8)
  else match o with
    | 0x088 => v.subcount
    | 0x090 => v.claimcount
    | 0x098 => v.donecount
    | 0x0A0 => v.status
    | _ => 0

end Sys2Proof.Machine
end

