-- ==== Sys2Proof/Machine/Snapshot.lean ====
section
/-!
DEFINITION. Snapshots: SNAP, ACCEPT, REJECT, SNAPQ, and the growth of the Hedgerow quota (12 R320 to R336).
-/

namespace Sys2Proof.Machine

/-- A range slot of a context. -/
def Context.range (x : Context) (k : Nat) : Range := SMap.get {} x.ranges k
/-- Replaces a range slot; a free slot goes back to what it was at first. -/
def State.setRange (s : State) (c k : Nat) (r : Range) : State :=
  let x := s.ctx c
  s.setCtx c { x with ranges := SMap.set {} x.ranges k (if r.depth = 0 then {} else r) }
/-- The slot's extent covers a line (12 R321). -/
def Range.covers (r : Range) (line : Nat) : Bool := r.extent.any fun (a, n) => decide (a ≤ line * 128) && decide (line * 128 < a + n)
/-- Some used slot of any context covers the physical address (12 R321). -/
def State.coveredPa (s : State) (pa : Nat) : Bool :=
  s.contexts.any fun (_, x) => x.ranges.any fun (_, r) => decide (0 < r.depth) && r.covers (pa / 128)

/-- A snapshot error (12 R330). -/
def State.snapError (s : State) (sub : Nat) (tval : Word) : State := s.raise 0x0F sub tval

/-- What SNAP finds at one 64 KiB granule of its range. -/
structure Granule where
  va : Nat
  pa : Nat
  leaf : Leaf
  deriving DecidableEq, Repr

/-- The granules of a range, each translated with read and write permission (12 R325): the first failure, or all. -/
def State.granulesOf (s : State) (c va : Nat) : Nat → Except Trapped (List Granule)
  | 0 => .ok []
  | n + 1 =>
    match walk s c va with
    | .error e => .error ⟨4, e, BitVec.ofNat 64 va⟩
    | .ok w =>
      match permit .read w.pa w.leaf.attr, permit .write w.pa w.leaf.attr with
      | .ok _ _, .ok _ _ =>
        match s.granulesOf c (va + 0x10000) n with
        | .ok rest => .ok (⟨va, w.pa, w.leaf⟩ :: rest)
        | .error e => .error e
      | .ok _ _, t => .error ⟨(trCause t).1, (trCause t).2, BitVec.ofNat 64 va⟩
      | t, _ => .error ⟨(trCause t).1, (trCause t).2, BitVec.ofNat 64 va⟩

/-- The first address that breaks SNAP's conditions on leaf entries (12 R325); `seen` counts the entries met so far. -/
def badGranule : List Granule → Nat → Option Nat → Option Nat
  | [], _, _ => none
  | g :: rest, seen, last =>
    let seen' := if last = some g.leaf.base then seen else seen + 1
    if 4 < seen' || g.leaf.rdx || !g.leaf.attr.testBit 10 || decide (Config.hostBase ≤ g.pa) then some g.va
    else badGranule rest seen' (some g.leaf.base)

/-- The physical intervals of granules in order, adjacent ones joined. -/
def intervals : List Granule → List (Nat × Nat)
  | [] => []
  | g :: rest =>
    match intervals rest with
    | (a, n) :: more => if g.pa + 0x10000 = a then (g.pa, n + 0x10000) :: more else (g.pa, 0x10000) :: (a, n) :: more
    | [] => [(g.pa, 0x10000)]

/-- The slot that SNAP opens a level of, after every check (12 R325): a slot of this view with the same range, or a new
one. -/
def State.snapSlot (s : State) (b n : Nat) : Except Trapped (Nat × Range) :=
  let x := s.ctx s.task.ctx
  let v := s.task.viewId
  let B := BitVec.ofNat 64 b
  if b % 0x10000 ≠ 0 || n % 0x10000 ≠ 0 || n = 0 || 2 ^ 40 < n || 2 ^ 56 < b + n then .error ⟨0x0F, 1, B⟩
  else
    match x.ranges.find? (fun (_, r) => decide (0 < r.depth) && decide (r.base = b) && decide (r.length = n) && decide (r.view = v)) with
    | some (k, r) => if r.depth = 8 then .error ⟨0x0F, 4, B⟩ else .ok (k, r)
    | none =>
      if x.ranges.any (fun (_, r) => decide (0 < r.depth) && decide (r.view = v) && decide (r.base < b + n) && decide (b < r.base + r.length)) then
        .error ⟨0x0F, 2, B⟩
      else
        match s.granulesOf s.task.ctx b (n / 0x10000) with
        | .error e => .error e
        | .ok l =>
          match badGranule l 0 none with
          | some a => .error ⟨0x0F, 5, BitVec.ofNat 64 a⟩
          | none =>
            match l.find? (fun g => s.coveredPa g.pa) with
            | some g => .error ⟨0x0F, 2, BitVec.ofNat 64 g.va⟩
            | none =>
              match (List.range 16).find? (fun k => decide ((x.range k).depth = 0)) with
              | none => .error ⟨0x0F, 3, B⟩
              | some k => .ok (k, { base := b, length := n, view := v, depth := 0, lines := [], extent := intervals l })

/-- The MARK that SNAP, ACCEPT and REJECT are to their CP (12 R325, 08 R268): mark.pkg.d. -/
def State.orderPkg (s : State) : State := s.pushStore s.core.nextSeq 0 (.mark 3 2) none

/-- What SNAP, ACCEPT and REJECT wait for before their event: the task's stores, and the reads before the event as a
mark.pkg.d orders them (12 R325 to R327, 08 R258, R268). -/
def State.pkgDone (s : State) : Bool := s.storesDone && s.readsDone

/-- SNAP (12 R325). -/
def execSnap (d a b : Reg) (s : State) : Answer :=
  s.needLoose (.snap d a b) (
    match s.snapSlot (s.rx a).toNat (s.rx b).toNat with
    | .error e => s.raise e.cause e.sub e.tval
    | .ok (k, r) => s.afterFailed (
      if !s.pkgDone then s.tryLater .stores
      else
        let r1 := { r with depth := r.depth + 1, lines := SMap.set 0 r.lines (r.depth + 1) 0 }
        ((s.setRange s.task.ctx k r1).orderPkg.wx d (BitVec.ofNat 64 (k + 16 * r1.depth))).finish 1))

/-- The handle check (12 R324), with or without the depth test: the slot, or the trap. -/
def State.checkHandle (s : State) (h : Word) (depth : Bool) : Except Trapped (Nat × Range) :=
  let k := h.toNat % 16
  let r := (s.ctx s.task.ctx).range k
  if h.toNat / 256 ≠ 0 || r.depth = 0 || (depth && decide (h.toNat / 16 % 16 ≠ r.depth)) then .error ⟨0x0F, 6, h⟩
  else if r.view ≠ s.task.viewId then .error ⟨0x0F, 7, h⟩
  else .ok (k, r)

/-- The shadows of a slot's level. -/
def State.shadowsAt (s : State) (r : Range) (level : Nat) : List Version :=
  s.versions.filter fun v => v.view == r.view && v.level == level && r.covers v.line

/-- ACCEPT's event (12 R326): shadows of the level are dropped, or become the next outer level's. -/
def State.acceptLevel (s : State) (c k : Nat) (r : Range) : State :=
  let l := s.shadowsAt r r.depth
  let moved := l.filter fun v => r.depth != 1 && (s.version v.line v.view (r.depth - 1)).isNone
  let rest := s.versions.filter fun v => !l.contains v
  let s1 : State := { s with versions := moved.map (fun v => { v with level := r.depth - 1 }) ++ rest }
  let lines := SMap.set 0 r.lines (r.depth - 1) (SMap.get 0 r.lines (r.depth - 1) + (moved.filter (·.content.isSome)).length)
  s1.setRange c k { r with depth := r.depth - 1, lines := SMap.set 0 (if r.depth = 1 then r.lines else lines) r.depth 0 }

/-- One line goes back to its shadow (12 R327): a write that every read served after it sees. -/
def State.restoreLine (s : State) (v : Version) : State :=
  if v.view = 0 then
    let s1 := s.saveSystem v.line
    let s2 := s1.writePas (v.line * 128) (takeBytes (v.content.getD []) 0 128)
    ({ s2 with poison := if v.poison then v.line :: s2.poison.filter (· != v.line) else s2.poison.filter (· != v.line) } : State).dropOld
      none 0 (v.line * 128) 128
  else
    let s := s.dropOld none v.view (v.line * 128) 128
    match v.content with
    | none => { s with versions := s.versions.filter fun w => !(w.line == v.line && w.view == v.view && w.level == 0) }
    | some m =>
      match s.version v.line v.view 0 with
      | some w => s.putVersion { w with content := some m, poison := v.poison }
      | none => s.putVersion { v with level := 0 }

/-- REJECT's event (12 R327). -/
def State.rejectLevel (s : State) (c k : Nat) (r : Range) : State :=
  let l := s.shadowsAt r r.depth
  let s1 := l.foldl State.restoreLine s
  let s2 : State := { s1 with versions := s1.versions.filter fun v => !l.contains v }
  s2.setRange c k { r with depth := r.depth - 1, lines := SMap.set 0 r.lines r.depth 0 }

/-- The common course of ACCEPT and REJECT (12 R326, R327). -/
def State.closeLevel (s : State) (i : Instr) (d a : Reg) (event : State → Nat → Nat → Range → State) : Answer :=
  s.needLoose i (
    match s.checkHandle (s.rx a) true with
    | .error e => s.raise e.cause e.sub e.tval
    | .ok (k, r) => s.afterFailed (
      if !s.pkgDone then s.tryLater .stores
      else ((event s s.task.ctx k r).orderPkg.wx d (BitVec.ofNat 64 (r.depth - 1))).finish 1))
/-- ACCEPT (12 R326). -/
def execAccept (d a : Reg) (s : State) : Answer := s.closeLevel (.accept d a) d a State.acceptLevel
/-- REJECT (12 R327). -/
def execReject (d a : Reg) (s : State) : Answer := s.closeLevel (.reject d a) d a State.rejectLevel

/-- SNAPQ's value (12 R329). -/
def State.snapValue (s : State) (h : Word) (sel : Nat) : Except Trapped Nat :=
  let x := s.ctx s.task.ctx
  match sel with
  | 0 => .ok (x.range (h.toNat % 16)).depth
  | 3 => .ok (s.usage s.task.ctx)
  | 4 => .ok x.quota
  | _ =>
    match s.checkHandle h false with
    | .error e => .error e
    | .ok (_, r) => .ok (if sel = 1 then r.base else if sel = 2 then r.length else SMap.get 0 r.lines r.depth)

/-- SNAPQ (12 R329). -/
def execSnapq (d a : Reg) (sel : BitVec 7) (s : State) : Answer :=
  s.needLoose (.snapq d a sel) (
    match s.snapValue (s.rx a) sel.toNat with
    | .error e => s.raise e.cause e.sub e.tval
    | .ok v => (s.wx d (BitVec.ofNat 64 v)).finish 1)

/-- Tries the waiting writes of host functions, peers and the device again, in their order. -/
def State.retryHeld (s : State) : State := s.hostHeld.foldl State.outsideWrite { s with hostHeld := [] }

/-- The write waits for lines of a context's quota. -/
def State.waitsOn (s : State) (x : Nat) (w : HeldWrite) : Bool :=
  match writeCheck (systemAgent w.ctx) w.access (lineFuel w.bytes.length) s w.va w.bytes.length with
  | .waits y => y == x
  | _ => false

/-- A write of a host function or a peer that firmware gives no line is discarded and logged, with the place of its line (12 R334, 17 R386);
one of the device goes the same way (DESIGN CHOICE, notes/assumptions/27.md). -/
def State.discardHeld (s : State) (x : Nat) : State :=
  let (gone, rest) := s.hostHeld.partition (s.waitsOn x)
  let s1 : State := { s with hostHeld := rest }
  gone.foldl (fun s w =>
    let pa := match walk s w.ctx w.va with | .ok p => p.pa | .error _ => 0
    s.rasLog { type := 5, unit := 1, die := Config.paDie (s.storage pa), pa := pa, va := w.va, ctx := w.ctx, fn := w.fn }) s1

/-- The first write in the queues of the core in focus that waits for lines of a context: sequence number and address. A CPF is none,
and its write-back waits on (12 R335; DEDUCED, notes/assumptions/37.md). -/
def State.heldFor (s : State) (x : Nat) : Option (Nat × Word) :=
  (s.core.stores.findSome? fun e => match e.tr with
    | some (pa, attr) =>
      if e.heldSince.isSome && s.hedgeShort s.task.ctx (pa / 128) (s.agent.target e.va.toNat attr) == some x then some (e.seq, e.va) else none
    | none => none).orElse fun _ =>
  s.core.ranges.findSome? fun e => match s.rangeNext e with
    | some (line, _) => if e.writes && e.heldSince.isSome && s.hedgeShort 0 line 0 == some x then some (e.seq, BitVec.ofNat 64 e.next) else none
    | none => none

/-- QUOTA_GROW (12 R334, 18 R397): firmware grows the quota, as far as the pool has room, or declines: loose stores and
write-backs that wait for it then fail, and host and peer writes are discarded. -/
def execQuotaGrow (c : Nat) (lines : Option Nat) (s : State) : Answer :=
  let s0 := s.setCtx c { s.ctx c with asked := false }
  let room := s0.hedgeFree
  .next (match lines with
    | some n => if room = 0 then decline s0 else (s0.setCtx c { s0.ctx c with quota := (s0.ctx c).quota + min (max 1 n) room }).retryHeld
    | none => decline s0)
where
  /-- Firmware declines. -/
  decline (s : State) : State :=
    let s1 := s.discardHeld c
    s1.tasks.foldl (fun s (i, t) =>
      if t.region.active then s
      else
        let f : State := { s with cur := { task := i, core := 0 } }
        match f.heldFor c with
        | some (seq, va) => { f.failStore seq va with cur := s.cur }
        | none => s) s1

end Sys2Proof.Machine
end

