-- ==== Sys2Proof/Machine/Group.lean ====
section
/-!
DEFINITION. Sample groups: FORK, GREPORT, GWAIT, GCANCEL, GSTAT, the group unit's events and the resolution
(13 R337 to R351).
-/

namespace Sys2Proof.Machine

/-- A group error (13 R350). -/
def State.groupError (s : State) (sub : Nat) (tval : Word) : State := s.raise 0x0E sub tval
/-- A group of the table. -/
def State.group (s : State) (g : Nat) : Group := SMap.get {} s.groups g
/-- Replaces a group. -/
def State.setGroup (s : State) (g : Nat) (v : Group) : State := { s with groups := SMap.put s.groups g v }
/-- The active group whose record lies at a physical address (13 R337, R340). -/
def State.groupAt (s : State) (pa : Nat) : Option (Nat × Group) := s.groups.find? fun (_, v) => v.pa == pa
/-- N of a group. -/
def Group.size (g : Group) : Nat := g.members.length
/-- A field of a group's record. -/
def Group.field (g : Group) (o n : Nat) : Nat := recField g.record o n
/-- A member. -/
def Group.member (g : Group) (i : Nat) : Member := g.members.getD i {}
/-- Replaces a member. -/
def Group.setMember (g : Group) (i : Nat) (m : Member) : Group := { g with members := g.members.set i m }
/-- Members whose status is one of a list. -/
def Group.withStatus (g : Group) (l : List Nat) : Nat := (g.members.filter fun m => l.contains m.status).length

/-! ### FORK (13 R338, R341, R342) -/

/-- Two runs of bytes are disjoint. -/
def apart (a n b m : Nat) : Bool := n == 0 || m == 0 || decide (a + n ≤ b) || decide (b + m ≤ a)

/-- The fields written by software keep R338. -/
def groupRecordOk (m : SMap Byte) (a : Nat) : Bool :=
  let n := recField m 0 1
  let vb := recField m 0x28 8
  let vl := recField m 0x30 8
  let arrays := [(recField m 0x10 8, 4 * n), (recField m 0x18 8, 4 * n), (recField m 0x20 8, n)]
  decide (2 ≤ n) && decide (n ≤ 64) && decide (recField m 1 1 ≤ n) && decide (recField m 2 1 < 2) &&
  decide (recField m 4 4 < 0x7F800000) && decide (vb % 0x10000 = 0) && decide (vl % 0x10000 = 0) && decide (vl ≤ 2 ^ 40) &&
  (vl != 0 || vb == 0) &&
  decide (recField m 0x38 8 = 0) && apart a 256 vb vl &&
  arrays.all (fun (x, k) => decide (x % 64 = 0) && apart x k vb vl && apart x k a 256)

/-- The entries at which the arrays of a record enter a page, in order (13 R341). -/
def arrayPoints (m : SMap Byte) : List Nat :=
  let n := recField m 0 1
  rangePages (recField m 0x10 8) (4 * n) ++ rangePages (recField m 0x18 8) (4 * n) ++ rangePages (recField m 0x20 8) n

/-- FORK's check of one address of an array: read and write permission, home policy (13 R341). -/
def State.arrayOk (s : State) (A : Word) (va : Nat) : Option Trapped :=
  match translate s s.task.ctx va .read, translate s s.task.ctx va .write with
  | .ok _ _, .ok pa attr => if attrPolicy attr = 0 && Config.deviceStorage pa then none else some ⟨0x0E, 1, A⟩
  | .ok _ _, t => some ⟨(trCause t).1, (trCause t).2, BitVec.ofNat 64 va⟩
  | t, _ => some ⟨(trCause t).1, (trCause t).2, BitVec.ofNat 64 va⟩

/-- View numbers that live views hold (13 R341). -/
def State.liveViews (s : State) : List Nat :=
  s.groups.flatMap fun (_, g) => (g.members.filter fun m => !m.ended).map (·.view)

/-- A run of n free view numbers, chosen freely (13 R341, DESIGN CHOICE, notes/assumptions/7.md). -/
def State.freeViews (s : State) (n : Nat) : Option Nat :=
  let live := s.liveViews
  let l := ((List.range 65535).map (· + 1)).filter fun v => decide (v + n ≤ 65536) && live.all fun x => decide (x < v) || decide (v + n ≤ x)
  l[Config.choose s.fresh % l.length]?

/-- FORK's checks that what other tasks do can make fail: room in the table and among the view numbers, the queue (13 R341). -/
def State.forkRoom (s : State) (A : Word) (m : SMap Byte) : Option Trapped :=
  let n := recField m 0 1
  let v := s.queue (recField m 3 1)
  if 1024 ≤ s.groups.length || (s.freeViews n).isNone then some ⟨0x0E, 2, A⟩
  else if !v.enabled || decide (v.ctx ≠ s.task.ctx) || decide (2 ^ v.log2n < v.subcount - v.claimcount + n) then
    some ⟨0x0E, 3, BitVec.ofNat 64 (recField m 3 1)⟩
  else none

/-- The checks of FORK, in the order of 13 R341: the record and where it lies, or the trap (DEDUCED, notes/assumptions/32.md). -/
def State.forkCheck (s : State) (A : Word) : Except Stopped (SMap Byte × Nat × State) := do
  if !s.core.loads.isEmpty then .error (.trap ⟨2, 0, BitVec.ofNat 64 s.core.loads.length⟩ s.core)
  else if A.toNat % 256 ≠ 0 then .error (.trap ⟨3, 0, A⟩ s.core)
  else do
    let (bytes, _, s1) ← s.readVa A.toNat 256
    match translate s s.task.ctx A.toNat .write with
    | .ok pa attr =>
      let m := putBytes [] 0 bytes
      let n := recField m 0 1
      if !groupRecordOk m A.toNat || attrPolicy attr ≠ 0 || !Config.deviceStorage pa then .error (.trap ⟨0x0E, 1, A⟩ s1.core)
      else match (arrayPoints m).findSome? (s.arrayOk A) with
        | some e => .error (.trap e s1.core)
        | none =>
          if s.task.viewId ≠ 0 || s.core.handler || (s.groupAt pa).isSome then .error (.trap ⟨0x0E, 5, A⟩ s1.core)
          else if recField m 8 8 ≠ 0 && decide (recField m 8 8 ≤ s.ptc) then .error (.trap ⟨0x0E, 0x0A, BitVec.ofNat 64 (recField m 8 8)⟩ s1.core)
          else if let some e := s.forkRoom A m then .error (.trap e s1.core)
          else if (recField m 2 1).testBit 0 && (s.placeAll 0 (List.replicate n (shapeOf s.task.record, [])) [] fun _ => 0).isNone then .error (.trap ⟨0x0E, 4, A⟩ s1.core)
          else .ok (m, pa, s1)
    | t => .error (.trap ⟨(trCause t).1, (trCause t).2, A⟩ s1.core)

/-- A sibling's record, built from the parent's (13 R342). -/
def siblingRecord (parent : SMap Byte) (c : Core) (gang : Bool) : List Byte :=
  leBytes 8 (c.pc + 4).toNat ++ takeBytes parent 8 4 ++ takeBytes parent 0x0C 2 ++ leBytes 1 (if gang then 1 else 0) ++ leBytes 1 0 ++
  takeBytes parent 0x10 8 ++ leBytes 8 0 ++ leBytes 8 0 ++ leBytes 8 0 ++ leBytes 8 0 ++ leBytes 8 0 ++
  (List.range 8).flatMap fun i => leBytes 8 (c.rx (BitVec.ofNat 6 (10 + i))).toNat

/-- The HW fields of a group's record as bytes from 0x40 (13 R338). -/
def Group.hwBytes (g : Group) (ptc : Nat) : List Byte :=
  leBytes 1 g.state ++ leBytes 1 g.res ++ leBytes 1 g.nrep ++ leBytes 1 (if g.state = 2 then g.withStatus [1] else 0) ++
  leBytes 1 (g.withStatus [4]) ++ leBytes 1 (g.withStatus [5]) ++ leBytes 1 (g.withStatus [6, 7]) ++ leBytes 1 g.nend ++
  leBytes 8 g.forkTick ++ leBytes 8 (g.pauseNow ptc) ++ leBytes 8 g.resTick ++ leBytes 8 g.mean.toNat ++ leBytes 8 g.sigma.toNat ++ leBytes 2 g.view0 ++
  leBytes 142 0

/-- The device writes the HW fields (13 R338): view 0, at the home. -/
def State.writeGroup (s : State) (g : Nat) : State :=
  let v := s.group g
  s.putMem' v.ctx (v.va.toNat + 0x40) (v.hwBytes s.ptc)

/-- The FORK event (13 R341): the group, its views, its arrays and the siblings' records. -/
def State.forkEvent (s : State) (A : Word) (d : Reg) (m : SMap Byte) (pa : Nat) : State :=
  let n := recField m 0 1
  let q := recField m 3 1
  let view := (s.freeViews n).getD 1
  let id := s.nextGroup
  let g : Group := {
    record := m, pa := pa, va := A, ctx := s.task.ctx, parent := s.cur.task, state := 1
    members := (List.range n).map fun i => { view := view + i }
    forkTick := s.ptc, deadline := recField m 8 8, view0 := view, queue := q, firstSub := (s.queue q).subcount + 1
    core0 := s.core, dest := d }
  let s1 : State := { s.setGroup id g with nextGroup := id + 1, fresh := s.fresh + 1 }
  let s2 := ((s1.putMem' s.task.ctx (recField m 0x10 8) (leBytes (4 * n) 0)).putMem' s.task.ctx (recField m 0x18 8) (leBytes (4 * n) 0)).putMem'
    s.task.ctx (recField m 0x20 8) (leBytes n 0)
  let rec' := siblingRecord s.task.record s.core ((recField m 2 1).testBit 0)
  (List.range n).foldl (fun s _ => s.append q rec') (s2.writeGroup id)

/-- FORK's wait and event (13 R341), after its checks: room that other tasks have taken meanwhile is missed at the event (DEDUCED,
notes/assumptions/32.md). -/
def State.forkWait (s : State) (d a : Reg) (m : SMap Byte) (pa : Nat) : State :=
  s.afterFailed (
    if !s.storesDone then s.tryLater (.fork m pa)
    else if (s.groupAt pa).isSome then s.groupError 5 (s.rx a)
    else match s.forkRoom (s.rx a) m with
      | some e => s.raise e.cause e.sub e.tval
      | none => ((s.forkEvent (s.rx a) d m pa).wx d (BitVec.ofNat 64 (recField m 0 1))).finish 1)

/-- FORK (13 R341): its checks, then its wait, then its event. -/
def execFork (d a : Reg) (s : State) : Answer :=
  s.needLoose (.fork d a) (match s.task.wait with
    | .fork m pa => (s.setTask { s.task with wait := .none }).forkWait d a m pa
    | _ =>
      match s.forkCheck (s.rx a) with
      | .error e => s.stopAt e
      | .ok (m, pa, s1) => s1.forkWait d a m pa)

/-! ### GREPORT, GWAIT, GCANCEL, GSTAT (13 R343 to R346) -/

/-- GREPORT (13 R343): the report is on its way until the unit applies it. -/
def execGreport (a : Reg) (s : State) : Answer :=
  s.needLoose (.greport a) (
    match s.task.group.bind (fun (g, i) => (s.groups.find? (·.1 == g)).map fun p => (g, i, p.2)) with
    | none => if s.task.wait = .report then (s.setTask { s.task with wait := .none }).finish 1 else s.groupError 6 0
    | some (g, i, v) =>
      if s.task.wait = .report then
        if v.reports.any (fun r => r.1 == i) then s.tryLater .report else (s.setTask { s.task with wait := .none }).finish 1
      else if (v.member i).status ≠ 0 then s.groupError 6 v.va
      else if !s.storesDone then s.tryLater .stores
      else
        let s1 := s.setGroup g { v with reports := v.reports ++ [(i, (s.rx a).setWidth 32, s.later)] }
        { s1.tryLater .report with fresh := s.fresh + 1 })

/-- The group that an instruction names by its record (13 R340): the physical address, and the active group. -/
def State.named (s : State) (A : Word) : Except Trapped (Nat × Option (Nat × Group)) :=
  match translate s s.task.ctx A.toNat .read with
  | .ok pa _ => .ok (pa, s.groupAt pa)
  | t => .error ⟨(trCause t).1, (trCause t).2, A⟩

/-- The value that GWAIT and GSTAT 0 return. -/
def resultWord (res valid : Nat) : Word := BitVec.ofNat 64 (res + 256 * valid)

/-- What GWAIT reads of a record that names no active group (13 R344), as an access of the task: in its view (12 R319) and behind its
earlier writes (03 R71): its result, if the group has resolved. -/
def State.resolvedRecord (s : State) (A : Word) : Except Stopped (Option Word) :=
  if s.readWaits .read (A.toNat + 0x40) 4 then .error .wait
  else match s.load s.agent .read (A.toNat + 0x40) 4 with
    | .done b _ _ => .ok (if fieldAt b 0 1 = 2 then some (resultWord (fieldAt b 1 1) (fieldAt b 3 1)) else none)
    | .failed v t => .error (.trap ⟨(trCause t).1, (trCause t).2, BitVec.ofNat 64 v⟩ s.core)

/-- GWAIT, with and without Y (13 R344). -/
def State.groupWait (s : State) (i : Instr) (d a : Reg) (yields : Bool) : Answer :=
  s.needLoose i (
    match s.named (s.rx a) with
    | .error e => s.raise e.cause e.sub e.tval
    | .ok (_, none) =>
      match s.resolvedRecord (s.rx a) with
      | .error e => s.stopAt e
      | .ok none => s.groupError 7 (s.rx a)
      | .ok (some v) => ((s.setTask { s.task with wait := .none }).wx d v).finish 1
    | .ok (_, some (g, v)) =>
      if s.task.group.any (fun (h, k) => h == g && decide ((v.member k).status = 0)) then s.groupError 9 (s.rx a)
      else if v.state = 2 then ((s.setTask { s.task with wait := .none }).wx d (resultWord v.res (v.withStatus [1]))).finish 1
      else if yields then
        { s.setTask { s.task with wait := .group g true, state := .freezing, saveAt := s.later } with fresh := s.fresh + 1 }
      else s.tryLater (.group g false))
/-- GWAIT (13 R344). -/
def execGwait (d a : Reg) (s : State) : Answer := s.groupWait (.gwait d a) d a false
/-- GWAIT.Y (13 R344). -/
def execGwaitY (d a : Reg) (s : State) : Answer := s.groupWait (.gwaitY d a) d a true

/-- A cancellation is ending the task. -/
def Task.cancelling (t : Task) : Bool :=
  decide (t.state = .ending .cancelled) || (decide (t.state = .running) && (t.region.stopAt.map (·.2)) == some .cancel)

/-- GCANCEL (13 R345): the cancellation is on its way until the unit applies it, then until its tasks are cancelled. -/
def execGcancel (d a b : Reg) (s : State) : Answer :=
  s.needLoose (.gcancel d a b) (
    match s.task.wait, s.task.answer with
    | .cancel, some n =>
      let g := match s.named (s.rx a) with | .ok (_, some (g, _)) => some g | _ => none
      if s.tasks.any (fun (_, t) => t.cancelling && g.isSome && (t.group.map (·.1)) == g) then s.tryLater .cancel
      else ((s.setTask { s.task with wait := .none, answer := none }).wx d (BitVec.ofNat 64 n)).finish 1
    | .cancel, none => s.tryLater .cancel
    | _, _ =>
      match s.named (s.rx a) with
      | .error e => s.raise e.cause e.sub e.tval
      | .ok (_, none) => s.groupError 7 (s.rx a)
      | .ok (_, some (g, v)) =>
        let all := decide (s.rx b = BitVec.allOnes 64)
        if !all && decide (v.size ≤ (s.rx b).toNat) then s.groupError 8 (s.rx b)
        else
          let s1 := s.setGroup g { v with cancels := v.cancels ++ [(s.cur.task, if all then none else some (s.rx b).toNat, s.later)] }
          { s1.tryLater .cancel with fresh := s.fresh + 1 })

/-- GSTAT's value (13 R346). -/
def State.groupValue (s : State) (A B : Word) (g : Nat) (v : Group) (sel : Nat) : Except Trapped Nat :=
  match sel with
  | 0 => .ok (v.res + 256 * (if v.state = 2 then v.withStatus [1] else 0))
  | 1 => .ok (v.size - v.withStatus [0])
  | 2 => .ok v.nrep
  | 3 => .ok (if v.deadline = 0 then 0 else v.deadline + v.pauseNow s.ptc)
  | _ =>
    if B = BitVec.allOnes 64 then
      match s.task.group with
      | some (h, i) => if h = g then .ok i else .error ⟨0x0E, 6, A⟩
      | none => .error ⟨0x0E, 6, A⟩
    else if v.size ≤ B.toNat then .error ⟨0x0E, 8, B⟩
    else
      let m := v.member B.toNat
      .ok (m.status + 256 * (if m.ended then 1 else 0) + 65536 * m.view)

/-- GSTAT (13 R346). -/
def execGstat (d a b : Reg) (sel : BitVec 7) (s : State) : Answer :=
  s.needLoose (.gstat d a b sel) (
    match s.named (s.rx a) with
    | .error e => s.raise e.cause e.sub e.tval
    | .ok (_, none) => s.groupError 7 (s.rx a)
    | .ok (_, some (g, v)) =>
      match s.groupValue (s.rx a) (s.rx b) g v sel.toNat with
      | .error e => s.raise e.cause e.sub e.tval
      | .ok n => (s.wx d (BitVec.ofNat 64 n)).finish 1)

/-! ### Resolution (13 R348) -/

/-- The quotient of two finite values, the divisor not zero. -/
def Fp.div : Fp → Fp → Fp
  | .fin a m e, .fin b n k => if m = 0 then .fin (a != b) 0 0 else .fin (a != b) (stickyDiv m n 140) (e - k - 141)
  | _, _ => .nan

/-- What the statistics give: GRES bits 2 and 3, the mean, the deviation, and the advantages by member. -/
structure Stats where
  flags : Nat
  mean : BitVec 64
  sigma : BitVec 64
  advs : List (BitVec 32)
  deriving DecidableEq, Repr

/-- The listing of 13 R348: `l` has each member's status and reward. -/
def groupStats (l : List (Nat × BitVec 32)) (minrep : Nat) (eps : BitVec 32) : Stats :=
  let valid := l.filter fun p => p.1 == 1
  let m := valid.length
  let zeros := l.map fun _ => (0 : BitVec 32)
  if m < 2 || m < minrep then ⟨8, 0, 0, zeros⟩
  else
    let sum := valid.foldl (fun a p => rne64 ((dp a).add (fp p.2))) 0
    let mean := rne64 ((dp sum).div (Fp.ofInteger m))
    let dev := fun (r : BitVec 32) => rne64 ((fp r).add (dp mean).negate)
    let q := valid.foldl (fun a p => rne64 ((dp a).add (dp (rne64 ((dp (dev p.2)).mul (dp (dev p.2))))))) 0
    let v := rne64 ((dp q).div (Fp.ofInteger m))
    if (dp v).eqIeee (dp 0) then ⟨4, mean, 0, zeros⟩
    else
      let sigma := rne64 (specSqrt (dp v))
      let t := rne64 ((dp sigma).add (fp eps))
      ⟨0, mean, sigma, l.map fun p => if p.1 = 1 then rne32 (dp (rne64 ((dp (dev p.2)).div (dp t)))) else 0⟩

/-- Ends the task of a member, or its queued record (13 R348 step 1, R345): whether there was one to end. -/
def State.cancelMember (s : State) (g i : Nat) : State × Bool :=
  let v := s.group g
  match s.tasks.find? (fun (_, t) => t.group == some (g, i) && !t.cancelling && (match t.state with | .ending _ => false | .gone => false | _ => true)) with
  | some (k, _) => (s.cancelTask k, true)
  | none =>
    let n := v.firstSub + i
    if decide ((s.queue v.queue).claimcount < n) && !(s.queue v.queue).cancelled.contains n && !(v.member i).ended then (s.cancelRecord v.queue n, true)
    else (s, false)

/-- A group that has resolved and whose members have all ended leaves the table; a GCANCEL that has not been applied then has
cancelled no task (13 R337, R345, R349). -/
def State.leaveTable (s : State) (g : Nat) : State :=
  let v := s.group g
  if v.state = 2 && v.members.all (·.ended) then
    { s with groups := SMap.del s.groups g
             tasks := s.tasks.map fun (i, t) => (i, if v.cancels.any (fun c => c.1 == i) then { t with answer := some 0 } else t) }
  else s

/-- The group resolves (13 R348). -/
def State.resolve (s : State) (g : Nat) (atDeadline : Bool) : State :=
  let v := s.group g
  if v.state ≠ 1 then s
  else
    let open' := v.members.zipIdx.filter fun (m, _) => m.status == 0
    let members := v.members.map fun m => if m.status = 0 then { m with status := 5 } else m
    let st := groupStats (members.map fun m => (m.status, m.reward)) (v.field 1 1) (BitVec.ofNat 32 (v.field 4 4))
    let v1 := { v with
      members := members, state := 2, res := 1 + (if atDeadline then 2 else 0) + st.flags, resTick := s.ptc, mean := st.mean, sigma := st.sigma
      pause := v.pauseNow s.ptc, pausedAt := none }
    let s1 := open'.foldl (fun s (_, i) => (s.cancelMember g i).1) (s.setGroup g v1)
    let s2 := (s1.putMem' v.ctx (v.field 0x18 8) (st.advs.flatMap fun a => leBytes 4 a.toNat)).putMem' v.ctx (v.field 0x20 8)
      (members.flatMap fun m => leBytes 1 m.status)
    let s3 := s2.writeGroup g
    ({ s3 with turn := s3.turn ++ [(s3.cur, .event (.gwaitRelease g))] } : State).leaveTable g

/-- GWAIT_RELEASE (13 R344, R348 step 5): waiters may go on; a yielded one becomes a candidate again. -/
def execGwaitRelease (g : Nat) (s : State) : Answer :=
  .next { s with tasks := s.tasks.map fun (i, t) =>
    (i, if t.wait = .group g false then { t with wait := .none } else t) }

/-! ### The unit's events (13 R347) -/

/-- GROUP_DEADLINE (13 R347 step 1): the group resolves; reports and cancellations of the tick are discarded. -/
def execGroupDeadline (g : Nat) (s : State) : Answer :=
  let v := s.group g
  if v.state ≠ 1 then .next s
  else
    let (now, rest) := v.cancels.partition fun c => decide (c.2.2 ≤ s.ptc)
    let s1 := s.setGroup g { v with reports := [], cancels := rest }
    let s2 : State := { s1 with tasks := s1.tasks.map fun (i, t) => (i, if now.any (fun c => c.1 == i) then { t with answer := some 0 } else t) }
    .next (s2.resolve g true)

/-- Status of a reward (13 R339, R343). -/
def rewardStatus (r : BitVec 32) : Nat :=
  match fp r with
  | .nan => 2
  | .inf _ => 3
  | .fin _ _ _ => 1

/-- GROUP_REPORT_APPLY (13 R343, R347 step 2). -/
def execGroupReportApply (g i : Nat) (s : State) : Answer :=
  let v := s.group g
  match v.reports.find? (fun r => r.1 == i) with
  | none => .next s
  | some (_, r, _) =>
    let v1 := { v with reports := v.reports.filter fun x => x.1 != i }
    .next (if v.state ≠ 1 || (v.member i).status ≠ 0 then s.setGroup g v1
      else
        let v2 := { v1.setMember i { v1.member i with status := rewardStatus r, reward := r } with nrep := v.nrep + 1 }
        let s1 := (s.setGroup g v2).putMem' v.ctx (v.field 0x10 8 + 4 * i) (leBytes 4 r.toNat)
        (s1.putMem' v.ctx (v.field 0x20 8 + i) (leBytes 1 (rewardStatus r))).writeGroup g)

/-- What a view leaves behind is discarded (12 R332, 13 R349). -/
def State.freeView (s : State) (view : Nat) : State :=
  { s with versions := s.versions.filter (fun w => w.view != view)
           contexts := s.contexts.map fun (c, x) => (c, { x with ranges := x.ranges.filter fun (_, r) => r.view != view }) }

/-- GROUP_MEMBER_END (13 R347 step 3, R349). -/
def execGroupMemberEnd (g i : Nat) (s : State) : Answer :=
  let v := s.group g
  let m := v.member i
  if v.size ≤ i || m.ended then .next s
  else
    let code := match m.ending with
      | some .retired => 7
      | some .faulted => 6
      | _ => 4
    let m1 := { m with ended := true, ending := none, status := if m.status = 0 && decide (v.state = 1) then code else m.status }
    let v1 := { v.setMember i m1 with nend := v.nend + 1 }
    .next (((((s.setGroup g v1).pauseGroup g).writeGroup g).freeView m.view).leaveTable g)

/-- The cancellation that the unit takes next: by its issuer's queue, then submission number (13 R347 step 4). -/
def State.nextCancel (s : State) (v : Group) : Option (Nat × Option Nat × Nat) :=
  let key := fun (c : Nat × Option Nat × Nat) => let t := SMap.get {} s.tasks c.1; [c.2.2, t.queue, t.subnum]
  (v.cancels.filter fun c => decide (c.2.2 ≤ s.ptc)).foldl (fun b c =>
    match b with
    | none => some c
    | some x => if keyLt (key c) (key x) then some c else some x) none

/-- GROUP_CANCEL_APPLY (13 R345, R347 step 4). -/
def execGroupCancelApply (g : Nat) (s : State) : Answer :=
  let v := s.group g
  match s.nextCancel v with
  | none => .next s
  | some c =>
    let targets := match c.2.1 with | none => List.range v.size | some i => [i]
    let s0 := s.setGroup g { v with cancels := v.cancels.filter fun x => x != c }
    let (s1, n) : State × Nat := targets.foldl (fun (acc : State × Nat) i =>
      let (t, hit) := acc.1.cancelMember g i
      let w := t.group g
      let m := w.member i
      let t1 := if hit && decide (m.status = 0) && decide (w.state = 1) then t.setGroup g (w.setMember i { m with status := 4 }) else t
      (t1, acc.2 + (if hit then 1 else 0))) (s0, 0)
    let t : Task := SMap.get {} s1.tasks c.1
    .next (({ s1 with tasks := if SMap.has s1.tasks c.1 then SMap.put s1.tasks c.1 { t with answer := some n } else s1.tasks }).writeGroup g)

/-- A group that is complete resolves at the end of its tick (13 R347 step 5). -/
def State.completeGroup (s : State) : Option Nat :=
  (s.groups.find? fun (_, v) => decide (v.state = 1) && v.members.all fun m => decide (m.status ≠ 0)).map (·.1)

end Sys2Proof.Machine
end

