-- ==== Sys2Proof/Machine/Service.lean ====
section
/-!
DEFINITION. Firmware's services to the memory system: translation faults and flushes (11 R313, R314), page migration
(11 R315), slices and copies (14 R352 to R358), storage errors and retirement (17 R382 to R386).
-/

namespace Sys2Proof.Machine

/-! ### Translation (11 R313, R314) -/

/-- Writes aligned 8-byte fields of the page table, by physical address: firmware's writes are writes of view 0 like any
other (11 R313, 12 R322, R336); acting for a context it does not reach a granule of another one (18 R393). -/
def State.editTable (s : State) (acts : Option Nat) (edit : List (Nat × Word)) : State :=
  edit.foldl (fun s (pa, v) =>
    if pa % 8 ≠ 0 then s
    else match acts.filter fun c => s.foreign c pa with
      | some c => s.logForeign c pa 0
      | none => s.systemWrite pa (leBytes 8 v.toNat)) s

/-- The context whose quota an edit of the page table waits for, if one does (12 R334). -/
def State.editShort (s : State) (edit : List (Nat × Word)) : Option Nat := hedgeRun 0 (edit.map fun p => (p.1, 0, 0)) s

/-- Another write holds a line that an edit reaches (12 R334, 14 R354). -/
def State.editLocked (s : State) (edit : List (Nat × Word)) : Bool := edit.any fun p => s.locked (p.1 / 128) (0, 2 ^ 32, 0)

/-- What firmware does with an edit waits at its lines' homes while it must, and is tried again (12 R334, 14 R354). -/
def State.afterEdit (s : State) (edit : List (Nat × Word)) (i : Instr) (go : State) : State :=
  if s.editLocked edit || (s.editShort edit).isSome then
    let s1 : State := { s with inbox := s.inbox ++ [(s.later, i)], fresh := s.fresh + 1 }
    match s.editShort edit with
    | some c => s1.ask c
    | none => s1
  else go

/-- Physical ranges that a radix table maps (11 R308). -/
def radixRanges (s : State) : Nat → Nat → List (Nat × Nat)
  | 0, _ => []
  | left + 1, t =>
    let level := 3 - left
    (List.range (if level = 3 then 32 else 512)).flatMap fun i =>
      let e := s.physNat (t + 8 * i) 8
      let adr := e / 256 % 2 ^ 44 * 256
      if e % 2 = 0 then [] else if e / 2 % 2 = 1 then [(adr, radixPage level)] else radixRanges s left adr

/-- Physical ranges of the SEALED pages that a page table maps (11 R306, 18 R393). -/
def sealedRanges (s : State) : Nat → Nat → List (Nat × Nat)
  | 0, _ => []
  | fuel + 1, node =>
    let n := s.physNat (node + 1) 1
    if s.physNat node 1 = 0 then (List.range n).flatMap fun i => sealedRanges s fuel (nodeChild s node i)
    else (List.range n).flatMap fun j =>
      let l := leafAt s node j
      if !l.attr.testBit 9 then [] else if l.rdx then radixRanges s 3 l.target else [(l.target, l.limit - l.base)]

/-- Discards every TLB entry of a context. -/
def State.flush (s : State) (c : Nat) : State := s.setCtx c { s.ctx c with tlb := [] }

/-- An access of the context that has not performed yet holds a translation that the page table gives no more. -/
def State.staleHeld (s : State) (c : Nat) : Bool :=
  let stale := fun (va : Nat) (tr : Nat × Nat) => match walk s c va with | .ok w => w.pa != tr.1 || w.leaf.attr != tr.2 | .error _ => true
  s.tasks.any fun (_, t) => t.ctx == c && t.cores.any fun (_, k) =>
    (k.loads.any fun e => e.value.isNone && e.tr.any (stale e.va.toNat)) ||
    (k.stores.any fun e => !e.isMark && e.tr.any (stale e.va.toNat)) ||
    k.ranges.any fun e => e.pages.any fun p => stale p.1 p.2

/-- Accesses of a core that have not been sent take the translation that the page table gives now (11 R313: before the flush completes
either may be used); in timed code one that has none any more waits for one, in loose code the old one stays. -/
def State.retranslate (s : State) : State :=
  let c := s.core
  let again := fun (va : Nat) (k : Access) (tr : Option (Nat × Nat)) => match tr, translateAs s s.agent va k with
    | some _, .ok pa attr => some (pa, attr)
    | _, _ => if s.timed then none else tr
  let pages := fun (e : RangeEntry) => match s.rangeWalk e.access (rangePages e.va.toNat e.len) with
    | .ok l => l
    | .error _ => if s.timed then [] else e.pages
  let unsent := fun (seq : Nat) => !c.stores.any fun e => e.seq == seq && !e.isMark && e.sent.isSome
  s.setCore { c with
    loads := c.loads.map fun e => if e.value.isNone && e.sent.isNone && (e.cls != 4 || unsent e.seq) then
      { e with tr := again e.va.toNat (if e.cls = 4 then .amo else .read) e.tr } else e
    stores := c.stores.map fun e => if !e.isMark && e.sent.isNone then { e with tr := again e.va.toNat e.access e.tr } else e
    ranges := c.ranges.map fun e => if e.sent.isSome || e.pages.isEmpty then e else { e with pages := pages e } }

/-- The same for every core of a context's tasks. -/
def State.retranslateAll (s : State) (c : Nat) : State :=
  (s.tasks.filter fun (_, t) => t.ctx == c).foldl (fun s (i, t) =>
    t.cores.foldl (fun s (k, _) => { ({ s with cur := { task := i, core := k } } : State).retranslate with cur := s.cur }) s) s

/-- Dirty bytes of die copies are written back where nothing stands in the way: a store performs at system agent scope only then
(08 R252, 14 R357), and a slice may write back at any tick (14 R358). -/
def State.cleanCopies (s : State) : State :=
  s.copies.foldl (fun s c => if c.dirty = 0 || s.locked c.line (0, 2 ^ 32, 0) then s
    else if s.writeBackOk c.die c.line then s.writeBack c.die c.line else s.ask ((s.hedgeShort 0 c.line 0).getD 0)) s

/-- Pages that a sealed context maps as SEALED have the context as their owner from the flush on (18 R393; DEDUCED,
notes/assumptions/33.md). -/
def State.ownSealed (s : State) (c : Nat) (l : List (Nat × Nat)) : State :=
  if (s.ctx c).isSealed then
    l.foldl (fun s (a, n) =>
      { s with owners := s.owners ++ (s.owners.foldl (fun l (b, k, _) => cutRanges l b k) [(a, n)]).map fun (b, k) => (b, k, c) }) s
  else s

/-- Frozen regions of a context, where a store or range instruction that waited for its translation has got one, move their resume
tick (05 R174, 11 R314); `old` is the state before. -/
def State.noteResolved (s : State) (c : Nat) (old : State) : State :=
  let waits := fun (s : State) (i n : Nat) =>
    ((List.range n).map fun k => (({ s with cur := { task := i } } : State).storeUntranslated k).length).foldl (· + ·) 0
  { s with tasks := s.tasks.map fun (i, t) =>
      (i, match t.region.freeze with
        | some z => if t.ctx = c && decide (waits s i t.region.ncores < waits old i t.region.ncores) then
            { t with region := { t.region with freeze := some { z with lastLand := s.ptc } } } else t
        | none => t) }

/-- A flush begins or goes on: every TLB entry goes; it is complete when every access that used one has performed at system agent
scope (11 R313). `old` is the state before the change that it makes known. -/
def State.startFlush (s : State) (c : Nat) (old : State) : State :=
  let s1 := ((s.flush c).retranslateAll c).ownSealed c (sealedRanges s 9 (s.ctx c).ptroot)
  let s2 := if s1.staleHeld c then s1 else s1.cleanCopies
  if s1.staleHeld c || s2.copies.any (fun x => decide (x.dirty ≠ 0)) then
    { s2.setCtx c { s2.ctx c with flushing := true } with inbox := s2.inbox ++ [(s2.later, .translationFlush c)], fresh := s2.fresh + 1 }
  else (s2.setCtx c { s2.ctx c with flushing := false }).noteResolved c old

/-- TRANSLATION_FLUSH (11 R313). -/
def execTranslationFlush (c : Nat) (s : State) : Answer := .next (s.startFlush c s)

/-- TRANSLATION_FAULT_RESOLVE (11 R314): the edit, and the flush before the access is served again. -/
def execTranslationFaultResolve (c : Nat) (edit : List (Nat × Word)) (s : State) : Answer :=
  .next (s.afterEdit edit (.translationFaultResolve c edit) ((s.editTable (some c) edit).startFlush c s))

/-- The trap of an access of a region that cannot translate, once firmware has declared its faults unresolvable: core, unit,
code offset. Queued accesses of the CPs come first, then engines' items (11 R314). -/
def State.stuckFault (s : State) : Option (Trapped × Nat × Word) :=
  ((s.setRegion { s.region with declared := true }).queueFaults.head?.map fun (k, pc, cause, sub, tval) => (⟨cause, sub, tval⟩, k, pc)).orElse fun _ =>
  s.region.agenda.findSome? fun p =>
    if p.landed then none
    else match ((s.onItem p).itemAsk p).2 with
      | .wait va t => some (⟨(trCause t).1, (trCause t).2, BitVec.ofNat 64 va⟩, p.by', p.pc)
      | _ => none

/-- TRANSLATION_FAULT_UNRESOLVABLE (11 R314, 05 R177): a frozen region is aborted at once; another one when the item's
cycle comes. -/
def execTranslationFaultUnresolvable (i : Nat) (s : State) : Answer :=
  let f : State := { s with cur := { task := i } }
  if !f.region.active then .next s
  else
    match f.region.freeze, f.stuckFault with
    | some _, some (t, k, pc) =>
      .next ((f.at' k).faultTask ⟨causeWord t.cause t.sub, pc, t.tval, some f.rt, k, true, false, (f.coreAt k).handler⟩)
    | _, _ => .next { f.setRegion { f.region with declared := true } with cur := s.cur }

/-! ### Page migration (11 R315) -/

/-- Lines of a granule. -/
def granuleLines : Nat := 512

/-- Replaces the remap entry of a granule on the die that its address names. -/
def State.setRemap (s : State) (g : Nat) (r : Option Remap) : State :=
  let d := Config.paDie (g * 0x10000)
  let v := s.die d
  let rest := v.remaps.filter fun x => x.granule != g
  s.setDie d { v with remaps := match r with | some r => r :: rest | none => rest }

/-- MIGRATION_COPY (11 R315 step 1): starts a migration of a granule from where it stands, and copies its next line; what stood in the
target's line is saved as for any write (12 R322, R336), which may have to wait (R334). -/
def execMigrationCopy (g target : Nat) (s : State) : Answer :=
  let pa := g * 0x10000
  if !Config.deviceStorage pa || !Config.deviceStorage (target * 0x10000) then .next s
  else
    let r : Remap := match s.remap pa with
      | some r => if r.flipped then ⟨g, r.target, target, 0, false⟩ else r
      | none => ⟨g, g, target, 0, false⟩
    if (s.remap pa).isNone && decide (4096 ≤ (s.die (Config.paDie pa)).remaps.length) then .next s
    else if granuleLines ≤ r.copied then .next s
    else if !s.hedgeOk 0 (r.target * granuleLines + r.copied) 0 then .next (s.ask ((s.hedgeShort 0 (r.target * granuleLines + r.copied) 0).getD 0))
    else
      let bytes := s.readPas (pa + 128 * r.copied) 128
      let at' := r.target * 0x10000 + 128 * r.copied
      let mem := bytes.zipIdx.foldl (fun m (b, i) => SMap.set 0 m (at' + i) b) s.mem
      .next ({ s.saveShadows (at' / 128) 0 with mem := mem }.setRemap g (some { r with copied := r.copied + 1 }))

/-- MIGRATION_FLIP (11 R315 step 2). -/
def execMigrationFlip (g : Nat) (s : State) : Answer :=
  match s.remap (g * 0x10000) with
  | some r => .next (if decide (granuleLines ≤ r.copied) then s.setRemap g (some { r with flipped := true }) else s)
  | none => .next s

/-- What the memory system keeps about a granule's lines goes by the new address (11 R315, R316, 12 R321, 13 R337), and so do the accesses
that have been translated to it: they reach the same storage. -/
def State.rename (s : State) (g target : Nat) : State :=
  let line := fun (l : Nat) => if l / granuleLines = g then target * granuleLines + l % granuleLines else l
  let cut := fun (a n : Nat) =>
    let lo := max a (g * 0x10000)
    let hi := min (a + n) ((g + 1) * 0x10000)
    if lo < hi then [(a, lo - a), (target * 0x10000 + lo % 0x10000, hi - lo), (hi, a + n - hi)].filter fun p => p.2 != 0 else [(a, n)]
  let byte := fun (a : Nat) => if a / 0x10000 = g then target * 0x10000 + a % 0x10000 else a
  let tr := fun (p : Nat × Nat) => (byte p.1, p.2)
  { s with
    tasks := s.tasks.map fun (i, t) => (i, { t with
      region := { t.region with agenda := t.region.agenda.map fun p => { p with held := p.held.map line } }
      cores := t.cores.map fun (k, c) => (k, { c with
        loads := c.loads.map fun e => { e with tr := e.tr.map tr }
        stores := c.stores.map fun e => { e with tr := e.tr.map tr }
        ranges := c.ranges.map fun e => { e with pages := e.pages.map fun p => (p.1, byte p.2.1, p.2.2) } }) })
    poison := s.poison.map line
    allocated := s.allocated.map line
    history := s.history.map fun h => { h with pa := byte h.pa }
    groups := s.groups.map fun (i, v) => (i, { v with pa := byte v.pa })
    versions := s.versions.map fun v => { v with line := line v.line }
    copies := s.copies.map fun c => { c with line := line c.line }
    deadKey := s.deadKey.flatMap fun (a, n) => cut a n
    owners := s.owners.flatMap fun (a, n, o) => (cut a n).map fun (x, m) => (x, m, o)
    contexts := s.contexts.map fun (c, x) => (c, { x with
      ranges := x.ranges.map (fun (k, r) => (k, { r with extent := r.extent.flatMap fun (a, n) => cut a n })), tlb := [] }) }

/-- Copies of a granule's lines on the die that becomes their home are evicted (11 R316, 14 R358). -/
def State.evictAt (s : State) (g d : Nat) : State :=
  (s.copies.filter fun c => c.die == d && c.line / granuleLines == g).foldl (fun s c => (s.writeBack d c.line).dropCopy d c.line) s

/-- Some copy to be evicted has to wait: for a write that holds its line, or for the Hedgerow (12 R334, 14 R354): the context. -/
def State.evictWaits (s : State) (g d : Nat) : Option (Option Nat) :=
  (s.copies.find? fun c => c.die == d && c.line / granuleLines == g && (s.locked c.line (0, 2 ^ 32, 0) || !s.writeBackOk d c.line)).map fun c =>
    s.hedgeShort 0 c.line 0

/-- MIGRATION_CLEANUP (11 R315 step 3): the page table names the new storage, every TLB entry goes, what stood under the old address
stands under the new one, and the entry is free: all at one tick (DESIGN CHOICE, notes/assumptions/65.md). -/
def execMigrationCleanup (g : Nat) (edit : List (Nat × Word)) (s : State) : Answer :=
  match s.remap (g * 0x10000) with
  | some r =>
    let d := Config.paDie (r.target * 0x10000)
    .next (if !r.flipped then s
      else match s.evictWaits g d with
        | some c =>
          let s1 : State := { s with inbox := s.inbox ++ [(s.later, .migrationCleanup g edit)], fresh := s.fresh + 1 }
          (c.map s1.ask).getD s1
        | none =>
          s.afterEdit edit (.migrationCleanup g edit)
            (((((s.evictAt g d).editTable none edit).setRemap g none).rename g r.target)))
  | none => .next s

/-! ### Slices and copies (14 R352 to R358) -/

/-- The replacement request is set, with its entry (17 R385, R386). -/
def State.requestReplacement (s : State) (d unit index : Nat) : State :=
  { s with replReq := true }.rasLog { type := 7, unit := unit, flags := 8, die := d, index := index }

/-- The entry of a retirement, and the request where no spare was left. -/
def State.retired (s : State) (d unit index : Nat) (spare : Bool) : State :=
  let s1 := s.rasLog { type := 6, unit := unit, flags := if spare then 4 else 8, die := d, index := index }
  if spare then s1 else s1.requestReplacement d unit index

/-- Slices that a die's map names now. -/
def State.slicesInUse (s : State) (d : Nat) : List Nat := ((List.range 4096).map (s.sliceOf d)).eraseDups
/-- Spare slices that a die has left, beside slice k (14 R353, 17 R384). -/
def State.spareSlices (s : State) (d k : Nat) : List Nat :=
  (resetSpares d (s.die d).fusedSlices).filter fun i => i != k && !(s.die d).retiredSlices.contains i && !(s.slicesInUse d).contains i

/-- A slice that serves no more, or that the die does not have. -/
def State.sliceGone (s : State) (d k : Nat) : Bool :=
  (s.die d).retiredSlices.contains k || (fuseRetired d).contains k || !decide (k < Config.slices d + 2)

/-- SLICE_RETIRE (14 R355, 17 R384, R386): the slice's buckets go to a spare while one remains, else they are spread over the
rest; GEN rises, and the retirement is logged. -/
def execSliceRetire (d k : Nat) (s : State) : Answer :=
  let v := s.die d
  if s.sliceGone d k then .next s
  else
    let rest := (s.slicesInUse d).filter (· != k)
    let to' := fun (b : Nat) => match (s.spareSlices d k).head? with
      | some i => i
      | none => rest.getD (b % max 1 rest.length) 0
    let map := (List.range 4096).foldl (fun m b => if s.sliceOf d b = k then SMap.put m b (to' b) else m) v.sliceMap
    .next ((s.setDie d { v with sliceMap := map, smgen := (v.smgen + 1) % 2 ^ 32, retiredSlices := k :: v.retiredSlices }).retired
      d 2 k (!(s.spareSlices d k).isEmpty))

/-- COPY_EVICTION (14 R358): its write-back finds the Hedgerow lines it needs and no write that holds the line, or the copy stays, while
firmware is asked (12 R322, R334, 14 R354). -/
def execCopyEviction (d line : Nat) (s : State) : Answer :=
  .next (if s.locked line (0, 2 ^ 32, 0) then s
    else if s.writeBackOk d line then (s.writeBack d line).dropCopy d line else s.ask ((s.hedgeShort 0 line 0).getD 0))

/-! ### Errors in storage (17 R382, R383, R386) -/

/-- Unit of a place as the RAS log numbers it, its physical unit index and address, its die (17 R386). -/
def State.rasOf (s : State) (p : StoragePlace) : Ras :=
  let on := fun (unit t k : Nat) =>
    let f : State := { s with cur := { task := t, core := k } }
    ({ type := 0, unit := unit, die := f.myDie, index := f.physCore k } : Ras)
  match p with
  | .line pa => { type := 0, unit := 1, die := Config.paDie (s.storage pa), index := Config.channelOf (s.storage pa), pa := pa }
  | .copy d pa => { type := 0, unit := 2, die := d, index := s.sliceOf d (bucketOf (s.storage pa)), pa := pa }
  | .scratch t k _ => on 3 t k
  | .code t k _ => on 6 t k
  | .reg t k _ => on 5 t k
  | .loadEntry t k _ => on 5 t k
  | .storeEntry t k _ => on 5 t k
  | .formatEntry t k _ _ => on 5 t k
  | .pending t k _ => on 5 t k
  | .gridReg t k _ _ => on 5 t k
  | .link t k n => { on 4 t k with index := n }
  | .incoming t k n => { on 4 t k with index := n }
  | .residual t k n => { on 4 t k with index := n }

/-- CORRECTABLE_ERROR (17 R382): the value is corrected, and an entry is written. -/
def execCorrectableError (p : StoragePlace) (s : State) : Answer := .next (s.rasLog { s.rasOf p with type := 1 })

/-- Changes a core of a task. -/
def State.mapCore (s : State) (t k : Nat) (f : Core → Core) : State :=
  if SMap.has s.tasks t then
    let x := SMap.get {} s.tasks t
    { s with tasks := SMap.put s.tasks t { x with cores := x.cores.map fun (i, c) => (i, if i = k then f c else c) } }
  else s

/-- A link slot's storage error freezes the chain for which the slot stands as a link or is held as a residual
(07 R225, R243, R244). -/
def State.freezeLink (s : State) (t k n : Nat) : State :=
  let f : State := { s with cur := { task := t, core := k } }
  let l := f.core.link n
  match l.role with
  | .unbuilt => s
  | .hop => { s with turn := (f.cur, .event (.chainFreeze l.chain l.hop 1)) :: s.turn }
  | .residual => { s with turn := (f.cur, .event (.chainFreeze l.chain l.hop 3)) :: s.turn }

/-- The granule of a place is poisoned, its value unchanged (17 R382). -/
def State.poisonPlace (s : State) (p : StoragePlace) : State :=
  match p with
  | .line pa => { s with poison := pa / 128 :: s.poison.filter (· != pa / 128) }
  | .copy d pa =>
    match s.copyOf d (pa / 128) with
    | some c => s.putCopy { c with poison := true }
    | none => s
  | .scratch t k a => s.mapCore t k fun c => { c with scratchPoison := a / 64 :: c.scratchPoison.filter (· != a / 64) }
  | .code t k o =>
    let n := if (SMap.get {} s.tasks t).region.active then o / 4 else 0x10000 + o / 4
    s.mapCore t k fun c => { c with codePoison := n :: c.codePoison.filter (· != n) }
  | .reg t k r => if r = 0 then s else s.mapCore t k fun c => { c with regPoison := r.toNat :: c.regPoison.filter (· != r.toNat) }
  | .loadEntry t k i => s.mapCore t k fun c => { c with queuePoison := ((c.loads[i]?).map (·.seq)).toList ++ c.queuePoison }
  | .storeEntry t k i => s.mapCore t k fun c => { c with storePoison := (((c.stores.filter fun e => !e.isMark)[i]?).map (·.seq)).toList ++ c.storePoison }
  | .formatEntry t k u i => s.mapCore t k fun c => if i < (c.arr u).fq.length then c.setArr u { c.arr u with fqBad := i :: (c.arr u).fqBad } else c
  | .gridReg t k e r => s.mapCore t k fun c => { c with gridPoison := (64 * e + r) :: c.gridPoison.filter (· != 64 * e + r) }
  | .pending t k i =>
    let x := SMap.get {} s.tasks t
    if SMap.has s.tasks t then
      let l := (x.region.agenda.filter fun p => p.core == k).map (·.seq)
      { s with tasks := SMap.put s.tasks t { x with region := { x.region with badPend := (l[i]?).toList ++ x.region.badPend } } }
    else s
  | .link t k n => s.freezeLink t k n
  | .incoming t k n => s.freezeLink t k n
  | .residual t k n => s.freezeLink t k n

/-- A place in a line that loose code has fetched ahead and no path consumes: the line is invalidated (17 R383). -/
def State.fetchedAhead (s : State) (p : StoragePlace) (consumed : Bool) : Bool :=
  match p with
  | .code t _ _ => !consumed && !(SMap.get {} s.tasks t).region.active
  | _ => false

/-- UNCORRECTABLE_ERROR (17 R382, R383). A fetched line that no path consumes is logged and fetched again. -/
def execUncorrectableError (p : StoragePlace) (consumed : Bool) (s : State) : Answer :=
  let ahead := s.fetchedAhead p consumed
  let r := { s.rasOf p with type := 2, flags := (if consumed then 0 else 1) + (if ahead then 0 else 2) }
  .next ((if ahead then s else s.poisonPlace p).rasLog r)

/-! ### Retirement (17 R384, R385) -/

/-- Tasks that hold a physical core are pre-empted by firmware (17 R384). -/
def State.vacate (s : State) (d c : Nat) : State :=
  { s with inbox := s.inbox ++ (s.tasks.filterMap fun (i, t) =>
      if t.places.any (fun (_, l, k) => decide (SMap.get l t.dies l = d) && decide (k = c)) then some (s.ptc, .preemptionRequest i) else none) }

/-- A core is retired (17 R384). -/
def State.retireCore (s : State) (d c : Nat) : State :=
  let v := s.die d
  if v.retiredCores.contains c then s
  else ((s.setDie d { v with retiredCores := c :: v.retiredCores }).vacate d c).retired d 9 c (decide (v.retiredCores.length < Config.spareCores d))

/-- A memory channel or device region is retired (17 R384). -/
def State.retireMemory (s : State) (d k : Nat) (spare : Bool) : State :=
  let v := s.die d
  if v.retiredMemory.contains k then s else (s.setDie d { v with retiredMemory := k :: v.retiredMemory }).retired d 1 k spare

/-- RESOURCE_RETIRE (17 R384, R385) (DEDUCED, notes/assumptions/46.md). -/
def execResourceRetire (r : Resource) (s : State) : Answer :=
  match r with
  | .core d c => .next (s.retireCore d c)
  | .linkSlot d c i =>
    let n := SMap.get 0 (s.die d).retiredLinks c
    .next (if n < 16 then (s.setDie d { s.die d with retiredLinks := SMap.put (s.die d).retiredLinks c (n + 1) }).retired d 4 i true
      else s.retireCore d c)
  | .slice d k =>
    .next (if s.sliceGone d k then s else { s with turn := (s.cur, .event (.sliceRetire d k)) :: s.turn })
  | .hbmChannel d k => .next (s.retireMemory d k (Config.channelSpare d k (s.die d).retiredMemory))
  | .gddrRegion d k => .next (s.retireMemory d k false)

end Sys2Proof.Machine
end

