-- ==== Sys2Proof/Machine/Host.lean ====
section
/-!
DEFINITION. The host, trust, Thavy links, checkpoints, power and bring-up: registers that the host and firmware write, the
memory window, messages, attestation, sealing, flits, peer transfers and the whole-device checkpoint
(10 R274, R275, R282, 11 R317, 18 R387 to R407).
-/

namespace Sys2Proof.Machine

/-- A function's record. -/
def State.fn (s : State) (k : Nat) : HostFn := SMap.get {} s.fns k
/-- Replaces a function's record. -/
def State.setFn (s : State) (k : Nat) (f : HostFn) : State := { s with fns := SMap.put s.fns k f }
/-- Sends something out of the package. -/
def State.emit (s : State) (o : Output) : State := { s with outbox := s.outbox ++ [o] }

/-! ### Registers (10 R274, R275, R282, R287, 11 R302, 17 R381, 18 R389, R397) -/

/-- NOTIFY with the bits of queues outside the context discarded (18 R389). -/
def State.notifyBytes (s : State) (fn off : Nat) (bytes : List Byte) : List Byte :=
  bytes.zipIdx.map fun (b, i) =>
    (List.range 8).foldl (fun a k => if b.getLsbD k && decide ((s.queue (8 * (off + i) + k)).ctx = fn) then a ||| (1 <<< k) else a) 0

/-- The number by which FSTAT names a TDI state (18 R389). -/
def tdiCode : TdiState → Nat
  | .unlocked => 0
  | .locked => 1
  | .run => 2
  | .error => 3

/-- FSTAT of a function (18 R389). -/
def State.fstat (s : State) (fn : Nat) : Nat :=
  (if s.replReq then 1 else 0) + 4 * (if fn = 0 then 0 else tdiCode (s.ctx fn).tdi) + (if (s.ctx fn).isSealed then 16 else 0) +
  (if s.ports.any (fun (_, p) => p.latency != 0 && !p.aligned) then 32 else 0) + 256 * fn

/-- An 8-byte register of the function page at offset o (18 R389); a context without a fault queue has counted nothing (a queue at
address 0 counts as none: DESIGN CHOICE, notes/assumptions/39.md). -/
def State.pageRead (s : State) (fn o : Nat) : Nat :=
  let f := s.fn fn
  if o = 0 then s.fstat fn
  else if 0x10 ≤ o && o < 0x30 then leNat (takeBytes f.notify (o - 0x10) 8)
  else if o = 0x30 then (if (s.ctx fn).fqBase = 0 then 0 else s.numAt fn (s.ctx fn).fqBase 8)
  else if o = 0x38 then (if (s.ctx fn).fqBase = 0 then 0 else s.numAt fn ((s.ctx fn).fqBase + 16) 8)
  else if fn ≠ 0 then 0
  else if o = 0x40 then s.dies.foldl (fun n (_, d) => n + d.rasCount) 0
  else if o = 0x48 then f.rassel.toNat
  else if 0x80 ≤ o && o < 0xC0 then
    leNat ((((s.die (f.rassel.toNat % 16)).ras.getD (f.rassel.toNat / 16 % 65536) []).drop (o - 0x80)).take 8)
  else 0

/-- Eight bytes at offset o of the MSI-X table, which three entries of 16 bytes make up (address, data, mask), and of the pending bits
behind it (18 R388; the entries' layout is PRESUMED, notes/assumptions/13.md). -/
def State.msixRead (s : State) (fn o : Nat) : Nat :=
  let f := s.fn fn
  let v := o / 16
  let m := SMap.get (0, 0) f.msgs v
  if o < 48 then (if o % 16 = 0 then m.1 else m.2 + (if f.masked.contains v then 2 ^ 32 else 0))
  else if o = 48 then (List.range 3).foldl (fun n v => n + (if f.msixPending.contains v && f.masked.contains v then 2 ^ v else 0)) 0
  else 0

/-- Eight bytes at offset o of BAR0 (18 R388). -/
def State.barWord (s : State) (fn o : Nat) : Nat :=
  if o < 0x1000 then s.pageRead fn o
  else if o < 0x2000 then s.msixRead fn (o - 0x1000)
  else if 0x100000 ≤ o && o < 0x200000 then s.windowRead fn (o / 0x1000 - 0x100) (o % 0x1000)
  else 0

/-- The completion of a host read of BAR0, all at one tick (18 R388, R389); the data ports' functions have no BAR (18 R387). -/
def State.barAnswer (s : State) (fn off n : Nat) : Output :=
  if 64 ≤ fn || 0x200000 < off + n then .hostError fn
  else .hostData ((List.range n).map fun i => BitVec.ofNat 8 (s.barWord fn ((off + i) / 8 * 8) / 256 ^ ((off + i) % 8)))

/-- A port. -/
def State.port (s : State) (p : Nat) : Port := SMap.get {} s.ports p
/-- Replaces a port. -/
def State.setPort (s : State) (p : Nat) (v : Port) : State := { s with ports := SMap.put s.ports p v }
/-- A field of a flit's header. -/
def flitField (f : Flit) (lo n : Nat) : Nat := leNat (f.bytes.take 16) / 2 ^ lo % 2 ^ n
/-- The sequence number of a flit. -/
def flitSeq (f : Flit) : Nat := flitField f 0 12

/-- Sends an untimed flit: a new sequence number, a slot of the link's frame that no region holds (which one is free: DESIGN CHOICE,
notes/assumptions/40.md), and a place in the replay buffer of 2,048 flits (18 R398, R399). -/
def State.sendFlit (s : State) (p kind : Nat) (payload : List Byte) : State :=
  let v := s.port p
  if v.failed || Config.thavyPorts ≤ p || decide (2048 ≤ v.replay.length) then s
  else
    let head := v.sendSeq + 2 ^ 12 * ((v.expectSeq + 4095) % 4096) + 2 ^ 24 * kind + 2 ^ 28 * v.freeSlots.getD (Config.choose s.fresh % max 1 v.freeSlots.length) 63
    let bytes := leBytes 16 head ++ (payload ++ List.replicate (232 - payload.length) 0).take 232
    let f : Flit := ⟨bytes, crcBytes bytes 0⟩
    { (s.setPort p { v with sendSeq := (v.sendSeq + 1) % 4096, replay := v.replay ++ [f] }).emit (.flit p f) with fresh := s.fresh + 1 }

/-- Firmware's peer transfer: a view-0 write of a context of the peer package, in flits of at most 128 bytes each (18 R399). -/
def State.sendPeer (s : State) (p c va : Nat) (bytes : List Byte) : State :=
  (List.range ((bytes.length + 127) / 128)).foldl (fun s i =>
    s.sendFlit p 2 (flitBytes (.peerTransfer c (va + 128 * i) ((bytes.drop (128 * i)).take 128)))) s

/-- The state after a register write; a value that breaks a bound leaves the register as it is (18 R397) (DEDUCED, notes/assumptions/34.md). -/
def State.register (s : State) (r : RegWrite) : State :=
  match r with
  | .windowRecord fn q off bytes =>
    let v := s.queue q
    if s.windowOf fn q && decide (off + bytes.length ≤ 128) then s.setQueue q { v with window := putBytes v.window off bytes } else s
  | .notify fn off bytes =>
    let f := s.fn fn
    if off + bytes.length ≤ 32 then s.setFn fn { f with notify := putBytes f.notify off (s.notifyBytes fn off bytes) } else s
  | .rassel fn v => if fn = 0 then s.setFn 0 { s.fn 0 with rassel := v &&& 0xFFFFF } else s
  | .msixMask fn vec masked =>
    let f := s.fn fn
    s.setFn fn { f with masked := if masked then vec :: f.masked.filter (· != vec) else f.masked.filter (· != vec) }
  | .queueBase q base log2n ctx =>
    let v := s.queue q
    if v.enabled || decide (256 ≤ q) || decide (base.toNat % 128 ≠ 0) || decide (16 < log2n) || decide (64 ≤ ctx) then s
    else s.setQueue q { v with base := base, log2n := log2n, ctx := ctx }
  | .queuePrio q prio => if q < 256 && prio < 8 then s.setQueue q { s.queue q with prio := prio } else s
  | .queueDisable q => s.setQueue q { s.queue q with enabled := false }
  | .ptroot c pa => if c < 64 && pa % 256 = 0 && Config.deviceStorage pa then s.setCtx c { s.ctx c with ptroot := pa } else s
  | .saveArea c base stride count =>
    let x := s.ctx c
    if !x.held.isEmpty || decide (64 ≤ c) || decide (base % 0x10000 ≠ 0) || decide (stride % 0x10000 ≠ 0) || count = 0 || decide (4096 < count) then s
    else s.setCtx c { x with saveBase := base, saveStride := stride, saveCount := count }
  | .faultQueue c base log2n =>
    if c < 64 && base % 4096 = 0 && log2n ≤ 12 then
      (s.setCtx c { s.ctx c with fqBase := base, fqLog2n := log2n }).putMem' c base (leBytes 64 0)
    else s
  | .quota c lines => if c < 64 && lines ≤ (s.ctx c).quota + s.hedgeFree then s.setCtx c { s.ctx c with quota := lines } else s
  | .cePolicy c mx bx =>
    if c < 64 && 1 ≤ mx && mx ≤ 4 && 1 ≤ bx && bx ≤ 8 then s.setCtx c { s.ctx c with cesMx := mx, cesBx := bx } else s
  | .aging a => { s with aging := a }
  | .upstream p => { s with upstream := p }
  | .join c self bases latency aligned links =>
    if c < 64 && bases.length ≤ 16 && self < bases.length && links.all fun l => l.2.1 < Config.thavyPorts then
      s.setCtx c { s.ctx c with join := some ⟨self, bases, latency, aligned, links.map fun l => ⟨l.1, l.2.1, l.2.2⟩⟩ }
    else s
  | .msixEntry fn vec addr data =>
    if vec < 3 then s.setFn fn { s.fn fn with msgs := SMap.put (s.fn fn).msgs vec (addr % 2 ^ 64, data % 2 ^ 32) } else s
  | .barRead fn off n => s.emit (s.barAnswer fn off n)
  | .powerTarget w => if w < Config.powerLimit then { s with powerTarget := w } else s
  | .thermalTarget d v => if d < Config.numDies && v < Config.junctionLimit d then s.setDie d { s.die d with thermalTarget := v } else s
  | .peerSend p c va bytes => s.sendPeer p c va bytes
  | .tdiLock fn =>
    let x := s.ctx fn
    if 1 ≤ fn && fn < 64 && decide (x.tdi = .unlocked) && !x.unlocking then s.setCtx fn { x with tdi := .locked } else s

/-- REGISTER_WRITE. -/
def execRegisterWrite (r : RegWrite) (s : State) : Answer := .next (s.register r)

/-- SLIDEMAX_WRITE (05 R177). -/
def execSlidemaxWrite (v : Word) (s : State) : Answer :=
  .next (if 2 ^ 12 ≤ v.toNat && v.toNat ≤ 2 ^ 40 then { s with slidemax := v.toNat } else s)

/-! ### The memory window (11 R317, 18 R390, 17 R382) -/

/-- A function may reach a sealed page of its context (11 R317). -/
def State.trusted (s : State) (fn : Nat) : Bool := decide ((s.ctx fn).tdi = .run) && !(s.fn fn).ide.isEmpty

/-- One line's part of a host read: bytes, and the state with its entry. -/
def State.hostLine (s : State) (fn va pa attr n : Nat) : List Byte × State :=
  let ones : List Byte := List.replicate n 0xFF
  let refused := s.rasLog { type := 4, unit := 1, die := Config.paDie pa, pa := pa, va := va, ctx := fn, fn := fn }
  if attr.testBit 9 && !s.trusted fn then (ones, refused)
  else if s.foreign fn pa then (ones, refused)
  else if inRanges s.deadKey pa then (ones, s)
  else if s.poisoned 0 pa then (ones, s.rasLog { type := 3, unit := 1, die := Config.paDie pa, pa := pa, va := va, ctx := fn, fn := fn })
  else ((List.range n).map fun i => s.readView 0 (pa + i), s)

/-- A host read, line by line: the bytes, or the failing address. -/
def hostRead (fn : Nat) : Nat → State → Nat → Nat → Except Nat (List Byte × State)
  | 0, s, _, _ => .ok ([], s)
  | fuel + 1, s, va, n =>
    if n = 0 then .ok ([], s)
    else match translate s fn va .read with
      | .ok pa attr =>
        let m := inLine va n
        let (b, s1) := s.hostLine fn va pa attr m
        match hostRead fn fuel s1 (va + m) (n - m) with
        | .ok (rest, s2) => .ok (b ++ rest, s2)
        | .error v => .error v
      | _ => .error va

/-- The memory window of a function ends at 2^48; the data ports' functions have none (18 R387, R388). -/
def inWindow (fn va n : Nat) : Bool := decide (fn < 64) && decide (va + n ≤ 2 ^ 48)

/-- A read of a host function waits behind its earlier writes, and for lines that a write holds at their homes (14 R354, 18 R390). -/
def State.hostWaits (s : State) (fn va n : Nat) : Bool :=
  (s.hostHeld.any fun w => w.origin == fn && w.ctx == fn) || (s.outsideLines fn va n).any fun l => s.locked l (0, 2 ^ 32, 0)

/-- HOST_MEMORY_READ (18 R388, R390). -/
def execHostMemoryRead (fn va n : Nat) (s : State) : Answer :=
  if !inWindow fn va n then .next (s.emit (.hostError fn))
  else if s.hostWaits fn va n then .next { s with inbox := s.inbox ++ [(s.later, .hostMemoryRead fn va n)], fresh := s.fresh + 1 }
  else match hostRead fn (lineFuel n) s va n with
  | .ok (b, s1) => .next (s1.emit (.hostData b))
  | .error v => .next ((s.rasLog { type := 4, unit := 1, die := 0, va := v, ctx := fn, fn := fn }).emit (.hostError fn))

/-- The first address of a write at which a sealed page stands in its way (11 R317). -/
def State.sealedIn (s : State) (fn va n : Nat) : Option Nat :=
  ((List.range (lineFuel n)).map fun i => if i = 0 then va else (va / 128 + i) * 128).find? fun a =>
    decide (a < va + n) && (match translate s fn a .write with | .ok _ attr => attr.testBit 9 && !s.trusted fn | _ => false)

/-- HOST_MEMORY_WRITE (11 R317, 18 R388, R390): behind earlier writes of its function that wait (12 R334). -/
def execHostMemoryWrite (fn va : Nat) (bytes : List Byte) (s : State) : Answer :=
  if !inWindow fn va bytes.length then .next s
  else match s.sealedIn fn va bytes.length with
  | some a => .next (s.rasLog { type := 4, unit := 1, die := 0, va := a, ctx := fn, fn := fn })
  | none => .next (s.outsideWrite { ctx := fn, origin := fn, va := va, bytes := bytes })

/-- MSIX_MESSAGE (18 R391): at most one message of a vector every 2^12 ticks; a masked vector keeps its pending bit. -/
def execMsixMessage (fn vec : Nat) (s : State) : Answer :=
  let f := s.fn fn
  let last := f.lastMsg.find? (·.1 == vec)
  .next (if !f.msixPending.contains vec || f.masked.contains vec || last.any (fun p => decide (s.ptc < p.2 + 4096)) then s
    else (s.setFn fn { f with msixPending := f.msixPending.filter (· != vec), lastMsg := SMap.put f.lastMsg vec s.ptc }).emit (.msix fn vec (SMap.get (0, 0) f.msgs vec)))

/-! ### Attestation (18 R395, R396, PRESUMED, notes/assumptions/13.md) -/

/-- The SPDM responder of a transport. -/
def State.responder (s : State) (tr : Nat) : Spdm := SMap.get {} s.spdm tr
/-- Replaces a responder. -/
def State.setResponder (s : State) (tr : Nat) (v : Spdm) : State := { s with spdm := SMap.put s.spdm tr v }
/-- An answer of a responder: its code and content. -/
def State.reply (s : State) (tr code : Nat) (bytes : List Byte) : State := s.emit (.spdm tr code bytes)
/-- The ERROR answer with an error code. -/
def State.refuse (s : State) (tr code : Nat) : State := s.reply tr 0x7F (leBytes 1 code)
/-- A request is answered in version 1.3 alone, which is the one offered (18 R395). -/
def State.versioned (s : State) (rq : Req) (ok : State) : Answer := .next (if rq.version = 0x13 then ok else s.refuse rq.tr 0x41)
/-- A request that needs a negotiated connection. -/
def State.negotiated (s : State) (rq : Req) (ok : State) : Answer :=
  s.versioned rq (if (s.responder rq.tr).negotiated then ok else s.refuse rq.tr 4)

/-- GET_VERSION: version 1.3, and the connection starts anew; the request itself is one of version 1.0. -/
def execGetVersion (rq : Req) (s : State) : Answer :=
  .next (if rq.version = 0x10 then (s.setResponder rq.tr { versioned := true }).reply rq.tr 0x04 (leBytes 2 0x1300) else s.refuse rq.tr 0x41)
/-- GET_CAPABILITIES. -/
def execGetCapabilities (rq : Req) (s : State) : Answer :=
  let r := s.responder rq.tr
  s.versioned rq (if r.versioned then (s.setResponder rq.tr { r with capable := true }).reply rq.tr 0x61 [] else s.refuse rq.tr 4)
/-- NEGOTIATE_ALGORITHMS: P-521, SHA-512, secp521r1 and AES-256-GCM, no other choice. -/
def execNegotiateAlgorithms (rq : Req) (p521 sha secp aes : Bool) (s : State) : Answer :=
  let r := s.responder rq.tr
  s.versioned rq (if !r.capable then s.refuse rq.tr 4
    else if p521 && sha && secp && aes then (s.setResponder rq.tr { r with negotiated := true }).reply rq.tr 0x63 [] else s.refuse rq.tr 1)
/-- GET_DIGESTS: of the two certificate chains. -/
def execGetDigests (rq : Req) (s : State) : Answer :=
  s.negotiated rq (s.reply rq.tr 0x01 (sha512 (Config.certChain 0) ++ sha512 (Config.certChain 1)))
/-- GET_CERTIFICATE. -/
def execGetCertificate (rq : Req) (slot off len : Nat) (s : State) : Answer :=
  s.negotiated rq (if slot < 2 then s.reply rq.tr 0x02 (((Config.certChain slot).drop off).take len) else s.refuse rq.tr 1)

/-- Slices of a die that are retired, at fuse time or since (14 R353, 17 R384). -/
def State.goneSlices (s : State) (d : Nat) : List Nat := retiredAt d (s.die d).retiredSlices

/-- Retired units of the package: die, kind (9 core, 2 slice, 1 memory, 4 link slots of a core), index (18 R405). -/
def State.retiredUnits (s : State) : List (Nat × Nat × Nat) :=
  (List.range Config.numDies).flatMap fun d =>
    let v := s.die d
    v.retiredCores.map (fun c => (d, 9, c)) ++ (s.goneSlices d).map (fun k => (d, 2, k)) ++
    v.retiredMemory.map (fun k => (d, 1, k)) ++ v.retiredLinks.map fun c => (d, 4, 32 * c.1 + c.2)

/-- Bytes that name retired units. -/
def unitBytes (l : List (Nat × Nat × Nat)) : List Byte := l.flatMap fun (d, u, i) => leBytes 1 d ++ leBytes 1 u ++ leBytes 4 i

/-- Content of a measurement block that the state holds (18 R396). -/
def State.measured (s : State) : Nat → List Byte
  | 3 => leBytes 8 s.aging ++ leBytes 8 s.slidemax ++ s.contexts.flatMap fun (c, x) => leBytes 1 c ++ leBytes 8 x.quota ++ leBytes 1 (if x.isSealed then 1 else 0)
  | 4 => leBytes 1 (if s.replReq then 1 else 0) ++ ((List.range Config.numDies).flatMap fun d =>
      (resetSpares d (s.die d).fusedSlices).flatMap (leBytes 1)) ++ unitBytes s.retiredUnits
  | 5 => (List.range 12).flatMap fun a => (List.range 12).flatMap fun b => leBytes 2 (if a = b then 0 else Config.dpl a b)
  | 6 => s.ports.flatMap fun (p, v) =>
      leBytes 1 p ++ leBytes 8 v.peer.toNat ++ leBytes 2 v.latency ++ leBytes 1 ((if v.aligned then 1 else 0) + (if v.failed then 2 else 0))
  | _ => []
/-- A measurement block: the SHA-512 digest of its content; the boot ROM never changes, the firmware image is the one that runs. -/
def State.measurement (s : State) (i : Nat) : List Byte :=
  if i = 1 then leBytes 64 (Config.romDigest 1 0).toNat
  else if i = 2 then leBytes 64 (Config.romDigest 2 s.firmware).toNat
  else sha512 (s.measured i)

/-- The signature of a slot's key over bytes. -/
def signBytes (slot : Nat) (l : List Byte) : List Byte := leBytes 132 (Config.sign slot (leNat (sha512 l))).toNat

/-- CHALLENGE. -/
def execChallenge (rq : Req) (slot : Nat) (nonce : BitVec 256) (s : State) : Answer :=
  s.negotiated rq (if slot < 2 then
      let all := (List.range 6).flatMap fun i => s.measurement (i + 1)
      s.reply rq.tr 0x03 (sha512 (Config.certChain slot) ++ sha512 all ++ signBytes slot (leBytes 32 nonce.toNat ++ sha512 all))
    else s.refuse rq.tr 1)
/-- GET_MEASUREMENTS (18 R396): index 0 asks for the number of blocks, 0xFF for all, taken at one tick. -/
def execGetMeasurements (rq : Req) (index : Nat) (s : State) : Answer :=
  s.negotiated rq (if index = 0 then s.reply rq.tr 0x60 (leBytes 1 6)
    else if index = 0xFF then s.reply rq.tr 0x60 ((List.range 6).flatMap fun i => s.measurement (i + 1))
    else if index ≤ 6 then s.reply rq.tr 0x60 (s.measurement index) else s.refuse rq.tr 1)
/-- KEY_EXCHANGE: at most 8 sessions of a transport at once. -/
def execKeyExchange (rq : Req) (slot : Nat) (s : State) : Answer :=
  let r := s.responder rq.tr
  s.negotiated rq (if 2 ≤ slot then s.refuse rq.tr 1
    else if 8 ≤ r.sessions.length then s.refuse rq.tr 0x0A
    else
      let id := s.fresh
      let s1 : State := { s.setResponder rq.tr { r with sessions := (id, false, slot) :: r.sessions } with fresh := s.fresh + 1 }
      s1.reply rq.tr 0x64 (leBytes 4 id ++ leBytes 8 (Config.freeWord s.fresh).toNat))
/-- A session of a transport. -/
def Spdm.session (r : Spdm) (id : Nat) : Option (Nat × Bool × Nat) := r.sessions.find? (·.1 == id)
/-- A request within an established session. -/
def State.inSession (s : State) (rq : Req) (session : Nat) (ok : State) : State :=
  match (s.responder rq.tr).session session with
  | some (_, true, _) => ok
  | _ => s.refuse rq.tr 2
/-- FINISH: the session is established. -/
def execFinish (rq : Req) (session : Nat) (s : State) : Answer :=
  let r := s.responder rq.tr
  s.versioned rq (match r.session session with
    | none => s.refuse rq.tr 2
    | some _ => (s.setResponder rq.tr { r with sessions := r.sessions.map fun x => if x.1 == session then (x.1, true, x.2.2) else x }).reply rq.tr 0x65 [])
/-- HEARTBEAT. -/
def execHeartbeat (rq : Req) (session : Nat) (s : State) : Answer := s.versioned rq (s.inSession rq session (s.reply rq.tr 0x68 []))
/-- END_SESSION. -/
def execEndSession (rq : Req) (session : Nat) (s : State) : Answer :=
  let r := s.responder rq.tr
  s.versioned rq (match r.session session with
    | none => s.refuse rq.tr 2
    | some _ => (s.setResponder rq.tr { r with sessions := r.sessions.filter fun x => x.1 != session }).reply rq.tr 0x6C [])

/-- IDE streams of a host port: those of its functions (18 R387, R392). -/
def State.portStreams (s : State) (fn : Nat) : Nat :=
  ((s.fns.filter fun (k, _) => Config.portOfFn k == Config.portOfFn fn).map fun (_, f) => f.ide.length).foldl (· + ·) 0

/-- IDE_KM (18 R392, R395): programs the key of a selective stream of a function, or ends the stream, within an established session; a
port has at most 64. -/
def execIdeKm (rq : Req) (session fn : Nat) (op : IdeOp) (s : State) : Answer :=
  let f := s.fn fn
  s.versioned rq (s.inSession rq session (
    if Config.functions ≤ fn || (op.bind && !SMap.has f.ide op.stream && decide (64 ≤ s.portStreams fn)) then s.refuse rq.tr 1
    else if op.bind then
      ({ s.setFn fn { f with ide := SMap.put f.ide op.stream (Config.freeWord s.fresh) } with fresh := s.fresh + 1 } : State).reply rq.tr 0x7E []
    else (s.setFn fn { f with ide := SMap.del f.ide op.stream }).reply rq.tr 0x7E []))

/-! ### TDISP and sealing (18 R392 to R394) -/

/-- Views of a context's groups that still live: those of members which have not ended (13 R349). -/
def State.viewsOf (s : State) (c : Nat) : List Nat :=
  (s.groups.filter fun (_, g) => g.ctx == c).flatMap fun (_, g) => (g.members.filter fun m => !m.ended).map (·.view)

/-- What follows when the tasks of an unlocked TDI have ended (18 R394 steps 2 and 3): its groups are discarded with their
views, and its key is destroyed. -/
def State.finishUnlock (s : State) (fn : Nat) : State :=
  let s1 := (s.viewsOf fn).foldl State.freeView s
  let s2 : State := { s1 with groups := s1.groups.filter fun (_, g) => g.ctx != fn }
  let dead := (s2.owners.filter fun (_, _, o) => o == fn).map fun (a, n, _) => (a, n)
  let gone := fun (a : Nat) =>
    (inRanges dead a && (match s2.remap a with | some r => decide (r.current = a / 0x10000) | none => true)) ||
    s2.dies.any fun (_, d) => d.remaps.any fun r => decide (r.current = a / 0x10000) && inRanges dead (r.granule * 0x10000 + a % 0x10000)
  { s2 with
    mem := s2.mem.filter fun p => !gone p.1
    versions := s2.versions.map fun (v : Version) => if inRanges dead (v.line * 128) then { v with content := v.content.map fun _ => [] } else v
    copies := s2.copies.filter fun c => !inRanges dead (c.line * 128)
    deadKey := s2.deadKey ++ dead, owners := s2.owners.filter fun (_, _, o) => o != fn }.setCtx fn
      { s2.ctx fn with isSealed := false, unlocking := false, key := 0 }

/-- A TDI leaves its state (18 R394): every task of its context is cancelled, the queued ones with it, and when the last has ended its
groups and its key go. -/
def State.unlockTdi (s : State) (fn : Nat) (error : Bool) : State :=
  let x := s.ctx fn
  let wait := fun (s : State) =>
    if s.tasks.any (fun (_, t) => t.ctx == fn) then
      ({ s with inbox := s.inbox ++ [(s.later, .tdiUnlock fn error)], fresh := s.fresh + 1 } : State)
    else s.finishUnlock fn
  if x.unlocking then wait s
    else if !(decide (x.tdi = .run) || decide (x.tdi = .locked)) then s
    else
      let s1 := s.setCtx fn { x with tdi := if error then .error else .unlocked, unlocking := true }
      let s2 := (s1.queues.filter fun (_, v) => v.ctx == fn).foldl (fun s (q, _) => s.cancelRecords q) s1
      wait ((s2.tasks.filter fun (_, t) => t.ctx == fn).foldl (fun s (i, _) => s.cancelTask i) s2)
/-- TDI_UNLOCK (18 R394). -/
def execTdiUnlock (fn : Nat) (error : Bool) (s : State) : Answer := .next (s.unlockTdi fn error)

/-- A TDI moves as TDISP allows, if it may (18 R392): the state after the move. -/
def State.tdiMove (s : State) (fn : Nat) (to' : TdiState) : Option State :=
  let x := s.ctx fn
  let move := s.setCtx fn { x with tdi := to' }
  if fn = 0 || 64 ≤ fn || x.unlocking then none
  else match x.tdi, to' with
    | .unlocked, .locked => some move
    | .locked, .run => if x.isSealed && !(s.fn fn).ide.isEmpty then some move else none
    | .error, .unlocked => some move
    | .unlocked, .error => some move
    | .locked, .unlocked | .locked, .error | .run, .unlocked | .run, .error => some (s.unlockTdi fn (decide (to' = .error)))
    | _, _ => none

/-- TDISP_REQUEST (18 R392, R395): the moves between the states of a TDI, asked for within an established session. -/
def execTdispRequest (q : TdiReq) (to' : TdiState) (s : State) : Answer :=
  s.versioned q.rq (s.inSession q.rq q.session (match s.tdiMove q.fn to' with
    | some s1 => s1.reply q.rq.tr 0x7E []
    | none => s.refuse q.rq.tr 1))

/-- SEAL_CONTEXT (18 R393): k from 1 to 63, in CONFIG_LOCKED, under a fresh key (DEDUCED, notes/assumptions/33.md). -/
def execSealContext (c : Nat) (s : State) : Answer :=
  let x := s.ctx c
  .next (if c = 0 || decide (64 ≤ c) || decide (x.tdi ≠ .locked) || x.isSealed then s
    else { s.setCtx c { x with isSealed := true, key := Config.wrappedKey s.fresh } with
      fresh := s.fresh + 1 }.ownSealed c (sealedRanges s 9 x.ptroot))

/-- CONTEXT_DESTROY (13 R349, 12 R320): groups and members are discarded without resolution, levels and slots end, and
the context's state is released. -/
def execContextDestroy (c : Nat) (s : State) : Answer :=
  let views := s.viewsOf c
  .next { s with
    groups := s.groups.filter fun (_, g) => g.ctx != c
    tasks := s.tasks.filter fun (_, t) => t.ctx != c
    turn := s.turn.filter fun (f, _) => (SMap.get {} s.tasks f.task).ctx != c || !SMap.has s.tasks f.task
    dies := s.dies.map fun (d, v) => (d, { v with ceOwner := v.ceOwner.filter fun (_, t) => (SMap.get {} s.tasks t).ctx != c })
    versions := s.versions.filter fun (v : Version) => v.view == systemView || (!views.contains v.view && v.ctx != c)
    queues := s.queues.map fun (q, v) => (q, if v.ctx = c then {} else v)
    hostHeld := s.hostHeld.filter fun w => w.ctx != c
    owners := s.owners.filter fun (_, _, o) => o != c
    contexts := SMap.del s.contexts c }

/-! ### Thavy links (18 R398 to R401) -/

/-- What a flit of a kind may carry (18 R398, R399): timed traffic of a region, a peer transfer, or a notice of another member. -/
def linkEvent (kind : Nat) : Instr → Bool
  | .hopPerform _ _ _ _ | .chainConfigArrival _ _ _ _ _ | .chainRelease _ _ | .regionFreeze _ | .regionResume => kind == 1
  | .peerTransfer _ _ _ => kind == 2
  | .joinEntry _ _ | .regionExit | .slideTimeout | .chainFreeze _ _ _ => kind == 3
  | _ => false

/-- FLIT_RECEIVE (18 R398): taken if its CRC holds and its sequence number is the next; otherwise a nak. -/
def execFlitReceive (p : Nat) (f : Flit) (s : State) : Answer :=
  let v := s.port p
  .next (if v.failed || Config.thavyPorts ≤ p then s
    else if crcBytes f.bytes 0 = f.crc && decide (flitSeq f = v.expectSeq) then
      let ack := flitField f 12 12
      let keep := v.replay.filter fun g => decide (2048 ≤ (ack + 4096 - flitSeq g) % 4096)
      let v1 := { v with expectSeq := (v.expectSeq + 1) % 4096, replay := keep, resends := if keep.length < v.replay.length then 0 else v.resends }
      let s1 := s.setPort p v1
      let kind := flitField f 24 4
      if kind = 4 then { s1 with turn := (s1.cur, .event (.counterFlitReceive p (leNat ((f.bytes.drop 16).take 8)))) :: s1.turn }
      else if kind = 5 then { s1 with turn := (s1.cur, .event (.nak p (leNat ((f.bytes.drop 16).take 2) % 4096))) :: s1.turn }
      else match (flitEvent kind (f.bytes.drop 16)).filter (linkEvent kind) with
        | some i => { s1 with inbox := s1.inbox ++ [(s1.ptc, i)] }
        | none => s1
    else s.emit (.nak p v.expectSeq))

/-- NAK (18 R398): resends from the sequence number on; after 16 resends in a row the link fails. -/
def execNak (p seq : Nat) (s : State) : Answer :=
  let v := s.port p
  .next (if v.failed || Config.thavyPorts ≤ p then s
    else if 16 ≤ v.resends then { s with turn := (s.cur, .event (.linkFail p)) :: s.turn }
    else
      let again := v.replay.filter fun g => decide ((flitSeq g + 4096 - seq) % 4096 < 2048)
      again.foldl (fun s f => s.emit (.flit p f)) (s.setPort p { v with resends := v.resends + 1 }))

/-- The region of the task in focus uses a port. -/
def State.usesPort (s : State) (p : Nat) : Bool :=
  s.region.active && decide (s.region.total ≠ 0) && (match (s.ctx s.task.ctx).join with | some j => j.ports.contains p | none => false)

/-- The hops of the region of the task in focus that are in transfer over a port's link: item, chain, sending hop (18 R398). -/
def State.inTransfer (s : State) (p : Nat) : List (Pend × Nat × Nat) :=
  s.region.agenda.filterMap fun q => if q.landed then none else (s.farHop q).bind fun h => if h.2.2 = p then some (q, h.1, h.2.1) else none

/-- The hop of a chain that is in transfer between two places of this package (07 R243). -/
def State.ownTransfer (s : State) (uid hop : Nat) : List (Pend × Nat × Nat) :=
  s.region.agenda.filterMap fun q => match q.act with
    | .event (.hopPerform u h _ _) => if !q.landed && u == uid && h == hop + 1 && (s.farHop q).isNone then some (q, uid, hop) else none
    | _ => none

/-- Hops in transfer of a task's region are declared failed (07 R243): they leave the agenda, and their chains freeze. -/
def State.failHops (s : State) (i : Nat) (l : List (Pend × Nat × Nat)) : State :=
  let f : State := { s with cur := { task := i } }
  let f1 := (f.setRegion { f.region with agenda := f.region.agenda.filter fun q => !l.any fun x => x.1.seq == q.seq }).landed
    (l.any fun x => decide (x.1.due ≤ f.rt))
  { f1 with cur := s.cur, turn := (l.map fun x => (({ task := i } : Focus), Turn.event (.chainFreeze x.2.1 x.2.2 2))) ++ s.turn }

/-- LINK_FAIL (18 R398, 07 R243): the hops of joined regions in transfer on the link are declared failed: they leave the
agenda, and their chains freeze. -/
def execLinkFail (p : Nat) (s : State) : Answer :=
  .next (if Config.thavyPorts ≤ p then s
    else s.tasks.foldl (fun s (i, _) =>
      let f : State := { s with cur := { task := i } }
      if f.usesPort p then s.failHops i (f.inTransfer p) else s)
      (s.setPort p { s.port p with failed := true }))

/-- LINK_RETRAIN (18 R400): the declared latency, no reservations; a joined region under way is aborted at the cycle of the
first hop that is due on the link. -/
def execLinkRetrain (p latency : Nat) (s : State) : Answer :=
  let v := s.port p
  if latency = 0 || 4095 < latency || Config.thavyPorts ≤ p then .next s
  else
    let s1 := s.setPort p { v with latency := latency, failed := false, sendSeq := 0, expectSeq := 0, replay := [], resends := 0, aligned := false
                                   reserved := [], peer := Config.freeWord s.fresh }
    .next { s1 with fresh := s.fresh + 1, tasks := s1.tasks.map fun (i, t) =>
      (i, if ({ s1 with cur := { task := i } } : State).usesPort p then { t with region := { t.region with cut := p :: t.region.cut } } else t) }

/-- COUNTER_FLIT_SEND (18 R401). -/
def execCounterFlitSend (p : Nat) (s : State) : Answer := .next (s.sendFlit p 4 (leBytes 8 s.ptc))

/-- COUNTER_FLIT_RECEIVE (18 R401): δ; a port is aligned while |δ| ≤ 1; only the upstream port steers (DESIGN CHOICE, notes/assumptions/40.md). -/
def execCounterFlitReceive (p ts : Nat) (s : State) : Answer :=
  let v := s.port p
  let d : Int := (ts : Int) + v.latency - s.ptc
  .next (if Config.thavyPorts ≤ p then s else s.setPort p { v with aligned := decide (d.natAbs ≤ 1), slew := if s.upstream = some p && decide (d.natAbs ≤ 2 ^ 27) then d else 0 })

/-- PEER_TRANSFER (18 R399): a view-0 write of a named context of this package. -/
def execPeerTransfer (c va : Nat) (bytes : List Byte) (s : State) : Answer :=
  .next (s.outsideWrite { ctx := c, origin := 256, va := va, bytes := bytes })

/-! ### The checkpoint (12 R336, 18 R404, R405) -/

/-- No task of the package still runs: a full checkpoint may open its level (18 R404). -/
def State.allSaved (s : State) : Bool :=
  s.tasks.all fun (_, t) => match t.state with | .saved => true | .gone => true | .bound => true | _ => false

/-- MEMORY_CHECKPOINT (18 R404): opens the system level at one instant; that of a full checkpoint once the last save is complete. -/
def execMemoryCheckpoint (s : State) : Answer :=
  .next (if s.checkpoint.isOpen || (s.checkpoint.full && !s.allSaved) then s
    else { s with checkpoint := { isOpen := true, full := false }
                  inbox := s.inbox ++ [(s.later, .checkpointDrainComplete)], fresh := s.fresh + 1 })

/-- FULL_CHECKPOINT (18 R404): every task is pre-empted first. -/
def execFullCheckpoint (s : State) : Answer :=
  .next (if s.checkpoint.isOpen then s
    else (s.tasks.map (·.1)).foldl (fun s i => s.preemptTask i) { s with checkpoint := { s.checkpoint with full := true } })

/-- Granules whose content is not all zero, or that have an owner, by physical address (18 R404, R405) (DESIGN CHOICE,
notes/assumptions/39.md). -/
def State.usedGranules (s : State) : List Nat :=
  let named := s.mem.filterMap fun (a, _) => if Config.deviceStorage a then some (a / 0x10000) else none
  let back := named.map fun g => match s.dies.findSome? (fun (_, d) => d.remaps.find? fun r => r.current == g) with
    | some r => r.granule
    | none => g
  (back ++ (s.versions.filterMap fun (v : Version) => if v.view = systemView then some (v.line / 512) else none) ++
    s.owners.flatMap fun (a, n, _) => (List.range (n / 0x10000)).map (a / 0x10000 + ·)).eraseDups

/-- Content of a granule at the checkpoint instant: a line's system shadow, or its current bytes (12 R336). -/
def State.granuleAt (s : State) (g : Nat) : SMap Byte :=
  putBytes [] 0 ((List.range 512).flatMap fun i =>
    match s.version (g * 512 + i) systemView 0 with
    | some v => takeBytes (v.content.getD []) 0 128
    | none => s.readPas (g * 0x10000 + i * 128) 128)

/-- The owner of a granule; 0xFF when it has none. -/
def State.ownerOf (s : State) (pa : Nat) : Nat :=
  match s.owners.find? (fun (a, n, _) => decide (a ≤ pa) && decide (pa < a + n)) with
  | some (_, _, o) => o
  | none => 0xFF

/-- A granule record: a sealed granule is drained as its stored ciphertext (18 R405). -/
def State.granuleRecord (s : State) (g : Nat) : GranuleRecord :=
  let owner := s.ownerOf (g * 0x10000)
  let m := s.granuleAt g
  let c : SMap Byte := if owner = 0xFF then m else (List.range 0x10000).foldl (fun r i => SMap.set 0 r i (Config.cipherByte (s.ctx owner).key (g * 0x10000 + i) (SMap.get 0 m i))) []
  ⟨g, owner, c, BitVec.ofNat 512 (leNat (sha512 (takeBytes c 0 0x10000)))⟩

/-- The digest that the manifest's signature covers: every digest, every retired unit, and the wrapped keys (18 R405). -/
def manifestDigest (l : List GranuleRecord) (retired : List (Nat × Nat × Nat)) (keys : List (Nat × BitVec 320)) : Nat :=
  leNat (sha512 ((l.flatMap fun r => leBytes 8 r.granule ++ leBytes 64 r.digest.toNat) ++
    (retired.flatMap fun (d, u, i) => leBytes 1 d ++ leBytes 1 u ++ leBytes 4 i) ++ keys.flatMap fun (c, k) => leBytes 1 c ++ leBytes 40 k.toNat))

/-- The keys of the sealed contexts, wrapped (18 R405). -/
def State.wrappedKeys (s : State) : List (Nat × BitVec 320) := (s.owners.map fun (_, _, o) => o).eraseDups.map fun o => (o, (s.ctx o).key)

/-- The records of a checkpoint image by host port: each port drains its BX die and two MX dies (18 R404). -/
def State.drained (s : State) : List (Nat × List GranuleRecord) :=
  Config.hostPorts.map fun (p, dies) => (p, (s.usedGranules.filter fun g => dies.contains (Config.paDie (g * 0x10000))).map s.granuleRecord)

/-- CHECKPOINT_DRAIN_COMPLETE (18 R404, R405): the image goes out, port by port and then its manifest, and the system level closes. -/
def execCheckpointDrainComplete (s : State) : Answer :=
  if !s.checkpoint.isOpen then .next s
  else
    let l := s.drained.flatMap (·.2)
    .next { s with
      versions := s.versions.filter fun (v : Version) => v.view != systemView
      checkpoint := {}
      outbox := s.outbox ++ (s.drained.map fun d => Output.drain d.1 d.2) ++ [.manifest (l.map fun r => (r.granule, r.digest)) s.retiredUnits
        s.wrappedKeys (Config.sign 1 (manifestDigest l s.retiredUnits s.wrappedKeys))] }

/-- The wrapped key of a context in an image (18 R405). -/
def imageKey (m : CheckpointImage) (c : Nat) : BitVec 320 :=
  match m.keys.find? (fun p => p.1 == c) with
  | some (_, k) => k
  | none => 0
/-- A granule record that this part can restore: a sealed one is under a key that this part has drained (18 R405). -/
def imageOpens (m : CheckpointImage) (r : GranuleRecord) : Bool :=
  r.owner == 0xFF || (m.keys.any (fun p => p.1 == r.owner) && Config.unwraps (imageKey m r.owner))

/-- Physical addresses of the lines that a restore writes: those that hold something, and the image's. -/
def State.imageLines (s : State) (image : CheckpointImage) : List Nat :=
  ((s.mem.filterMap fun (p : Host.Cell) => if Config.deviceStorage p.1 then some (p.1 / 128 * 128) else none) ++
    image.granules.flatMap fun (r : GranuleRecord) => (List.range 512).map fun i => r.granule * 0x10000 + i * 128).eraseDups

/-- Writes an image's granules into memory that lists no device byte, with their owners and their contexts' keys. -/
def writeImage (image : CheckpointImage) (s : State) : State :=
  let s1 := image.granules.foldl (fun s r =>
    let plain := fun (i : Nat) => let b := SMap.get 0 r.content i
      if r.owner = 0xFF then b else Config.decipherByte (imageKey image r.owner) (r.granule * 0x10000 + i) b
    let s1 := s.writePas (r.granule * 0x10000) ((List.range 0x10000).map plain)
    { s1 with owners := if r.owner = 0xFF then s1.owners else s1.owners ++ [(r.granule * 0x10000, 0x10000, r.owner)] }) s
  image.keys.foldl (fun s k => s.setCtx k.1 { s.ctx k.1 with key := k.2, isSealed := true }) s1

/-- The image may be restored: its signature and every digest hold, and this part opens its granules (18 R405). -/
def imageGood (image : CheckpointImage) (signature : BitVec 1056) : Bool :=
  Config.verify signature (manifestDigest image.granules image.retired image.keys) && image.granules.all fun r =>
    imageOpens image r && Config.deviceStorage (r.granule * 0x10000) && decide (r.digest = BitVec.ofNat 512 (leNat (sha512 (takeBytes r.content 0 0x10000))))

/-- CHECKPOINT_RESTORE (18 R405): while no task is bound; whole or not at all; the contexts' keys come back with their granules. Firmware
writes the lines like any other: their shadows are saved first, and it waits while one is locked or finds no Hedgerow line
(12 R322, R334, R336). -/
def execCheckpointRestore (image : CheckpointImage) (signature : BitVec 1056) (s : State) : Answer :=
  let lines := s.imageLines image
  let again : State := { s with inbox := s.inbox ++ [(s.later, .checkpointRestore image signature)], fresh := s.fresh + 1 }
  .next (if !imageGood image signature || s.tasks.any (fun (_, t) => !t.places.isEmpty) then s
    else if lines.any fun a => s.locked (a / 128) (0, 2 ^ 32, 0) then again
    else match hedgeRun 0 (lines.map fun a => (a, 0, 0)) s with
      | some c => again.ask c
      | none =>
        let s1 := lines.foldl (fun s a => s.saveShadows (a / 128) 0) s
        let mem := s1.mem.filter fun (p : Host.Cell) => decide (Config.hostBase ≤ p.1)
        writeImage image { s1 with mem := mem, poison := [], copies := [], owners := [], deadKey := [], history := [] })

/-! ### Bring-up, power and heat (18 R406, R407) -/

/-- What a die keeps over a power-on reset: its retirements, which are fused, and the entries of thermal trips (00 R6, 14 R353, 17 R384,
18 R396, R407). -/
def Die.persistent (v : Die) : Die :=
  { retiredCores := v.retiredCores, retiredSlices := v.retiredSlices, retiredLinks := v.retiredLinks, retiredMemory := v.retiredMemory
    fusedSlices := v.retiredSlices
    ras := v.ras.filter fun e => leNat (e.take 2) == 2 + 256 * 9 }

/-- POWER_ON_RESET (05 R159): every piece of power-on state; what is persistent stays (17 R385, 18 R407). Whether firmware has been updated
before it is free (18 R396; DESIGN CHOICE, notes/assumptions/7.md). -/
def execPowerOnReset (s : State) : Answer :=
  .next { State.reset with
    replReq := s.replReq || State.reset.replReq, dies := s.dies.map fun (d, v) => (d, v.persistent)
    firmware := s.firmware + Config.choose s.fresh % 2, fresh := s.fresh + 1 }

/-- The memory unit of die d that fails to train goes to a spare, or there is none left (17 R384, 18 R406). -/
def State.trainFails (s : State) (d k : Nat) : State :=
  s.retireMemory d k (!Config.isBX d && Config.channelSpare d k (s.die d).retiredMemory)

/-- BRING_UP (18 R406): the next step, and what a failure of it leaves; which unit, boundary or link it is that fails is free (DESIGN
CHOICE, notes/assumptions/7.md). -/
def execBringUp (ok : Bool) (s : State) : Answer :=
  .next (if 7 ≤ s.bringUp then s
    else if ok then { s with bringUp := s.bringUp + 1 }
    else match s.bringUp with
      | 0 | 1 => { s with power := .held }
      | 2 => ({ s with bringUp := 3, fresh := s.fresh + 2 } : State).trainFails (Config.choose s.fresh % 12) (Config.choose (s.fresh + 1))
      | 3 => { s.rasLog { type := 2, unit := 7, die := Config.choose s.fresh % 12 } with power := .held, fresh := s.fresh + 1 }
      | 4 =>
        let p := Config.choose s.fresh % Config.thavyPorts
        { s.setPort p { s.port p with failed := true, aligned := false } with bringUp := 5, fresh := s.fresh + 1 }
      | n => { s with bringUp := n + 1, ports := s.ports.map fun (p, v) => (p, { v with aligned := false }) })

/-- THROTTLE (18 R407). -/
def execThrottle (s : State) : Answer := .next { s with throttle := { active := true } }

/-- The other members of a joined region that the throttle froze are told that it is over here (18 R402, R407). -/
def State.throttleOver (s : State) (r : Region) : State :=
  if r.freeze.any fun f => decide (f.why = .throttle) then s.tellPeers (.regionFreeze ⟨.throttle, r.rt, some s.ptc⟩) else s

/-- THROTTLE_RESUME (18 R407): power and temperature are below their limits from now on; when they have been so for 2^16 ticks the
throttle is over, and the regions that it froze go on. -/
def execThrottleResume (s : State) : Answer :=
  .next (if !s.throttle.active then s
    else match s.throttle.below with
      | none => { s with throttle := { active := true, below := some s.ptc } }
      | some t =>
        if s.ptc < t + 65536 then s
        else s.tasks.foldl (fun s (i, t) => ({ ({ s with cur := { task := i } } : State).throttleOver t.region with cur := s.cur } : State))
          { s with throttle := {} })
/-- THERMAL_TRIP (18 R407): power goes, and a persistent entry stays. -/
def execThermalTrip (d : Nat) (s : State) : Answer :=
  .next ({ s with power := .removed }.rasLog { type := 2, unit := 9, die := d })

end Sys2Proof.Machine
end

