-- ==== Sys2Proof/Machine/Fetch.lean ====
section
/-!
DEFINITION. Fetching an instruction's word and what stands before its issue: the fetch checks of 02 R44 and 05 R171, the
poison of words and registers (17 R382, R383), and the placing of one word where the next step fetches.
-/

namespace Sys2Proof.Machine

/-- What a fetch gives: an instruction that issues in a state, or the state after its trap. -/
inductive Fetched where
  | run (i : Instr) (s : State)
  | stop (s : State)

/-- The CP registers that an instruction reads (02 R45, R46). -/
def sources : Instr → List Reg
  | .waitt a _ | .clz _ a | .ctz _ a | .popc _ a | .sext _ a _ => [a]
  | .add _ a b | .sub _ a b | .and _ a b | .or _ a b | .xor _ a b | .sll _ a b | .srl _ a b | .sra _ a b
  | .slt _ a b | .sltn _ a b | .min _ a b | .max _ a b | .minn _ a b | .maxn _ a b
  | .mul _ a b | .mulh _ a b | .mulhn _ a b | .div _ a b | .divn _ a b | .rem _ a b | .remn _ a b
  | .addsh _ a b _ | .madi _ a b _ => [a, b]
  | .addi _ a _ | .andi _ a _ | .ori _ a _ | .xori _ a _ | .slti _ a _ | .sltni _ a _
  | .slli _ a _ | .srli _ a _ | .srai _ a _ | .jr _ a _ | .loop _ a _ | .lregWrite a _ => [a]
  | .beq a b _ | .bne a b _ | .blt a b _ | .bge a b _ | .bltn a b _ | .bgen a b _ => [a, b]
  | .ldq _ a _ _ _ | .lds _ a _ _ => [a]
  | .stq d a _ _ | .sts d a _ _ => [d, a]
  | .amo a b _ _ _ _ => [a, b]
  | .amoCas d a b _ _ _ => [d, a, b]
  | .csrw _ a _ | .csrs _ a _ | .csrc _ a _ => [a]
  | .rgenter _ a | .realign a _ | .ringcfg a _ | .fmtw _ a | .chbuild _ a | .chstat _ a | .chsplice _ a _
  | .sstr a _ | .gcfg a | .grun a | .grunC a | .copy a _ | .copyd a _ => [a]
  | .erchkOn a b | .cwb a b | .cinv a b | .cwbi a b | .cpf a b _ => [a, b]
  | .launch _ a b | .gcancel _ a b | .gstat _ a b _ | .snap _ a b => [a, b]
  | .fork _ a | .greport a | .gwait _ a | .gwaitY _ a | .accept _ a | .reject _ a | .snapq _ a _ => [a]
  | _ => []

/-- The source codes of a grid operation (04 R141 to R157). -/
def gridSources : Instr → List (BitVec 5)
  | .fma f | .fms f | .rngc f => [f.a, f.b, f.c]
  | .bf2 f => if f.m = 3 then [f.a, f.b, f.c] else [f.a, f.b]
  | .fadd f | .fsub f | .fmul f | .fmin f | .fmax f | .fcmp f | .fsel f | .iadd f | .isub f | .imul f | .ilog f | .ish f
  | .icmp f | .iminmax f | .lperm f | .lshift f | .defer f => [f.a, f.b]
  | .fsgn f => if f.m = 2 then [f.a, f.b] else [f.a]
  | .cvt f => if cvtPair f.m then [f.a, f.b] else [f.a]
  | .fspec f | .lbcast f | .lred f => [f.a]
  | .mov f => if f.m = 1 then [] else [f.a]
  | .msk f => if mskSource f.m then [f.a] else []
  | _ => []

/-- The word at the pc of the core in focus: in timed code from the code buffer, in loose code through the page table
with the execute permission (02 R44) (DEDUCED, notes/assumptions/42.md). -/
def State.fetchWord (s : State) : Except Trapped (Word32 × State) :=
  let c := s.core
  if s.timed then
    if Config.codeBytes ≤ c.pc.toNat then .error ⟨5, 5, c.pc⟩
    else if c.codePoison.contains (c.pc.toNat / 4) then .error ⟨0x0C, 2, c.pc⟩
    else .ok (c.codeWord, s)
  else
    match (s.countPages c.pc.toNat 4).load s.agent .fetch c.pc.toNat 4 with
    | .failed v t => .error ⟨(trCause t).1, (trCause t).2, BitVec.ofNat 64 v⟩
    | .done b bad s1 => if bad || c.codePoison.contains (0x10000 + c.pc.toNat / 4) then .error ⟨0x0C, 2, c.pc⟩ else .ok (BitVec.ofNat 32 (leNat b), s1)

/-- A loose fetch of bytes that this CP's queued writes may still change waits for them (03 R71), and for what stands before it on its
way (08 R254, 14 R354). -/
def State.fetchWaits (s : State) : Bool := !s.timed && s.readWaits .fetch s.core.pc.toNat 4

/-- The instruction is not legal in this mode (02 R62). -/
def State.modeRefused (s : State) : Instr → Bool
  | .waitt _ _ | .loops _ _ _ | .rgexit | .realign _ _ | .ringcfg _ _ | .fmtw _ _ | .wload _ _ | .mmaR _ _ _ | .mmaC _ _ _
  | .chbuild _ _ | .chclose _ | .chfree _ | .chstat _ _ | .chsplice _ _ _ | .lzero _ | .lread _ _ | .lreadM _ _ | .sstr _ _ | .gcfg _
  | .grun _ | .grunC _ | .grunS _ | .grunCS _ | .copy _ _ | .copyd _ _ | .erchkOn _ _ | .erchkOff => !s.timed
  | .tret | .retire | .rgenter _ _ | .launch _ _ _ | .fork _ _ | .greport _ | .gwait _ _ | .gwaitY _ _ | .gcancel _ _ _ | .gstat _ _ _ _
  | .snap _ _ _ | .accept _ _ | .reject _ _ | .snapq _ _ _ => s.timed
  | _ => false

/-- The instruction names an engine that this core's die or region has not (02 R61, 06 R210). -/
def State.engineRefused (s : State) : Instr → Bool
  | .fmtw u _ | .wload u _ | .mmaR u _ _ | .mmaC u _ _ => s.onBX && decide (2 ≤ u.toNat)
  | .copy _ n | .copyd _ n => decide (s.cecount ≤ n.toNat)
  | _ => false

/-- A register that the instruction reads is poisoned: the trap is raised by the storage (17 R382), once the word has passed
the checks of encoding and mode (02 R63) (DESIGN CHOICE, notes/assumptions/36.md). -/
def State.admitRead (s : State) (i : Instr) : Fetched :=
  match (if s.core.regPoison.isEmpty || s.engineRefused i || s.modeRefused i then none else (sources i).find? fun r => s.core.regPoison.contains r.toNat) with
  | some r => .stop (s.raise 0x0C 7 (r.setWidth 64))
  | none => .run i s

/-- The instruction that the core in focus issues next; a word that is no instruction issues as ILLEGAL_INSTRUCTION
(02 R61). -/
def State.fetch (s : State) : Fetched :=
  if s.fetchWaits then .stop (s.tryLater .stores)
  else match s.fetchWord with
  | .error f => .stop ((if s.timed then s else s.countWalk s.core.pc.toNat).raise f.cause f.sub f.tval)
  | .ok (w, s1) =>
    match decode w with
    | none => .run (.illegalInstruction w) s1
    | some i => s1.admitRead i

/-- Mask registers that a grid operation reads (04 R143, R154, R155, R157). -/
def maskReads : Instr → List Nat
  | .fsel f | .defer f => [f.m.toNat % 4]
  | .msk f => [f.m.toNat % 4]
  | .lred f => if f.m.getLsbD 2 then [f.m.toNat / 8 % 4] else []
  | _ => []

/-- Scalar registers that a grid operation reads (04 R152, R158). -/
def scalarReads : Instr → List Nat
  | .mov f => if f.m = 1 then [f.a.toNat % 8] else []
  | .gridSlotCScalar w => ((decode w).map sources).getD [] |>.map (·.toNat % 8)
  | _ => []

/-- Registers of its element that an event reads, as `StoragePlace.gridReg` numbers them (04 R128 to R132). -/
def gridReads : Instr → List Nat
  | .streamBeat se _ _ => if se % 2 = 1 then [48] else []
  | i => ((gridSources i).map (·.toNat)).filter (· < 29) ++ (maskReads i).map (32 + ·) ++ ((scalarReads i).filter (· != 0)).map (40 + ·)

/-- An event that runs now: a grid operation that reads a poisoned register of its element does not (17 R382). -/
def State.admitEvent (s : State) (i : Instr) : Fetched :=
  match (if s.core.gridPoison.isEmpty then none else (gridReads i).find? fun n => s.core.gridPoison.contains (64 * s.cur.el + n)) with
  | some n => .stop (s.trapUnit 1 0x0C 7 (BitVec.ofNat 64 (256 + n)) s.core.runPc s.cur.core)
  | none => .run i s

/-! ### Placing a word (DESIGN CHOICE, notes/assumptions/3.md) -/

/-- Where the placed page table stands. -/
def placedRoot : Nat := 0x100000
/-- Where the placed radix table stands. -/
def placedRadix : Nat := 0x101000
/-- Virtual and physical address of the placed word. -/
def placedPc : Nat := 0x40001000

/-- A page table of one leaf node: virtual addresses below 2^30 map to the same device addresses of die 0 as a range, the
next 2^30 as one radix page, with read, write and execute permission and home policy (11 R303, R305, R306, R308). -/
def placedTable : List Byte :=
  leBytes 1 1 ++ leBytes 1 2 ++ leBytes 30 0 ++
  leBytes 8 0 ++ leBytes 8 (2 ^ 30) ++ leBytes 8 0 ++ leBytes 4 7 ++ leBytes 4 0 ++
  leBytes 8 (2 ^ 30) ++ leBytes 8 (2 ^ 31) ++ leBytes 8 placedRadix ++ leBytes 4 0x807 ++ leBytes 4 0 ++ leBytes 160 0

/-- A state in which the next step issues the word `w` in loose code, as the lead core of task 0. -/
def State.placeWord (s : State) (w : Nat) : State :=
  let s1 := ((s.writePas placedRoot placedTable).writePas placedRadix (leBytes 8 0x40000003)).writePas placedPc (leBytes 4 w)
  let lead : Core := { pc := BitVec.ofNat 64 placedPc }
  let t : Task := { state := .running, noted := 2, dies := [(0, 0)], places := [(0, (0, 0))], cores := [(0, lead)] }
  { s1 with
    power := .on
    contexts := SMap.put s1.contexts 0 { s1.ctx 0 with ptroot := placedRoot, tlb := [] }
    poison := s1.poison.filter fun l => l != placedRoot / 128 && l != placedRoot / 128 + 1 && l != placedRadix / 128 && l != placedPc / 128
    owners := []
    tasks := SMap.put s1.tasks 0 t
    nextTask := max s1.nextTask 1
    cur := {}
    turn := [({}, .issue)] }

end Sys2Proof.Machine
end

