-- ==== Sys2Proof/Machine/Schedule.lean ====
section
/-!
DEFINITION. What runs next: the second parts of instructions, the order in which the package's units act within a tick
(DESIGN CHOICE, notes/assumptions/5.md), and the tick itself (05 R159, 10 R285 to R294, 13 R347, 18 R391, R401, R407).
-/

namespace Sys2Proof.Machine

/-! ### The passing of a tick -/

/-- Counts of core k for a tick outside an open cycle: none while the task is pre-empted (03 R115), and none for a region's
last tick, which its last cycle has counted. -/
def Task.tickCounts (t : Task) (ptc k : Nat) (c : Core) : Core :=
  let r := t.region
  let ev := fun (c : Core) (e : Nat) => (c.count true e 1).foldCounts
  if t.paused ptc || (decide (t.state ≠ .running) && decide (t.state ≠ .freezing)) then c
  else if r.active then (if decide (k < r.ncores) && r.freeze.isSome then ev (ev c 2) 4 else c)
  else if k = 0 && decide (t.exitTick ≠ some ptc) then c.count false 2 1
  else c

/-- The end of a tick for a task: its running time (10 R293), its cores' counts (03 R115, R117), and the loose writes of
counters and selectors, which lose the tick's counts (03 R118); a slide does not count the ticks of a throttle (18 R407). -/
def Task.countTick (t : Task) (ptc : Nat) (throttled : Bool) : Task :=
  let cores := t.cores.map fun (k, c) =>
    let c1 := t.tickCounts ptc k c
    (k, { c1.csrNext.foldl (fun c (p : Nat × Word) => c.csrSet p.1 p.2) c1 with csrNext := [] })
  let runs := match t.state with
    | .running => 1
    | .freezing => 1
    | .restoring => 1
    | _ => 0
  let freeze := t.region.freeze.map fun f => { f with throttled := f.throttled + (if throttled then 1 else 0) }
  { t with cores := cores, running := t.running + runs, region := { t.region with freeze := freeze } }

/-- A head that has become ready starts to wait, and one that is not ready waits no longer (10 R287). -/
def State.noteReady (s : State) : SMap Queue :=
  if s.bringUp < 7 then s.queues
  else s.queues.map fun (q, v) =>
    (q, if v.head.any (s.headReady q) then { v with readyTick := some (v.readyTick.getD s.ptc) } else { v with readyTick := none })

/-- Counter flits that ports send at a tick (18 R401). -/
def State.counterFlits (s : State) (tick : Nat) : List (Focus × Turn) :=
  if tick % 2 ^ 20 = 0 then
    s.ports.filterMap fun (p, v) => if v.latency ≠ 0 && !v.failed then some (({} : Focus), Turn.event (.counterFlitSend p)) else none
  else []

/-- The tick ends and the next begins; host and peer writes that wait at their homes are tried again (12 R334). -/
def phaseTick (s : State) : State :=
  ({ s with
    ptc := s.ptc + 1
    tasks := s.tasks.map fun (i, t) => (i, t.countTick s.ptc s.throttle.active)
    queues := s.noteReady
    turn := s.counterFlits (s.ptc + 1) ++ s.turn } : State).retryHeld

/-! ### Second parts -/

/-- A CSR write whose value governs from the next cycle (03 R108, R118): a counter that is written loses the counts of
the cycle. -/
def phaseCsrWrite (n : Nat) (v : Word) (s : State) : State :=
  let c := s.core.csrSet n v
  s.setCore (if h : 0x20 ≤ n ∧ n < 0x24 then { c with hpcNow := c.hpcNow.set (n - 0x20) 0 (by omega) } else c)

/-- Runs a second part on the core in focus. -/
def runPhase (p : Phase) (s : State) : State :=
  match p with
  | .ringSample n a pc => phaseRingSample n a pc s
  | .ringQuiet n pc => phaseRingQuiet n pc s
  | .earlyCheck u spans pc by' => phaseEarlyCheck u spans pc by' s
  | .ringApply n base slot count => phaseRingApply n base slot count s
  | .ringPop n _ => phaseRingPop n s
  | .ringCount d n sel => phaseRingCount d n sel s
  | .ldsSample d a n pc => phaseLdsSample d a n pc s
  | .stsWrite a l => phaseStsWrite a l s
  | .fmtPush u v pc => phaseFmtPush u v pc s
  | .rowSample u uid row => phaseRowSample u uid row s
  | .chainSample id a pc => phaseChainSample id a pc s
  | .closeScales uid tail issue seq pc norm => phaseCloseScales uid tail issue seq pc norm s
  | .linkComplete slot => phaseLinkComplete slot s
  | .engineWrite a l => phaseEngineWrite a l s
  | .ringWrite w => phaseRingWrite w s
  | .statSample uid a at' => phaseStatSample uid a at' s
  | .slotZero n pc => phaseSlotZero n pc s
  | .streamSample uid => phaseStreamSample uid s
  | .imageSample uid => phaseImageSample uid s
  | .beatSample uid j => phaseBeatSample uid j s
  | .deferWrite uid pairs => phaseDeferWrite uid pairs s
  | .copySample uid => phaseCopySample uid s
  | .copyTake uid => phaseCopyTake uid s
  | .readTake n m states pc => phaseReadTake n m states pc s
  | .closeTake uid pc norm => phaseCloseTake uid pc norm s
  | .deferTake uid pairs => phaseDeferTake uid pairs s
  | .deferPad uid => phaseDeferPad uid s
  | .queueSend seq => phaseQueueSend seq s
  | .loadServe seq => phaseLoadServe seq s
  | .rangeAct seq => phaseRangeAct seq s
  | .csrWrite n v => phaseCsrWrite n v s
  | .checkerSet lo n => s.setCore { s.core with checker := (lo, n) }
  | .cycleOpen => phaseCycleOpen s
  | .cycleProbe => phaseCycleProbe s
  | .cycleEnd => phaseCycleEnd s
  | .taskEnd => phaseTaskEnd s
  | .noteState => phaseNoteState s
  | .tick => phaseTick s

/-! ### What a task does next -/

/-- The state with another task in focus. -/
def State.onTask (s : State) (i : Nat) : State := { s with cur := { task := i } }

/-- One thing to run, with core k of the task in focus. -/
def State.run (s : State) (k : Nat) (t : Turn) : Option State := some { s with turn := [({ s.cur with core := k }, t)] }

/-- A request that reaches a slice which has handed its line over is sent on (14 R355); else it is served. -/
def State.arrive (s : State) (stale : Bool) (seq : Nat) (t : Turn) : Turn :=
  if stale then .event (.remapResponse s.cur.task s.cur.core seq) else t

/-- A request of the core in focus that arrives: a write, a read, or the next line of a range instruction. -/
def State.arrivalMove (s : State) : Option Turn :=
  let c := s.core
  ((c.stores.find? fun e => !e.isMark && decide (e.at' ≤ s.ptc) && s.storeMayArrive e).map fun e =>
    s.arrive (s.hashStale e.tr e.hash) e.seq (.event (.storePerform e.seq))).orElse fun _ =>
  ((c.loads.find? fun e => e.cls != 4 && e.value.isNone && decide (e.at' ≤ s.ptc) && s.loadMayArrive e).map fun e =>
    s.arrive (s.hashStale e.tr e.hash) e.seq (.phase (.loadServe e.seq))).orElse fun _ =>
  (c.ranges.find? fun e => decide (e.at' ≤ s.ptc) && s.rangeMayAct e).map fun e => s.arrive (s.rangeStale e) e.seq (.phase (.rangeAct e.seq))

/-- A request of the core in focus that leaves its queue. -/
def State.sendMove (s : State) : Option Turn :=
  let c := s.core
  (((c.stores.find? s.storeMaySend).map (·.seq)).orElse fun _ => ((c.loads.find? s.loadMaySend).map (·.seq)).orElse fun _ =>
    (c.ranges.find? s.rangeMaySend).map (·.seq)).map fun n => .phase (.queueSend n)

/-- The next move of the queues of core k (03 R94, R99, 08 R251 to R260): a reply lands, a request is served, a request
leaves. -/
def State.queueMove (s : State) (k : Nat) : Option Turn :=
  let f := s.at' k
  match f.core.loads.find? (fun e => e.value.isSome && !e.landed && decide (e.at' ≤ s.ptc)) with
  | some e => some (.event (.loadReplyLand e.seq))
  | none => f.arrivalMove.orElse fun _ => if s.task.state = .running then f.sendMove else none

/-- The queues of the task in focus, core by core. -/
def State.queuesMove (s : State) : Option State :=
  s.task.cores.findSome? fun (k, _) => (s.queueMove k).bind fun t => s.run k t

/-- The tick of a region's coming cycle (05 R169, R174). -/
def Region.cycleTick (r : Region) : Nat := r.entry + r.slide + r.rt

/-- What a region that stands frozen does next (05 R174 to R177, R184, 10 R293, 18 R400, R402, R407): a budget that has run out
and a broken link abort it; a slide ends when every late item has landed and the cycle's work raises no trap; what other members
hold up waits for them (DEDUCED, notes/assumptions/58.md). -/
def State.frozenMove (s : State) (f : Freeze) : Option State :=
  let r := s.region
  let go := fun (i : Instr) => s.run 0 (.event i)
  if s.task.state = .restoring then
    (if f.resume.any (fun n => decide (n ≤ s.ptc)) && !f.peer then go .restoreResume else none)
  else if s.task.state ≠ .running then none
  else if r.budgetAt.any (fun n => decide (n ≤ r.rt)) || s.cutHop.isSome || !s.queueFaults.isEmpty then s.run 0 (.phase .cycleOpen)
  else match r.stopAt.filter fun p => decide (p.1 ≤ r.rt) && decide (p.2 ≠ .throttle) with
    | some (_, why) => if f.probed then go (.regionFreeze ⟨why, r.rt, none⟩) else s.run 0 (.phase .cycleProbe)
    | none =>
      match f.why with
      | .throttle => if !s.throttle.active && !f.peer then go .regionResume else none
      | .slide =>
        if s.lates.isEmpty && !f.probed then s.run 0 (.phase .cycleProbe)
        else if s.lates.isEmpty && !f.peer && !s.throttle.active && decide (max f.lastLand f.tick + r.ahead ≤ s.ptc) then
          go .regionResume
        else if s.heldStore.isSome || decide (s.slidemax + f.throttled ≤ s.ptc - f.tick) then go .slideTimeout
        else none
      | _ => none

/-- What the region of the task in focus does next, between cycles (05 R169 to R184, 12 R334, 18 R407). -/
def State.regionMove (s : State) : Option State :=
  let t := s.task
  let r := t.region
  let go := fun (i : Instr) => s.run 0 (.event i)
  if r.entering then
    (if r.joinSince.isNone then (if r.entry ≤ s.ptc then go .regionEntry else none)
      else s.joinMissing.bind fun k => go (.joinEntryTimeout k))
  else if !r.active then none
  else if !r.traps.isEmpty then s.run 0 (.phase .cycleEnd)
  else if (decide (t.state = .running) || decide (t.state = .freezing)) && s.landing.isSome then go .itemLand
  else match r.freeze with
    | none =>
      if t.state ≠ .running then none
      else if s.heldStore.isSome then go .slideTimeout
      else if s.throttle.active && r.total = 0 then go (.regionFreeze ⟨.throttle, r.rt, none⟩)
      else if s.throttle.active && r.stopAt.isNone then go (.regionFreeze ⟨.throttle, r.rt + r.ahead, none⟩)
      else if r.cycleTick ≤ s.ptc then s.run 0 (.phase .cycleOpen)
      else none
    | some f => s.frozenMove f

/-- Stores and AMOs of the task in focus that are still to perform. -/
def State.storesLeft (s : State) : Bool := s.task.cores.any fun (_, c) => c.stores.any fun e => !e.isMark

/-- The task's running time has reached its budget and no request for it is under way; loose code stands at an instruction boundary
(10 R293, 03 R84). -/
def State.budgetMet (s : State) : Bool :=
  let t := s.task
  decide (t.budget ≠ 0) && decide (t.budget * 2 ^ 16 ≤ t.running) && t.region.budgetAt.isNone &&
  (t.region.active || t.region.entering || decide ((s.coreAt 0).nextIssue ≤ s.ptc)) &&
  (decide (t.state = .running) || decide (t.state = .freezing) || decide (t.state = .restoring))

/-- What the task in focus does next outside a cycle (10 R281, R292 to R295). -/
def State.taskMove (s : State) : Option State :=
  let t := s.task
  let go := fun (i : Instr) => s.run 0 (.event i)
  match t.state with
  | .gone => none
  | .bound => if s.bindPlace.isSome && !s.checkpoint.full then go .taskBind else none
  | .saved => none
  | .ending _ =>
    if t.noted ≠ t.stateCode then s.run 0 (.phase .noteState)
    else s.queuesMove.orElse fun _ => if s.storesLeft then none else go (.taskEndSignal s.cur.task)
  | _ =>
    if t.noted ≠ t.stateCode then s.run 0 (.phase .noteState)
    else s.queuesMove.orElse fun _ =>
    if s.budgetMet then go .taskBudgetExpiry
    else s.regionMove.orElse fun _ =>
    if t.state = .freezing then (if decide (t.saveAt ≤ s.ptc) && !s.saveWaits then go .saveComplete else none)
    else if t.state = .running && !t.region.active && !t.region.entering && !s.throttle.active &&
        decide ((s.coreAt 0).nextIssue ≤ s.ptc) then s.run 0 .issue
    else none

/-! ### The package -/

/-- An event that comes from outside the running programs: the host, firmware, a peer, the power supply. -/
def external : Instr → Bool
  | .joinEntry _ _ | .hopPerform _ _ _ _ | .chainConfigArrival _ _ _ _ _ | .chainRelease _ _
  | .chainFreeze _ _ _ | .regionFreeze _ | .regionResume | .regionExit | .slideTimeout | .preemptionRequest _ | .submit _ _
  | .cancelQueued _ _ | .cancelAll _ _ | .registerWrite _ | .queueEnable _ | .slidemaxWrite _ | .quotaGrow _ _
  | .translationFaultResolve _ _ | .translationFaultUnresolvable _ | .translationFlush _ | .migrationCopy _ _ | .migrationFlip _
  | .migrationCleanup _ _ | .sliceRetire _ _ | .remapResponse _ _ _ | .copyEviction _ _ | .correctableError _
  | .uncorrectableError _ _ | .resourceRetire _ | .hostMemoryRead _ _ _ | .hostMemoryWrite _ _ _ | .getVersion _
  | .getCapabilities _ | .negotiateAlgorithms _ _ _ _ _ | .getDigests _ | .getCertificate _ _ _ _ | .challenge _ _ _
  | .getMeasurements _ _ | .keyExchange _ _ | .finish _ _ | .heartbeat _ _ | .endSession _ _ | .ideKm _ _ _ _ | .tdispRequest _ _
  | .sealContext _ | .tdiUnlock _ _ | .flitReceive _ _ | .nak _ _ | .linkFail _ | .linkRetrain _ _ | .peerTransfer _ _ _
  | .memoryCheckpoint | .fullCheckpoint | .checkpointDrainComplete | .checkpointRestore _ _ | .powerOnReset | .bringUp _ | .throttle
  | .throttleResume | .thermalTrip _ | .contextDestroy _ => true
  | _ => false

/-- The first task with a joined region that runs. -/
def State.joinedTask (s : State) : Nat :=
  ((s.tasks.find? fun (_, t) => t.region.active && decide (t.region.total ≠ 0)).map (·.1)).getD 0

/-- Another member has decided that the joined region in focus stops at a cycle (18 R402): it stands frozen from there until that
member lets it resume, and is saved with it. A notice that comes after its cycle stops the region at once. -/
def State.peerFreeze (s : State) (why : FreezeWhy) (cycle : Nat) : State :=
  let r := s.region
  let c := max cycle r.rt
  let r1 := if why = .preempt then r.stopFor why c else r
  s.setRegion (match r.freeze with
    | some f => if c ≤ r.rt then { r1 with freeze := some { f with peer := true } } else { r1 with peerStops := (c, why) :: r.peerStops }
    | none => { r1 with peerStops := (c, why) :: r.peerStops })

/-- What another member of the joined region in focus sends (18 R402, R403; DEDUCED, notes/assumptions/58.md). -/
def State.peerEvent (s : State) (i : Instr) : State :=
  let r := s.region
  match i with
  | .regionFreeze ⟨_, _, some n⟩ =>
    s.setRegion { r with freeze := r.freeze.map fun f => { f with peer := false, lastLand := max f.lastLand n } }
  | .regionFreeze ⟨why, cycle, none⟩ => if why = .cancel then s else s.peerFreeze why cycle
  | .regionResume => s.setRegion { r with freeze := r.freeze.map fun f => { f with peer := false } }
  | .regionExit => s.setRegion { r with othersReady := true }
  | .slideTimeout =>
    (({ s with cur := { s.cur with core := 0 } } : State).setRegion { r with total := 0 }).faultTask
      ⟨causeWord 8 0, BitVec.allOnes 64, BitVec.ofNat 64 r.rt, some r.rt, 0, true, false, (s.coreAt 0).handler⟩
  | .chainFreeze _ _ _ => { s with turn := [(s.cur, .event i)] }
  | _ => s.fromPeer i

/-- An event of the host functions or of SPDM, which the last step of bring-up enables (18 R406 step 7). -/
def fromHost : Instr → Bool
  | .submit _ _ | .cancelQueued _ _ | .cancelAll _ _ | .hostMemoryRead _ _ _ | .hostMemoryWrite _ _ _ | .getVersion _ | .getCapabilities _
  | .negotiateAlgorithms _ _ _ _ _ | .getDigests _ | .getCertificate _ _ _ _ | .challenge _ _ _ | .getMeasurements _ _ | .keyExchange _ _
  | .finish _ _ | .heartbeat _ _ | .endSession _ _ | .ideKm _ _ _ _ | .tdispRequest _ _ => true
  | .registerWrite (.windowRecord _ _ _ _) | .registerWrite (.notify _ _ _) | .registerWrite (.rassel _ _) | .registerWrite (.msixMask _ _ _)
  | .registerWrite (.msixEntry _ _ _ _) | .registerWrite (.barRead _ _ _) => true
  | _ => false

/-- The first task with a region in which a hop of a chain is in transfer within this package. -/
def State.hopTask (s : State) (uid hop : Nat) : Option Nat :=
  (s.tasks.find? fun (i, t) => t.region.active && !((s.onTask i).ownTransfer uid hop).isEmpty).map (·.1)

/-- An event from outside takes its place: what other members send and what concerns a joined region on its task, a hop within this
package that is declared failed (07 R243), any other at once; the host functions answer nothing before bring-up has enabled them
(18 R406). -/
def State.deliverEvent (s : State) (i : Instr) : State :=
  if s.bringUp < 7 && fromHost i then s
  else match i, (match i with | .chainFreeze uid hop 2 => s.hopTask uid hop | _ => none) with
  | .chainFreeze uid hop _, some k => s.failHops k ((s.onTask k).ownTransfer uid hop)
  | _, _ => match i with
  | .hopPerform _ _ _ _ | .chainConfigArrival _ _ _ _ _ | .chainRelease _ _ | .chainFreeze _ _ _ | .regionFreeze _
  | .regionResume | .regionExit | .slideTimeout =>
    let f := s.onTask s.joinedTask
    if !f.region.active || f.region.total = 0 then s else f.peerEvent i
  | _ => { s with turn := [({}, .event i)] }

/-- The first event from outside that is due (DESIGN CHOICE, notes/assumptions/6.md). -/
def State.inboxMove (s : State) : Option State :=
  match s.inbox.find? (fun p => decide (p.1 ≤ s.ptc)) with
  | none => none
  | some p =>
    let s1 : State := { s with inbox := s.inbox.erase p }
    some (if external p.2 then s1.deliverEvent p.2 else s1)

/-- The group unit's events of this tick that come first (13 R347 steps 1 and 2). -/
def State.groupMove (s : State) : Option State :=
  let put := fun (i : Instr) => some { s with turn := [(({} : Focus), Turn.event i)] }
  match s.groups.find? (fun (_, v) => decide (v.state = 1) && decide (v.deadline ≠ 0) && v.pausedAt.isNone && decide (v.deadline + v.pause ≤ s.ptc)) with
  | some (g, _) => put (.groupDeadline g)
  | none =>
    s.groups.findSome? fun (g, v) =>
      let due := (v.reports.filter fun r => decide (r.2.2 ≤ s.ptc)).map (·.1)
      match due with
      | [] => none
      | m :: rest => put (.groupReportApply g (rest.foldl min m))

/-- The group unit's events of this tick that come last (13 R347 steps 4 and 5). -/
def State.groupClose (s : State) : Option State :=
  match s.groups.find? (fun (_, v) => (s.nextCancel v).isSome) with
  | some (g, _) => some { s with turn := [(({} : Focus), Turn.event (.groupCancelApply g))] }
  | none => s.completeGroup.map fun g => s.resolve g false

/-- The distributor's next move (10 R285 to R289, 18 R404, R406). While a full checkpoint waits for its saves, no head is claimed or
refused (R404 is silent on it; DESIGN CHOICE, notes/assumptions/64.md). -/
def State.distributorMove (s : State) : Option State :=
  let put := fun (i : Instr) => some { s with turn := [(({} : Focus), Turn.event i)] }
  if s.bringUp < 7 then none
  else if s.checkpoint.full then (if s.allSaved then put .memoryCheckpoint else none)
  else
    match s.queues.findSome? (fun (q, v) => v.head.bind fun n => (s.refusal q n).map fun r => (q, r)) with
    | some (q, r) => put (.taskRefused q r)
    | none => if decide (s.nextSelect ≤ s.ptc) && !s.candidates.isEmpty then put .selection else none

/-- The limits have been kept for 2^16 ticks: the throttle is over (18 R407). -/
def State.throttleMove (s : State) : Option State :=
  if s.throttle.active && s.throttle.below.any (fun t => decide (t + 65536 ≤ s.ptc)) then
    some { s with turn := [({}, .event .throttleResume)] }
  else none

/-- A message that may leave now: what raised it has performed (18 R391). -/
def State.messageMove (s : State) : Option State :=
  s.fns.findSome? fun (fn, f) =>
    if s.hostHeld.any fun w => w.origin == 257 && w.ctx == fn then none
    else (f.msixPending.find? fun v => !f.masked.contains v && !(f.lastMsg.any fun p => p.1 == v && decide (s.ptc < p.2 + 4096))).map fun v =>
      { s with turn := [(({} : Focus), Turn.event (.msixMessage fn v))] }

/-- Chooses what runs next in this tick; when nothing is left, the tick passes. -/
def State.schedule (s : State) : State :=
  match s.tasks.find? (fun (_, t) => t.region.opened) with
  | some (i, _) => (s.onTask i).cycleNext
  | none =>
    (((((((s.groupMove.orElse fun _ => s.inboxMove).orElse fun _ => s.throttleMove).orElse fun _ =>
      s.tasks.findSome? fun (i, _) => (s.onTask i).taskMove).orElse fun _ => s.distributorMove).orElse fun _ =>
      s.messageMove).orElse fun _ => s.groupClose).getD { s with turn := [(s.cur, .phase .tick)] })

/-- A power-on reset that waits outside a part without power (18 R406, R407). -/
def State.resetWaits (s : State) : Bool := s.inbox.any fun p => p.2 == .powerOnReset

end Sys2Proof.Machine
end

