-- ==== Sys2Proof/Machine/Dispatch.lean ====
section
/-!
DEFINITION. The dispatch: one arm per constructor, one call of its meaning.
-/

namespace Sys2Proof.Machine

def exec (i : Instr) (s : State) : Host.Outcome State Fault Refusal :=
  match i with
  | .idle n => Sys2Proof.Machine.execIdle n s
  | .waitt a im => Sys2Proof.Machine.execWaitt a im s
  | .add d a b => Sys2Proof.Machine.execAdd d a b s
  | .sub d a b => Sys2Proof.Machine.execSub d a b s
  | .and d a b => Sys2Proof.Machine.execAnd d a b s
  | .or d a b => Sys2Proof.Machine.execOr d a b s
  | .xor d a b => Sys2Proof.Machine.execXor d a b s
  | .sll d a b => Sys2Proof.Machine.execSll d a b s
  | .srl d a b => Sys2Proof.Machine.execSrl d a b s
  | .sra d a b => Sys2Proof.Machine.execSra d a b s
  | .slt d a b => Sys2Proof.Machine.execSlt d a b s
  | .sltn d a b => Sys2Proof.Machine.execSltn d a b s
  | .min d a b => Sys2Proof.Machine.execMin d a b s
  | .max d a b => Sys2Proof.Machine.execMax d a b s
  | .minn d a b => Sys2Proof.Machine.execMinn d a b s
  | .maxn d a b => Sys2Proof.Machine.execMaxn d a b s
  | .clz d a => Sys2Proof.Machine.execClz d a s
  | .ctz d a => Sys2Proof.Machine.execCtz d a s
  | .popc d a => Sys2Proof.Machine.execPopc d a s
  | .sext d a w => Sys2Proof.Machine.execSext d a w s
  | .mul d a b => Sys2Proof.Machine.execMul d a b s
  | .mulh d a b => Sys2Proof.Machine.execMulh d a b s
  | .mulhn d a b => Sys2Proof.Machine.execMulhn d a b s
  | .div d a b => Sys2Proof.Machine.execDiv d a b s
  | .divn d a b => Sys2Proof.Machine.execDivn d a b s
  | .rem d a b => Sys2Proof.Machine.execRem d a b s
  | .remn d a b => Sys2Proof.Machine.execRemn d a b s
  | .addi d a im => Sys2Proof.Machine.execAddi d a im s
  | .andi d a im => Sys2Proof.Machine.execAndi d a im s
  | .ori d a im => Sys2Proof.Machine.execOri d a im s
  | .xori d a im => Sys2Proof.Machine.execXori d a im s
  | .slti d a im => Sys2Proof.Machine.execSlti d a im s
  | .sltni d a im => Sys2Proof.Machine.execSltni d a im s
  | .slli d a sh => Sys2Proof.Machine.execSlli d a sh s
  | .srli d a sh => Sys2Proof.Machine.execSrli d a sh s
  | .srai d a sh => Sys2Proof.Machine.execSrai d a sh s
  | .lui d im => Sys2Proof.Machine.execLui d im s
  | .addsh d a b sh => Sys2Proof.Machine.execAddsh d a b sh s
  | .madi d a b im => Sys2Proof.Machine.execMadi d a b im s
  | .beq a b o => Sys2Proof.Machine.execBeq a b o s
  | .bne a b o => Sys2Proof.Machine.execBne a b o s
  | .blt a b o => Sys2Proof.Machine.execBlt a b o s
  | .bge a b o => Sys2Proof.Machine.execBge a b o s
  | .bltn a b o => Sys2Proof.Machine.execBltn a b o s
  | .bgen a b o => Sys2Proof.Machine.execBgen a b o s
  | .j o => Sys2Proof.Machine.execJ o s
  | .jal d o => Sys2Proof.Machine.execJal d o s
  | .jr d a im => Sys2Proof.Machine.execJr d a im s
  | .loop l a e => Sys2Proof.Machine.execLoop l a e s
  | .loopi l c e => Sys2Proof.Machine.execLoopi l c e s
  | .loops l k e => Sys2Proof.Machine.execLoops l k e s
  | .lregRead d f => Sys2Proof.Machine.execLregRead d f s
  | .lregWrite a f => Sys2Proof.Machine.execLregWrite a f s
  | .ldq d a z c o => Sys2Proof.Machine.execLdq d a z c o s
  | .lqpop d => Sys2Proof.Machine.execLqpop d s
  | .stq d a z o => Sys2Proof.Machine.execStq d a z o s
  | .lds d a z o => Sys2Proof.Machine.execLds d a z o s
  | .sts d a z o => Sys2Proof.Machine.execSts d a z o s
  | .mark g st => Sys2Proof.Machine.execMark g st s
  | .amo a b p acq rel w => Sys2Proof.Machine.execAmo a b p acq rel w s
  | .amoCas d a b acq rel w => Sys2Proof.Machine.execAmoCas d a b acq rel w s
  | .csrr d c => Sys2Proof.Machine.execCsrr d c s
  | .csrw d a c => Sys2Proof.Machine.execCsrw d a c s
  | .csrs d a c => Sys2Proof.Machine.execCsrs d a c s
  | .csrc d a c => Sys2Proof.Machine.execCsrc d a c s
  | .trap n => Sys2Proof.Machine.execTrap n s
  | .brk n => Sys2Proof.Machine.execBrk n s
  | .tret => Sys2Proof.Machine.execTret s
  | .retire => Sys2Proof.Machine.execRetire s
  | .taskEndSignal t => Sys2Proof.Machine.execTaskEndSignal t s
  | .rgenter d a => Sys2Proof.Machine.execRgenter d a s
  | .allotCopyEngines => Sys2Proof.Machine.execAllotCopyEngines s
  | .regionEntry => Sys2Proof.Machine.execRegionEntry s
  | .joinEntry who what => Sys2Proof.Machine.execJoinEntry who what s
  | .joinEntryTimeout core => Sys2Proof.Machine.execJoinEntryTimeout core s
  | .rgexit => Sys2Proof.Machine.execRgexit s
  | .regionExit => Sys2Proof.Machine.execRegionExit s
  | .realign a im => Sys2Proof.Machine.execRealign a im s
  | .ringcfg a n => Sys2Proof.Machine.execRingcfg a n s
  | .ringq d n st => Sys2Proof.Machine.execRingq d n st s
  | .fmtw u a => Sys2Proof.Machine.execFmtw u a s
  | .wload u m => Sys2Proof.Machine.execWload u m s
  | .mmaR u l m => Sys2Proof.Machine.execMmaR u l m s
  | .mmaC u l m => Sys2Proof.Machine.execMmaC u l m s
  | .arrayCommandStart arr => Sys2Proof.Machine.execArrayCommandStart arr s
  | .wloadTileReplace arr t => Sys2Proof.Machine.execWloadTileReplace arr t s
  | .contributionPerform arr uid => Sys2Proof.Machine.execContributionPerform arr uid s
  | .hopPerform chain hop slot p => Sys2Proof.Machine.execHopPerform chain hop slot p s
  | .chbuild im a => Sys2Proof.Machine.execChbuild im a s
  | .chainConfigArrival chain hop slot residual splice => Sys2Proof.Machine.execChainConfigArrival chain hop slot residual splice s
  | .chclose im => Sys2Proof.Machine.execChclose im s
  | .closeRowPerform w => Sys2Proof.Machine.execCloseRowPerform w s
  | .normContribution slot pc who q => Sys2Proof.Machine.execNormContribution slot pc who q s
  | .chainRelease chain slot => Sys2Proof.Machine.execChainRelease chain slot s
  | .chfree im => Sys2Proof.Machine.execChfree im s
  | .chstat im a => Sys2Proof.Machine.execChstat im a s
  | .chsplice im a k => Sys2Proof.Machine.execChsplice im a k s
  | .chainFreeze chain hop reason => Sys2Proof.Machine.execChainFreeze chain hop reason s
  | .lzero st => Sys2Proof.Machine.execLzero st s
  | .lread st m => Sys2Proof.Machine.execLread st m s
  | .lreadM st m => Sys2Proof.Machine.execLreadM st m s
  | .sstr a n => Sys2Proof.Machine.execSstr a n s
  | .gcfg a => Sys2Proof.Machine.execGcfg a s
  | .configReady uid => Sys2Proof.Machine.execConfigReady uid s
  | .grun a => Sys2Proof.Machine.execGrun a s
  | .grunC a => Sys2Proof.Machine.execGrunC a s
  | .grunS k => Sys2Proof.Machine.execGrunS k s
  | .grunCS k => Sys2Proof.Machine.execGrunCS k s
  | .gridRunStart run => Sys2Proof.Machine.execGridRunStart run s
  | .gridBundleIssue run => Sys2Proof.Machine.execGridBundleIssue run s
  | .gridRunEnd run => Sys2Proof.Machine.execGridRunEnd run s
  | .streamBeat se run beat => Sys2Proof.Machine.execStreamBeat se run beat s
  | .streamWritePerform se run dst bytes => Sys2Proof.Machine.execStreamWritePerform se run dst bytes s
  | .copy a n => Sys2Proof.Machine.execCopy a n s
  | .copyd a n => Sys2Proof.Machine.execCopyd a n s
  | .copyRowStage uid row => Sys2Proof.Machine.execCopyRowStage uid row s
  | .copyRowPerform uid row => Sys2Proof.Machine.execCopyRowPerform uid row s
  | .copydDigestPerform uid => Sys2Proof.Machine.execCopydDigestPerform uid s
  | .erchkOn a b => Sys2Proof.Machine.execErchkOn a b s
  | .erchkOff => Sys2Proof.Machine.execErchkOff s
  | .cwb a b => Sys2Proof.Machine.execCwb a b s
  | .cinv a b => Sys2Proof.Machine.execCinv a b s
  | .cwbi a b => Sys2Proof.Machine.execCwbi a b s
  | .cpf a b c => Sys2Proof.Machine.execCpf a b c s
  | .launch d a b => Sys2Proof.Machine.execLaunch d a b s
  | .fork d a => Sys2Proof.Machine.execFork d a s
  | .greport a => Sys2Proof.Machine.execGreport a s
  | .gwait d a => Sys2Proof.Machine.execGwait d a s
  | .gwaitY d a => Sys2Proof.Machine.execGwaitY d a s
  | .gcancel d a b => Sys2Proof.Machine.execGcancel d a b s
  | .gstat d a b sel => Sys2Proof.Machine.execGstat d a b sel s
  | .snap d a b => Sys2Proof.Machine.execSnap d a b s
  | .accept d a => Sys2Proof.Machine.execAccept d a s
  | .reject d a => Sys2Proof.Machine.execReject d a s
  | .snapq d a sel => Sys2Proof.Machine.execSnapq d a sel s
  | .fadd f => Sys2Proof.Machine.execFadd f s
  | .fsub f => Sys2Proof.Machine.execFsub f s
  | .fmul f => Sys2Proof.Machine.execFmul f s
  | .fma f => Sys2Proof.Machine.execFma f s
  | .fms f => Sys2Proof.Machine.execFms f s
  | .fmin f => Sys2Proof.Machine.execFmin f s
  | .fmax f => Sys2Proof.Machine.execFmax f s
  | .fcmp f => Sys2Proof.Machine.execFcmp f s
  | .fsel f => Sys2Proof.Machine.execFsel f s
  | .fsgn f => Sys2Proof.Machine.execFsgn f s
  | .fspec f => Sys2Proof.Machine.execFspec f s
  | .cvt f => Sys2Proof.Machine.execCvt f s
  | .bf2 f => Sys2Proof.Machine.execBf2 f s
  | .iadd f => Sys2Proof.Machine.execIadd f s
  | .isub f => Sys2Proof.Machine.execIsub f s
  | .imul f => Sys2Proof.Machine.execImul f s
  | .ilog f => Sys2Proof.Machine.execIlog f s
  | .ish f => Sys2Proof.Machine.execIsh f s
  | .icmp f => Sys2Proof.Machine.execIcmp f s
  | .iminmax f => Sys2Proof.Machine.execIminmax f s
  | .mov f => Sys2Proof.Machine.execMov f s
  | .lperm f => Sys2Proof.Machine.execLperm f s
  | .lbcast f => Sys2Proof.Machine.execLbcast f s
  | .lred f => Sys2Proof.Machine.execLred f s
  | .lshift f => Sys2Proof.Machine.execLshift f s
  | .msk f => Sys2Proof.Machine.execMsk f s
  | .rngc f => Sys2Proof.Machine.execRngc f s
  | .defer f => Sys2Proof.Machine.execDefer f s
  | .gridSlotCScalar w => Sys2Proof.Machine.execGridSlotCScalar w s
  | .gridResultPerform w => Sys2Proof.Machine.execGridResultPerform w s
  | .cpResultPerform d v => Sys2Proof.Machine.execCpResultPerform d v s
  | .loadReplyLand seq => Sys2Proof.Machine.execLoadReplyLand seq s
  | .storePerform seq => Sys2Proof.Machine.execStorePerform seq s
  | .storeQueueAccept seq => Sys2Proof.Machine.execStoreQueueAccept seq s
  | .regionFreeze note => Sys2Proof.Machine.execRegionFreeze note s
  | .itemLand => Sys2Proof.Machine.execItemLand s
  | .regionResume => Sys2Proof.Machine.execRegionResume s
  | .slideTimeout => Sys2Proof.Machine.execSlideTimeout s
  | .regionDeadline => Sys2Proof.Machine.execRegionDeadline s
  | .taskBudgetExpiry => Sys2Proof.Machine.execTaskBudgetExpiry s
  | .preemptionRequest t => Sys2Proof.Machine.execPreemptionRequest t s
  | .saveComplete => Sys2Proof.Machine.execSaveComplete s
  | .restoreBind => Sys2Proof.Machine.execRestoreBind s
  | .restoreResume => Sys2Proof.Machine.execRestoreResume s
  | .selection => Sys2Proof.Machine.execSelection s
  | .taskBind => Sys2Proof.Machine.execTaskBind s
  | .taskRefused q reason => Sys2Proof.Machine.execTaskRefused q reason s
  | .submit fn q => Sys2Proof.Machine.execSubmit fn q s
  | .cancelQueued fn q => Sys2Proof.Machine.execCancelQueued fn q s
  | .cancelAll fn q => Sys2Proof.Machine.execCancelAll fn q s
  | .registerWrite r => Sys2Proof.Machine.execRegisterWrite r s
  | .queueEnable q => Sys2Proof.Machine.execQueueEnable q s
  | .slidemaxWrite v => Sys2Proof.Machine.execSlidemaxWrite v s
  | .groupDeadline g => Sys2Proof.Machine.execGroupDeadline g s
  | .groupReportApply g im => Sys2Proof.Machine.execGroupReportApply g im s
  | .groupMemberEnd g im => Sys2Proof.Machine.execGroupMemberEnd g im s
  | .groupCancelApply g => Sys2Proof.Machine.execGroupCancelApply g s
  | .gwaitRelease g => Sys2Proof.Machine.execGwaitRelease g s
  | .quotaGrow ctx lines => Sys2Proof.Machine.execQuotaGrow ctx lines s
  | .translationFaultResolve ctx edit => Sys2Proof.Machine.execTranslationFaultResolve ctx edit s
  | .translationFaultUnresolvable t => Sys2Proof.Machine.execTranslationFaultUnresolvable t s
  | .translationFlush ctx => Sys2Proof.Machine.execTranslationFlush ctx s
  | .migrationCopy granule target => Sys2Proof.Machine.execMigrationCopy granule target s
  | .migrationFlip granule => Sys2Proof.Machine.execMigrationFlip granule s
  | .migrationCleanup granule edit => Sys2Proof.Machine.execMigrationCleanup granule edit s
  | .sliceRetire die slice => Sys2Proof.Machine.execSliceRetire die slice s
  | .remapResponse task core seq => Sys2Proof.Machine.execRemapResponse task core seq s
  | .copyEviction die line => Sys2Proof.Machine.execCopyEviction die line s
  | .correctableError p => Sys2Proof.Machine.execCorrectableError p s
  | .uncorrectableError p consumed => Sys2Proof.Machine.execUncorrectableError p consumed s
  | .resourceRetire r => Sys2Proof.Machine.execResourceRetire r s
  | .hostMemoryRead fn va n => Sys2Proof.Machine.execHostMemoryRead fn va n s
  | .hostMemoryWrite fn va bytes => Sys2Proof.Machine.execHostMemoryWrite fn va bytes s
  | .msixMessage fn vec => Sys2Proof.Machine.execMsixMessage fn vec s
  | .getVersion rq => Sys2Proof.Machine.execGetVersion rq s
  | .getCapabilities rq => Sys2Proof.Machine.execGetCapabilities rq s
  | .negotiateAlgorithms rq p521 sha512 secp521r1 aes256gcm => Sys2Proof.Machine.execNegotiateAlgorithms rq p521 sha512 secp521r1 aes256gcm s
  | .getDigests rq => Sys2Proof.Machine.execGetDigests rq s
  | .getCertificate rq slot off len => Sys2Proof.Machine.execGetCertificate rq slot off len s
  | .challenge rq slot nonce => Sys2Proof.Machine.execChallenge rq slot nonce s
  | .getMeasurements rq index => Sys2Proof.Machine.execGetMeasurements rq index s
  | .keyExchange rq slot => Sys2Proof.Machine.execKeyExchange rq slot s
  | .finish rq session => Sys2Proof.Machine.execFinish rq session s
  | .heartbeat rq session => Sys2Proof.Machine.execHeartbeat rq session s
  | .endSession rq session => Sys2Proof.Machine.execEndSession rq session s
  | .ideKm rq session fn op => Sys2Proof.Machine.execIdeKm rq session fn op s
  | .tdispRequest rq next => Sys2Proof.Machine.execTdispRequest rq next s
  | .sealContext ctx => Sys2Proof.Machine.execSealContext ctx s
  | .tdiUnlock fn error => Sys2Proof.Machine.execTdiUnlock fn error s
  | .flitReceive port f => Sys2Proof.Machine.execFlitReceive port f s
  | .nak port seq => Sys2Proof.Machine.execNak port seq s
  | .linkFail port => Sys2Proof.Machine.execLinkFail port s
  | .linkRetrain port latency => Sys2Proof.Machine.execLinkRetrain port latency s
  | .counterFlitSend port => Sys2Proof.Machine.execCounterFlitSend port s
  | .counterFlitReceive port ts => Sys2Proof.Machine.execCounterFlitReceive port ts s
  | .peerTransfer ctx va bytes => Sys2Proof.Machine.execPeerTransfer ctx va bytes s
  | .memoryCheckpoint => Sys2Proof.Machine.execMemoryCheckpoint s
  | .fullCheckpoint => Sys2Proof.Machine.execFullCheckpoint s
  | .checkpointRestore image signature => Sys2Proof.Machine.execCheckpointRestore image signature s
  | .powerOnReset => Sys2Proof.Machine.execPowerOnReset s
  | .bringUp ok => Sys2Proof.Machine.execBringUp ok s
  | .throttle => Sys2Proof.Machine.execThrottle s
  | .throttleResume => Sys2Proof.Machine.execThrottleResume s
  | .thermalTrip die => Sys2Proof.Machine.execThermalTrip die s
  | .illegalInstruction w => Sys2Proof.Machine.execIllegalInstruction w s
  | .contextDestroy ctx => Sys2Proof.Machine.execContextDestroy ctx s
  | .checkpointDrainComplete => Sys2Proof.Machine.execCheckpointDrainComplete s

end Sys2Proof.Machine
end

