-- ==== Sys2Proof/Machine/Step.lean ====
section
/-!
DEFINITION. The step: what stands first on the turn runs, or the schedule says what comes next.
-/

namespace Sys2Proof.Machine

/-- Runs what a fetch or an event admits. -/
def State.perform (f : Fetched) : Host.Outcome State Fault Refusal :=
  match f with
  | .run i s => exec i s
  | .stop s => .next s

/-- Runs one turn in its focus. -/
def runTurn (t : Turn) (s : State) : Host.Outcome State Fault Refusal :=
  match t with
  | .issue => State.perform s.fetch
  | .event i => State.perform (s.admitEvent i)
  | .phase p => .next (runPhase p s)

/-- One step of a part that has power and is out of reset. -/
def State.advance (s : State) : Host.Outcome State Fault Refusal :=
  match s.turn with
  | (f, t) :: rest => runTurn t { s with cur := f, turn := rest }
  | [] => .next s.schedule

/-- One step. Nothing runs on a part without power or held in reset but a power-on reset (18 R406, R407). -/
def step (s : State) : Host.Outcome State Fault Refusal :=
  match s.power with
  | .on => s.advance
  | .held => if s.resetWaits then exec .powerOnReset s else .fault .heldInReset
  | .removed => if s.resetWaits then exec .powerOnReset s else .fault .powerRemoved

/-- The state with the instruction of a table row placed where the next step fetches it (DESIGN CHOICE, notes/assumptions/3.md). -/
def State.withFetchWord (s : State) (nbits w : Nat) : State := s.placeWord (w % 2 ^ nbits)

end Sys2Proof.Machine
end

