-- ==== Sys2Proof/Safety.lean ====
section
/-!
DEFINITION. What a safe run keeps: the canonical form of memory and the bounds that the spec gives registers; and the
words of the statements: what an instruction leaves alone, and how a result is delivered.
-/

namespace Sys2Proof.Machine

/-! ### The invariant -/

/-- Memory is in canonical form: addresses strictly rising, no entry equal to what an unlisted address reads (zero). -/
def Memory.wf (m : List Host.Cell) : Bool := SMap.wf (0 : Byte) m

/-- slidemax lies within the bounds of 05 R177. -/
def slidemaxOk (n : Nat) : Bool := decide (2 ^ 12 ≤ n) && decide (n ≤ 2 ^ 40)

/-- What every step keeps: memory's canonical form, also in what a trap would take back, and slidemax within its bounds. -/
def State.Inv (s : State) : Prop :=
  Memory.wf s.mem = true ∧ (∀ b, s.pre = some b → Memory.wf b.mem = true) ∧ slidemaxOk s.slidemax = true

/-! ### What is left alone -/

/-- Every byte of memory reads as before, in every view: views have numbers of 16 bits (12 R318). -/
def SameMemory (s t : State) : Prop := ∀ view pa, view < 0x10000 → t.readView view pa = s.readView view pa

/-- Nothing changes but the task in focus and the counter of free values (DESIGN CHOICE, notes/assumptions/4.md): no other task, no
memory, queue, context, group or die. -/
def OnlyTask (s t : State) : Prop :=
  t = { s with tasks := SMap.put s.tasks s.cur.task t.task, fresh := t.fresh }

/-- Of the task, only the core in focus and the region change. -/
def OnlyHere (s t : State) : Prop :=
  OnlyTask s t ∧ t.task = { s.task with cores := SMap.put s.task.cores s.cur.core t.core, region := t.region }

/-- Nothing changes but the core in focus. -/
def OnlyCore (s t : State) : Prop := OnlyHere s t ∧ t.region = s.region

/-- Of a core, only registers, control (pc, loops, path signature), counters and the time of the next issue change: no
trap register, queue, scratchpad, code, ring, array, link or grid. -/
def Core.SameUnits (c d : Core) : Prop :=
  d = { c with x := d.x, regPoison := d.regPoison, pc := d.pc, loops := d.loops, active := d.active, psig := d.psig,
               hpc := d.hpc, hpcNow := d.hpcNow, nextIssue := d.nextIssue }

/-- Every register of the core in focus reads as before. -/
def SameRegs (s t : State) : Prop := ∀ r, t.core.rx r = s.core.rx r

/-- Register `d` reads `v`, unless it is x0, which reads 0; every other register reads as before (02 R48). -/
def Sets (s t : State) (d : Reg) (v : Word) : Prop :=
  ∀ r, t.core.rx r = if r = d ∧ d ≠ 0 then v else s.core.rx r

/-- The counters change only where their selectors select one of the events (03 R116). -/
def CountsOnly (s t : State) (evs : List Nat) : Prop :=
  ∀ i : Fin 4, (∀ ev ∈ evs, selects s.core.hpe[i] s.timed ev = false) →
    t.core.hpc[i] = s.core.hpc[i] ∧ t.core.hpcNow[i] = s.core.hpcNow[i]

/-! ### Issue and delivery -/

/-- The next issue comes `n` cycles later in timed code (03 R74), and no sooner than `n` ticks later in loose code. -/
def IssuesAfter (s t : State) (n : Nat) : Prop :=
  if s.timed then t.core.nextIssue = s.rt + n else s.ptc + n ≤ t.core.nextIssue

/-- Control has the values of core c: pc, loop registers, active levels and path signature. -/
def Core.Control (c d : Core) : Prop := d.pc = c.pc ∧ d.loops = c.loops ∧ d.active = c.active ∧ d.psig = c.psig

/-- From core c, control passes sequentially (03 R89); the instruction is counted, with further events `evs`. -/
def PassesFrom (c : Core) (s t : State) (n : Nat) (evs : List Nat) : Prop :=
  (c.sequential s.timed).Control t.core ∧ CountsOnly s t (1 :: 0x0E :: evs) ∧ IssuesAfter s t n

/-- Control passes sequentially from the core in focus. -/
def Passes (s t : State) (n : Nat) (evs : List Nat) : Prop := PassesFrom s.core s t n evs

/-- From core c, control transfers to `a` (03 R80 to R82, R90). -/
def JumpsFrom (c : Core) (s t : State) (a : Word) (n : Nat) : Prop :=
  (c.transfer s.timed a).Control t.core ∧ CountsOnly s t [1, 0x0D] ∧ IssuesAfter s t n

/-- The item that delivers a CP result `latency` cycles after its issue (03 R72). -/
def cpItem (s : State) (d : Reg) (v : Word) (latency : Nat) : Pend :=
  { due := s.rt + latency, rank := 0, key := [s.rt], core := s.cur.core, act := .event (.cpResultPerform d v),
    seq := s.region.seq, took := s.rt, pc := s.core.pc, by' := s.cur.core }

/-- The region with an item on its agenda. -/
def Region.with1 (r : Region) (p : Pend) : Region := { r with agenda := r.agenda ++ [p], seq := r.seq + 1 }

/-- A CP result of the latency goes to register `d`: at once in loose code (03 R71), at issue + latency in timed code
(03 R72), nowhere for x0 (03 R73); memory and every other unit stay. -/
def Delivers (s t : State) (d : Reg) (v : Word) (latency : Nat) : Prop :=
  OnlyHere s t ∧ SameMemory s t ∧ s.core.SameUnits t.core ∧
  (if s.timed then SameRegs s t ∧ t.region = (if d = 0 then s.region else s.region.with1 (cpItem s d v latency))
   else Sets s t d v ∧ t.region = s.region)

/-- Nothing changes but control, counters and the time of the next issue. -/
def Quiet (s t : State) : Prop := OnlyCore s t ∧ SameMemory s t ∧ SameRegs s t ∧ s.core.SameUnits t.core

/-- A target that timed code cannot reach (03 R83). -/
def State.outside (s : State) (a : Word) : Bool := s.timed && decide (0x10000 ≤ a.toNat)

/-- The word of an instruction, as tval holds it (17 R378). -/
def wordOf (i : Instr) : Word := ((encode i).getD 0).setWidth 64

/-- A trap raised by the instruction that issues (02 R50, 03 R111, R113): in loose code cause, epc and tval take their values and
the handler runs at tvec, or the task ends faulted where there is none or it runs already; in timed code the trap is
recorded for the end of the cycle. No register and no memory changes; the consumption of poison (cause 0x0C) is also
logged (17 R382). -/
def Traps (s t : State) (cause sub : Nat) (tval : Word) : Prop :=
  let epc := s.core.pc &&& 0xFFFFFFFFFFFFFFFC
  SameMemory s t ∧ SameRegs s t ∧
  (cause ≠ 0x0C → t = { s with tasks := SMap.put s.tasks s.cur.task t.task, turn := t.turn }) ∧
  (if s.timed then
     OnlyHere s t ∧ t.core = { s.core with nextIssue := s.rt + 1 } ∧
     t.region = { s.region with traps := s.region.traps ++ [⟨s.cur.core, 0, cause, sub, tval, s.core.pc⟩] }
   else
     t.core.cause = BitVec.ofNat 64 (256 * cause + sub) ∧ t.core.epc = epc ∧ t.core.tval = tval ∧ t.region = s.region ∧
     (if s.core.tvec ≠ 0 ∧ s.core.handler = false then
        t.core = { s.core with cause := t.core.cause, epc := epc, tval := tval, handler := true, pc := s.core.tvec } ∧
        t.task = { s.task with cores := SMap.put s.task.cores s.cur.core t.core } ∧ t.turn = s.turn
      else
        t.core = { s.core with cause := t.core.cause, epc := epc, tval := tval } ∧
        t.task.state = .ending .faulted ∧
        t.task.fault = some ⟨t.core.cause, epc, tval, none, s.cur.core, false, false, s.core.handler⟩ ∧
        t.turn = (s.cur, .phase .taskEnd) :: s.turn))

/-- Nothing changes but counters that select one of the events. -/
def Counted (s t : State) (evs : List Nat) : Prop :=
  OnlyCore s t ∧ SameMemory s t ∧ t.core = { s.core with hpc := t.core.hpc, hpcNow := t.core.hpcNow } ∧ CountsOnly s t evs

/-- A trap behind walks of the page table that have been counted (03 R117). -/
def TrapsWalked (s t : State) (cause sub : Nat) (tval : Word) : Prop := ∃ s1, Counted s s1 [0x0B, 0x0C] ∧ Traps s1 t cause sub tval

/-! ### The results that the spec gives the instructions -/

/-- Number of zero bits above the highest one bit (03 R75). -/
def leadingZeros (v : Word) : Nat := ((List.range 64).takeWhile fun i => !v.getLsbD (63 - i)).length
/-- Number of zero bits below the lowest one bit (03 R75). -/
def trailingZeros (v : Word) : Nat := ((List.range 64).takeWhile fun i => !v.getLsbD i).length
/-- Number of one bits (03 R75). -/
def oneBits (v : Word) : Nat := ((List.range 64).filter fun i => v.getLsbD i).length

/-- The destination and the value of an OP instruction (03 R75). -/
def opResult (s : State) : Instr → Option (Reg × Word)
  | .add d a b => some (d, s.rx a + s.rx b)
  | .sub d a b => some (d, s.rx a - s.rx b)
  | .and d a b => some (d, s.rx a &&& s.rx b)
  | .or d a b => some (d, s.rx a ||| s.rx b)
  | .xor d a b => some (d, s.rx a ^^^ s.rx b)
  | .sll d a b => some (d, s.rx a <<< ((s.rx b).extractLsb' 0 6))
  | .srl d a b => some (d, s.rx a >>> ((s.rx b).extractLsb' 0 6))
  | .sra d a b => some (d, (s.rx a).sshiftRight' ((s.rx b).extractLsb' 0 6))
  | .slt d a b => some (d, if (s.rx a).toInt < (s.rx b).toInt then 1 else 0)
  | .sltn d a b => some (d, if (s.rx a).toNat < (s.rx b).toNat then 1 else 0)
  | .min d a b => some (d, BitVec.ofInt 64 (min (s.rx a).toInt (s.rx b).toInt))
  | .max d a b => some (d, BitVec.ofInt 64 (max (s.rx a).toInt (s.rx b).toInt))
  | .minn d a b => some (d, BitVec.ofNat 64 (min (s.rx a).toNat (s.rx b).toNat))
  | .maxn d a b => some (d, BitVec.ofNat 64 (max (s.rx a).toNat (s.rx b).toNat))
  | .clz d a => some (d, BitVec.ofNat 64 (leadingZeros (s.rx a)))
  | .ctz d a => some (d, BitVec.ofNat 64 (trailingZeros (s.rx a)))
  | .popc d a => some (d, BitVec.ofNat 64 (oneBits (s.rx a)))
  | .sext d a 0 => some (d, ((s.rx a).extractLsb' 0 8).signExtend 64)
  | .sext d a 1 => some (d, ((s.rx a).extractLsb' 0 16).signExtend 64)
  | .sext d a 2 => some (d, ((s.rx a).extractLsb' 0 32).signExtend 64)
  | _ => none

/-- The destination and the value of an immediate form, LUI and ADDSH (03 R76 to R78). -/
def immResult (s : State) : Instr → Option (Reg × Word)
  | .addi d a i => some (d, s.rx a + BitVec.ofInt 64 i.toInt)
  | .andi d a i => some (d, s.rx a &&& BitVec.ofInt 64 i.toInt)
  | .ori d a i => some (d, s.rx a ||| BitVec.ofInt 64 i.toInt)
  | .xori d a i => some (d, s.rx a ^^^ BitVec.ofInt 64 i.toInt)
  | .slti d a i => some (d, if (s.rx a).toInt < i.toInt then 1 else 0)
  | .sltni d a i => some (d, if (s.rx a).toNat < (BitVec.ofInt 64 i.toInt).toNat then 1 else 0)
  | .slli d a sh => some (d, s.rx a <<< sh)
  | .srli d a sh => some (d, s.rx a >>> sh)
  | .srai d a sh => some (d, (s.rx a).sshiftRight' sh)
  | .lui d i => some (d, BitVec.ofInt 64 (i.toInt * 2 ^ 13))
  | .addsh d a b sh => some (d, BitVec.ofNat 64 ((s.rx a).toNat + (s.rx b).toNat * 2 ^ sh.toNat))
  | _ => none

/-- The destination and the value of a multiplication (03 R78, R79). -/
def mulResult (s : State) : Instr → Option (Reg × Word)
  | .mul d a b => some (d, BitVec.ofNat 64 ((s.rx a).toNat * (s.rx b).toNat))
  | .mulh d a b => some (d, ((s.rx a).signExtend 128 * (s.rx b).signExtend 128).extractLsb' 64 64)
  | .mulhn d a b => some (d, ((s.rx a).setWidth 128 * (s.rx b).setWidth 128).extractLsb' 64 64)
  | .madi d a b i => some (d, s.rx a + s.rx b * BitVec.ofInt 64 i.toInt)
  | _ => none

/-- The destination and the value of a division (03 R79): by zero the quotient is all ones and the remainder the
dividend; the quotient of −2^63 by −1 is −2^63. -/
def divResult (s : State) : Instr → Option (Reg × Word)
  | .div d a b => some (d, if s.rx b = 0 then BitVec.allOnes 64 else (s.rx a).sdiv (s.rx b))
  | .rem d a b => some (d, if s.rx b = 0 then s.rx a else (s.rx a).srem (s.rx b))
  | .divn d a b => some (d, if s.rx b = 0 then BitVec.allOnes 64 else (s.rx a).udiv (s.rx b))
  | .remn d a b => some (d, if s.rx b = 0 then s.rx a else (s.rx a).umod (s.rx b))
  | _ => none

/-- The condition and the offset of a conditional branch (03 R80). -/
def branchForm (s : State) : Instr → Option (Bool × BitVec 13)
  | .beq a b o => some (decide (s.rx a = s.rx b), o)
  | .bne a b o => some (decide (s.rx a ≠ s.rx b), o)
  | .blt a b o => some (decide ((s.rx a).toInt < (s.rx b).toInt), o)
  | .bge a b o => some (decide ((s.rx b).toInt ≤ (s.rx a).toInt), o)
  | .bltn a b o => some (decide ((s.rx a).toNat < (s.rx b).toNat), o)
  | .bgen a b o => some (decide ((s.rx b).toNat ≤ (s.rx a).toNat), o)
  | _ => none

/-- pc + 4 × an offset in words. -/
def State.rel {n : Nat} (s : State) (o : BitVec n) : Word := s.core.pc + BitVec.ofInt 64 (4 * o.toInt)

/-- The level, the count and the words to the end of the body of a loop instruction (03 R87). -/
def loopForm (s : State) : Instr → Option (Nat × BitVec 32 × Nat)
  | .loop l a e => some (l.toNat, (s.rx a).extractLsb' 0 32, e.toNat)
  | .loopi l c e => some (l.toNat, BitVec.ofNat 32 c.toNat, e.toNat)
  | .loops l k e => if s.timed then some (l.toNat, SMap.get 0 s.core.shape k.toNat, e.toNat) else none
  | _ => none

/-- The instructions that are legal only in timed code (02 R62). -/
def timedOnly : Instr → Bool
  | .waitt _ _ | .realign _ _ | .loops _ _ _ | .rgexit | .ringcfg _ _ | .fmtw _ _ | .wload _ _ | .mmaR _ _ _ | .mmaC _ _ _
  | .chbuild _ _ | .chclose _ | .chfree _ | .chstat _ _ | .chsplice _ _ _ | .lzero _ | .lread _ _ | .lreadM _ _ | .sstr _ _ | .gcfg _
  | .grun _ | .grunC _ | .grunS _ | .grunCS _ | .copy _ _ | .copyd _ _ | .erchkOn _ _ | .erchkOff => true
  | _ => false

/-- The instructions that are legal only in loose code (02 R62). -/
def looseOnly : Instr → Bool
  | .tret | .retire | .rgenter _ _ | .launch _ _ _ | .fork _ _ | .greport _ | .gwait _ _ | .gwaitY _ _ | .gcancel _ _ _ | .gstat _ _ _ _
  | .snap _ _ _ | .accept _ _ | .reject _ _ | .snapq _ _ _ => true
  | _ => false

/-! ### Memory accesses -/

/-- The address of a Q-format access (03 R93). -/
def State.address (s : State) (a : Reg) (z : BitVec 2) (o : BitVec 9) : Word := s.rx a + BitVec.ofInt 64 (o.toInt * 2 ^ z.toNat)

/-- The trap of an access at its issue (03 R96, 11 R314): none where it translates, or where timed code leaves a
translation fault to firmware. -/
def State.denied (s : State) (va : Nat) (k : Access) : Option (Nat × Nat) :=
  match translateAs s s.agent va k with
  | .ok _ _ => none
  | .tfault n => if s.timed ∧ (n = 1 ∨ n = 4 ∨ n = 5) ∧ s.region.declared = false then none else some (4, n)
  | .pfault n => some (5, n)

/-- The translation that an access of the core in focus gets, physical address and attributes (11 R309 to R311). -/
def State.gets (s : State) (va : Nat) (k : Access) : Option (Nat × Nat) :=
  match translateAs s s.agent va k with
  | .ok pa attr => some (pa, attr)
  | _ => none

/-- The perform time of a load class toward a home, 4 standing for an AMO (03 R94, R104, 05 R163). -/
def State.performAt (s : State) (cls : Nat) (home : Option Nat) : Option Nat :=
  match cls with
  | 0 => some (s.rt + 96)
  | 1 => some (s.rt + 1100)
  | 2 => home.map fun h => s.rt + 1100 + 2 * (if s.myDie = h then 24 else Config.dpl s.myDie h)
  | 3 => some (s.rt + 6000)
  | _ => home.map fun h => s.rt + 1100 + (if h = s.myDie then 0 else 2 * Config.dpl s.myDie h)

/-- A sequence number is younger than every entry of the core's queues. -/
def Core.Youngest (c : Core) (seq : Nat) : Prop :=
  (∀ x ∈ c.loads, x.seq < seq) ∧ (∀ x ∈ c.stores, x.seq < seq) ∧ ∀ x ∈ c.ranges, x.seq < seq

/-- The load queue has one more entry, the youngest, with the translation it gets for an access of kind k (03 R94, R96, R97,
R104). -/
def LoadQueued (s t : State) (reg : Reg) (va : Word) (n cls : Nat) (k : Access) : Prop :=
  let tr := s.gets va.toNat k
  ∃ e, t.core.loads = s.core.loads ++ [e] ∧ s.core.Youngest e.seq ∧
    e.reg = reg ∧ e.va = va ∧ e.size = n ∧ e.cls = cls ∧ e.issue = s.rt ∧ e.pc = s.core.pc ∧ e.tr = tr ∧
    e.perform = (if s.timed then s.performAt cls (tr.map fun p => homeDie p.1) else none) ∧
    e.sent = none ∧ e.value = none ∧ e.landed = false ∧ e.poison = false

/-- The store queue has one more entry, the youngest (03 R99, R104, 08 R257). -/
def StoreQueued (s t : State) (va : Word) (kind : StoreKind) (tr : Option (Nat × Nat)) : Prop :=
  ∃ e, t.core.stores = s.core.stores ++ [e] ∧ s.core.Youngest e.seq ∧
    e.va = va ∧ e.kind = kind ∧ e.issue = s.rt ∧ e.pc = s.core.pc ∧ e.tr = tr ∧ e.sent = none ∧ e.heldSince = none

/-- A range instruction has entered its queues, the youngest entry of the core (08 R256, 14 R361, R363): with the translation of
every 64 KiB granule of its range, or with none while one is missing. -/
def RangeQueued (s t : State) (op : Nat) (A : Word) (n count : Nat) (k : Access) (starts : List Nat) : Prop :=
  ∃ e, t.core.ranges = s.core.ranges ++ [e] ∧ s.core.Youngest e.seq ∧
    e.op = op ∧ e.va = A ∧ e.len = n ∧ e.count = count ∧ e.issue = s.rt ∧ e.pc = s.core.pc ∧ e.next = A.toNat ∧
    e.sent = none ∧ e.heldSince = none ∧
    if ∀ p ∈ starts, (s.gets p k).isSome = true then
      e.pages.map (fun x => x.1) = starts ∧ ∀ x ∈ e.pages, s.gets x.1 k = some x.2
    else e.pages = []

/-- Of the core, the queues change too, and of a context the translations that its TLBs keep (11 R311). -/
def QueuesOnly (s t : State) : Prop :=
  OnlyCore s { t with contexts := s.contexts } ∧ (∀ c, t.ctx c = { s.ctx c with tlb := (t.ctx c).tlb }) ∧ SameMemory s t ∧
  SameRegs s t ∧ { s.core with loads := t.core.loads, stores := t.core.stores, ranges := t.core.ranges }.SameUnits t.core

/-- A loose instruction waits: it changes nothing but what it waits for and the tick of its next try. -/
def TriesLater (s t : State) (w : Wait) : Prop :=
  OnlyTask s t ∧ SameMemory s t ∧ t.core = { s.core with nextIssue := s.ptc + 1 } ∧
  t.task = { s.task with cores := SMap.put s.task.cores s.cur.core t.core, wait := w }

/-- The failed store of a loose task is observed (12 R335): the Hedgerow trap, the failure being cleared. -/
def FailedObserved (s t : State) (va : Word) : Prop := Traps (s.setTask { s.task with failed := none }) t 0x0B 2 va

/-- The addresses at which a range of n bytes from A enters its 64 KiB pages. -/
def pageStarts (A n : Nat) : List Nat :=
  (List.range ((A % 0x10000 + n + 0xFFFF) / 0x10000)).map fun i => max A ((A / 0x10000 + i) * 0x10000)

/-- The form of a range instruction: 0 CWB, 1 CINV, 2 CWBI, 3 CPF, its operands and class (14 R360). -/
def rangeForm : Instr → Option (Nat × Reg × Reg × Nat)
  | .cwb a b => some (0, a, b, 0)
  | .cinv a b => some (1, a, b, 0)
  | .cwbi a b => some (2, a, b, 0)
  | .cpf a b c => some (3, a, b, c.toNat)
  | _ => none

/-- The form of an AMO: address, operation, 64 bits, operand, compare value, acq, rel (03 R103). -/
def amoForm (s : State) : Instr → Option (Word × Nat × Bool × Word × Word × Bool × Bool)
  | .amo a b p acq rel w => some (s.rx a, p.toNat, decide (w = 1), s.rx b, 0, decide (acq = 1), decide (rel = 1))
  | .amoCas d a b acq rel w => some (s.rx a, 9, decide (w = 1), s.rx b, s.rx d, decide (acq = 1), decide (rel = 1))
  | _ => none

/-- A byte of the scratchpad of the core in focus. -/
def State.spad (s : State) (a : Nat) : Byte := SMap.get 0 s.core.scratch a

/-- Byte i of a value (00 R7). -/
def byteOf (v : Word) (i : Nat) : Byte := (v >>> (8 * i)).setWidth 8

/-- The bytes of a store and no others read anew in the view it goes to; in no other view does anything read anew, but
that a view without a private line of its own reads view 0 (12 R318, R332); while a granule migrates, a store reaches its line's
copy too (11 R315). -/
def StoresBytes (s t : State) (tv pa : Nat) (bytes : List Byte) : Prop :=
  (∀ i, (h : i < bytes.length) → t.readView tv (pa + i) = bytes[i]) ∧
  (∀ view x, view < 0x10000 → (tv ≠ 0 → view = tv → x < pa ∨ pa + bytes.length ≤ x) →
    (tv = 0 → ∀ i < bytes.length, s.storage x ≠ s.storage (pa + i) ∧ s.mirror (pa + i) ≠ some (s.storage x)) →
    t.readView view x = s.readView view x)

/-- The value that an AMO writes at a width, by its number (03 R103); `sum` is the rounded floating-point sum; none where a cas fails. -/
def amoTable {w : Nat} (op : Nat) (old v c sum : BitVec w) : Option (BitVec w) :=
  match op with
  | 0 => some (BitVec.ofNat w (old.toNat + v.toNat))
  | 1 => some (old &&& v)
  | 2 => some (old ||| v)
  | 3 => some (old ^^^ v)
  | 4 => some (BitVec.ofInt w (min old.toInt v.toInt))
  | 5 => some (BitVec.ofInt w (max old.toInt v.toInt))
  | 6 => some (BitVec.ofNat w (min old.toNat v.toNat))
  | 7 => some (BitVec.ofNat w (max old.toNat v.toNat))
  | 8 => some v
  | 9 => if old = c then some v else none
  | _ => some sum

/-- The bytes that an AMO of 8 or 4 bytes writes over an old value (03 R103). -/
def amoWrites (op : Nat) (wide : Bool) (old v c : Word) : Option (List Byte) :=
  if wide then (amoTable op old v c (rne64 ((dp old).add (dp v)))).map fun x => leBytes 8 x.toNat
  else
    let low := fun (x : Word) => BitVec.ofNat 32 x.toNat
    (amoTable op (low old) (low v) (low c) (rne32 ((fp (low old)).add (fp (low v))))).map fun x => leBytes 4 x.toNat

/-- An entry left the store queue: the others stay, but for MARKs that nothing holds any more (08 R258). -/
def LeftQueue (s t : State) (seq : Nat) : Prop :=
  (∀ x ∈ t.core.stores, x ∈ s.core.stores ∧ (x.isMark = false → x.seq ≠ seq)) ∧
  (∀ x ∈ s.core.stores, x.isMark = false → x.seq ≠ seq → x ∈ t.core.stores)

/-! ### Regions and tasks -/

/-- The task in focus ends faulted with this fault, on core k; what the fault takes back and writes comes next (17 R379). -/
def FaultsTask (s t : State) (k : Nat) (f : FaultInfo) : Prop :=
  t = { s with
    cur := { s.cur with core := k }
    tasks := SMap.put s.tasks s.cur.task { s.task with fault := some f, state := .ending .faulted }
    turn := ({ s.cur with core := k }, .phase .taskEnd) :: s.turn }

/-- Nothing changes but the region of the task in focus. -/
def OnlyRegion (s t : State) : Prop :=
  t = { s with tasks := SMap.put s.tasks s.cur.task t.task } ∧ t.task = { s.task with region := t.region }

/-- The plan's preconditions of an RGENTER (05 R168, R169): loose code, an empty load queue, no failed store, every store done. -/
def State.mayEnter (s : State) : Prop :=
  s.timed = false ∧ s.core.loads = [] ∧ s.task.failed = none ∧ s.storesDone = true

/-- A descriptor that RGENTER accepts (05 R165, R168, 18 R402): no reserved field set, every value in its range, and an XLAT other than 0
only where the context's join, with all its links aligned, has no longer route. -/
def State.descLegal (s : State) (b : List Byte) : Prop :=
  let f := fun o n => leNat ((b.drop o).take n)
  f 0x0C 4 = 0 ∧ f 0x2C 4 = 0 ∧ f 0x50 48 = 0 ∧ f 0 8 % 32 = 0 ∧ 1 ≤ f 8 4 ∧ f 8 4 ≤ s.task.ncores ∧
  2048 ≤ f 0x10 8 ∧ f 0x10 8 ≤ 2 ^ 32 ∧ 1 ≤ f 0x18 8 ∧ f 0x18 8 < 2 ^ 48 ∧ f 0x20 8 % 256 = 0 ∧ f 0x28 4 ≤ 4095 ∧
  (f 0x28 4 = 0 ∨ ∃ j, (s.ctx s.task.ctx).join = some j ∧ j.latency ≤ f 0x28 4 ∧ s.greatestRoute (f 8 4) ≤ f 0x28 4 ∧
    j.aligned = true ∧ s.joinUp = true)

/-- A core-table entry that RGENTER accepts (05 R166, R168). -/
def entryLegal (b : List Byte) : Prop :=
  let f := fun o n => leNat ((b.drop o).take n)
  f 0x1C 4 = 0 ∧ f 0 8 % 4 = 0 ∧ f 8 4 % 4 = 0 ∧ 4 ≤ f 8 4 ∧ f 8 4 ≤ 0x10000 ∧ f 0x0C 4 % 128 = 0 ∧ f 0x10 8 % 128 = 0 ∧
  f 0x18 4 % 128 = 0 ∧ f 0x0C 4 + f 0x18 4 ≤ 0x180000 ∧ (f 0x10 8 = 0 → f 0x18 4 = 0)

/-- A core ready for cycle 0 with an image (05 R169). -/
def Core.Loaded (c : Core) (p : CoreImage) : Prop :=
  c.pc = 0 ∧ c.active = [] ∧ c.loads = [] ∧ c.stores = [] ∧ c.ranges = [] ∧ c.exited = false ∧ c.nextIssue = 0 ∧ c.rings = [] ∧ c.arrays = [] ∧
  c.links = [] ∧ c.runs = [] ∧ c.streams = [] ∧ c.shadow = none ∧ c.checker = (0, 0) ∧
  (∀ i, (h : i < p.code.length) → SMap.get 0 c.code i = p.code[i]) ∧
  (∀ i, (h : i < p.image.length) → SMap.get 0 c.scratch (p.entry.sdst + i) = p.image[i])

/-! ### Engine commands of a region -/

/-- The region's agenda has further items: for each its cycle, its core and what runs (05 R183). -/
def Posted (s t : State) (l : List (Nat × Nat × Turn)) : Prop :=
  ∃ ps : List Pend, ps.map (fun p => (p.due, p.core, p.act)) = l ∧
    t.region = { s.region with agenda := s.region.agenda ++ ps, seq := t.region.seq }

/-- A command has issued: control passes, the agenda has further items, and nothing else changes. -/
def Issues (s t : State) (l : List (Nat × Nat × Turn)) : Prop :=
  OnlyHere s t ∧ SameMemory s t ∧ SameRegs s t ∧ s.core.SameUnits t.core ∧ Passes s t 1 [] ∧ Posted s t l

/-- The trap of a descriptor's address: misaligned, or beyond the scratchpad (06 R195, R202, R203, R210). -/
def descTrap (a : Word) (align size : Nat) : Option (Nat × Nat) :=
  if a.toNat % align ≠ 0 then some (3, 0) else if 0x180000 < a.toNat + size then some (5, 5) else none

/-- A command with a descriptor: its address traps, or it issues. -/
def Commands (s t : State) (a : Word) (align size : Nat) (l : List (Nat × Nat × Turn)) : Prop :=
  match descTrap a align size with
  | some (cause, sub) => Traps s t cause sub a
  | none => Issues s t l

/-- A unit records a trap for the end of the cycle, and nothing else changes (03 R113, 05 R185). -/
def UnitTraps (s t : State) (unit cause sub : Nat) (tval epc : Word) (by' : Nat) : Prop :=
  OnlyRegion s t ∧ SameMemory s t ∧ t.task.cores = s.task.cores ∧
  t.region = { s.region with traps := s.region.traps ++ [⟨by', unit, cause, sub, tval, epc⟩] }

/-- A sampling of n bytes of the scratchpad of the core in focus (06 R214, 17 R382): a write that has issued and is still to perform is
left to the early-read check at the cycle's end, poison traps, and else what follows holds of s1, the same check still to come. -/
def Samples (s t : State) (unit a n : Nat) (pc : Word) (next : State → Prop) : Prop :=
  if (s.earlyRead s.cur.core a n).isSome = true then
    OnlyRegion s t ∧ Posted s t [(s.rt, s.cur.core, .phase (.earlyCheck unit [(a, n)] pc s.cur.core))]
  else if s.core.spoisoned a n = true then UnitTraps s t unit 0x0C 3 (BitVec.ofNat 64 a) pc s.cur.core
  else ∃ s1, next s1 ∧ t = s1.checkAgain unit s.cur.core [(a, n)] pc s.cur.core

/-- A producer's write into a ring (06 R189 to R191, R193): slots that consumers of this cycle sample whole pop ahead of it; a slot
that is not free then traps; otherwise the bytes stand in the slot of the sequence number, and the last write of a slot makes it
arrived, with its tag. Counts wrap at 2^32. -/
def RingWritten (s t : State) (unit : Nat) (w : RingWrite) : Prop :=
  let r0 := s.core.ring w.ring
  let r := if r0.full w.seq then r0.popEarly (s.wholeSlots s.cur.core w.ring) w.seq 64 else r0
  if r.configured = false ∨ r.count ≤ (w.seq + (2 ^ 32 - r.pops % 2 ^ 32)) % 2 ^ 32 then
    UnitTraps s t unit 6 3 (BitVec.ofNat 64 w.ring) (BitVec.ofNat 64 w.pc) w.by'
  else
    let a := r.slotAddr w.seq + w.off
    let q := t.core.ring w.ring
    OnlyCore s t ∧ SameMemory s t ∧
    t.core = { s.core with scratch := t.core.scratch, scratchPoison := t.core.scratchPoison, rings := t.core.rings } ∧
    (∀ x, t.spad x = if a ≤ x ∧ x < a + w.bytes.length then w.bytes.getD (x - a) 0 else s.spad x) ∧
    (∀ n, n ≠ w.ring → t.core.ring n = s.core.ring n) ∧
    q = { r with tags := q.tags, arrived := q.arrived, begun := q.begun
                 arrivals := if w.last then (r.arrivals + 1) % 2 ^ 32 else r.arrivals } ∧
    (w.last = true → SMap.get false q.arrived (r.index w.seq) = true ∧ SMap.get 0 q.tags (r.index w.seq) = w.seq % 0x10000)

/-- The form of a command of an array: unit, whether it is a WLOAD, orientation C, link and ring (07 R221). -/
def arrayForm : Instr → Option (BitVec 2 × Bool × Bool × Nat × Nat)
  | .wload u m => some (u, true, false, 0, m.toNat)
  | .mmaR u l m => some (u, false, false, l.toNat, m.toNat)
  | .mmaC u l m => some (u, false, true, l.toNat, m.toNat)
  | _ => none

/-- An engine command that names an array that a BX core does not have, or a copy engine beyond cecount (02 R61, 06 R210). -/
def State.noUnit (s : State) : Instr → Bool
  | .fmtw u _ | .wload u _ | .mmaR u _ _ | .mmaC u _ _ => s.onBX && decide (2 ≤ u.toNat)
  | .copy _ n | .copyd _ n => decide (s.cecount ≤ n.toNat)
  | _ => false

/-- The start cycle of an array's next command (07 R216): two cycles after its issue, and no sooner than the pass of the
one before allows: 64 cycles after a WLOAD for a WLOAD, 72 for an MMA, else the pass time. -/
def startAfter (last : Option (Nat × Nat × Bool)) (issue : Nat) (load : Bool) : Nat :=
  match last with
  | none => issue + 2
  | some (start, pass, wasLoad) => max (issue + 2) (start + if wasLoad then (if load then 64 else 72) else pass)

/-- The pass time of an MMA under a format word (07 R217). -/
def passOf (fw : Word) : Nat := if fwWfmt fw = 3 then 16 else if fwAfmt fw ≤ 3 then 32 else 64

/-- A link after one contribution (07 R229, 01 R32, R36): every element has taken its products, and it counts one more. -/
def Entered (l l' : Link) (anchor : Option Int) (ps : Nat → List Fp) : Prop :=
  l' = { l with elems := l'.elems, states := l'.states, inexact := l'.inexact, received := l.received + 1 } ∧
  ∀ e,
    if e < 4096 then
      match anchor with
      | some a =>
        let r := contributeX64 a (ps e) (SMap.get 0 l.elems e, SMap.get 0 l.states e, false)
        SMap.get 0 l'.elems e = r.1 ∧ SMap.get 0 l'.states e = r.2.1
      | none => SMap.get 0 l'.elems e = contributeD64 (ps e) (SMap.get 0 l.elems e) ∧ SMap.get 0 l'.states e = SMap.get 0 l.states e
    else SMap.get 0 l'.elems e = SMap.get 0 l.elems e ∧ SMap.get 0 l'.states e = SMap.get 0 l.states e

/-- What becomes of a contribution at link slot n (07 R228): an unbuilt slot, a residual slot, a chain of the other kind and
a full hop trap; a frozen chain refuses it; otherwise it enters. -/
def Contributes (s t : State) (n : Nat) (scalar : Bool) (pc : Word) (by' : Nat) (enters : Link → Chain → Prop) : Prop :=
  let l := s.core.link n
  match l.role, s.region.chain l.chain with
  | .hop, some c =>
    if c.scalar ≠ scalar then UnitTraps s t 3 0x0A 7 (BitVec.ofNat 64 n) pc by'
    else if c.frozen.isSome then
      OnlyCore s t ∧ SameMemory s t ∧ t.core = s.core.setLink n { l with refused := l.refused + 1 }
    else if ((c.hop l.hop).map (·.count)).getD 0 ≤ l.received then UnitTraps s t 3 0x0A 2 (BitVec.ofNat 64 c.id) pc by'
    else enters l c
  | .residual, _ => UnitTraps s t 3 0x0A 7 (BitVec.ofNat 64 n) pc by'
  | _, _ => UnitTraps s t 3 0x0A 1 (BitVec.ofNat 64 ((s.region.base + s.cur.core) * 256 + n)) pc by'

/-- The slots that a chain's hops hold, each with its hop, its core and the cycle of its release after CHCLOSE or CHFREE (07 R242,
R246). -/
def State.freed (s : State) (c : Chain) (tailAfter : Nat) : List (Nat × Nat × Nat × Nat) :=
  c.hops.zipIdx.flatMap fun (h, k) =>
    let at' := s.rt + (if k = c.tail then tailAfter else s.lambda h.core)
    (k, h.core, at', h.slot) :: (if h.hfmt = 4 then [(k, h.core, at', h.rslot)] else [])

/-- The releases of the slots that this package's cores hold. -/
def State.releases (s : State) (uid : Nat) (c : Chain) (tailAfter : Nat) : List (Nat × Nat × Turn) :=
  ((s.freed c tailAfter).filter fun x => decide (x.2.1 < farCore)).map fun (_, core, at', slot) =>
    (at', core, .event (.chainRelease uid ⟨slot, none⟩))

/-- The state after its messages to other members of a joined region (18 R399). -/
def State.told (s : State) (l : List (Nat × Instr)) : State := l.foldl (fun s (n, i) => s.tell n i) s

/-- The members that host the other slots have been told of their release (18 R403). -/
def State.releasesTold (s : State) (uid : Nat) (c : Chain) (tailAfter : Nat) : State :=
  s.told (((s.freed c tailAfter).filter fun x => decide (farCore ≤ x.2.1)).map fun (k, core, at', slot) =>
    (core - farCore, .chainRelease uid ⟨slot, some (k, at')⟩))

/-- The items of a close from its issue on (07 R239 to R241): a scalar's element at issue + 32; else rows of 64 elements, four in a cycle,
and the sum of their squares for the NORM link. -/
def State.closing (s : State) (c : Chain) (tail : Link) (issue seq : Nat) (pc : Word) (norm : Option Nat) (scales : List (BitVec 32)) :
    List (Nat × Nat × Turn) :=
  let z := c.close
  let n := outBytes z.ofmt
  let out := (List.range 4096).map (closeElement z tail (c.anchorOf c.tail) scales)
  let row := fun (at' r : Nat) (bytes : List Byte) (last : Bool) =>
    (at', s.cur.core, Turn.event (.closeRowPerform ⟨z.dring, seq, r * 64 * n, bytes, last, pc.toNat, s.cur.core, []⟩))
  if c.scalar = true then [row (issue + 32) 0 (leBytes n (closeElement z tail (c.anchorOf c.tail) scales 0)) true]
  else ((List.range 64).map fun r => row (issue + 32 + r / 4) r (((out.drop (64 * r)).take 64).flatMap (leBytes n)) (r == 63)) ++
    norm.toList.map fun slot => (issue + 56, s.cur.core, .event (.normContribution slot pc.toNat s.cur.core
      (out.foldl (fun q o => rne64 ((dp q).add ((outValue z o).mul (outValue z o)))) 0)))

/-- Nothing changes but link slot n of the core in focus. -/
def OnlyLink (s t : State) (n : Nat) (l : Link) : Prop := OnlyCore s t ∧ SameMemory s t ∧ t.core = s.core.setLink n l

/-- Whether a GRUN commits the staged configuration, and its iterations (06 R204). -/
def runForm (s : State) : Instr → Option (Bool × Nat)
  | .grun a => some (false, (s.rx a).toNat % 2 ^ 32)
  | .grunC a => some (true, (s.rx a).toNat % 2 ^ 32)
  | .grunS k => some (false, (SMap.get 0 s.core.shape k.toNat).toNat)
  | .grunCS k => some (true, (SMap.get 0 s.core.shape k.toNat).toNat)
  | _ => none

/-- Bytes of the scratchpad of the core in focus are written, and no others; whole granules lose their poison. -/
def ScratchWritten (s t : State) (a : Nat) (bytes : List Byte) : Prop :=
  OnlyCore s t ∧ SameMemory s t ∧ t.core = { s.core with scratch := t.core.scratch, scratchPoison := t.core.scratchPoison } ∧
  ∀ x, t.spad x = if a ≤ x ∧ x < a + bytes.length then bytes.getD (x - a) 0 else s.spad x

/-- A write of an engine to memory performs within a line that its agent reaches at its home (06 R207, 08 R253, R264, 12 R322):
the bytes of its view read anew, and no others. -/
def EngineStores (s t : State) (g : Agent) (va : Nat) (bytes : List Byte) : Prop :=
  ∀ pa attr, 0 < bytes.length → va % 128 + bytes.length ≤ 128 → pa % 128 = va % 128 →
    translateAs s g va .write = .ok pa attr → g.remote pa attr = false → s.foreign g.ctx pa = false →
    (pa < 2 ^ 51 → s.hedgeOk g.ctx (pa / 128) (g.target va attr) = true) →
    StoresBytes s t (if 2 ^ 51 ≤ pa then 0 else g.target va attr) pa bytes

/-- Where an output beat goes and when it performs (06 R187, R199): to the scratchpad 3 cycles later, to a ring with its
route's latency, to memory with the latency of its class. -/
def State.beatGoes (s : State) (u : Run) (d : StreamDesc) (j seq : Nat) : BeatDest × Nat × Nat :=
  match d.space with
  | 0 => (.scratch (d.addr d.base j), s.rt + 3, s.cur.core)
  | 1 => (.ring ⟨d.base, seq, d.addr 0 j, [], decide (j % d.perSlot = d.perSlot - 1), u.pc.toNat, s.cur.core, []⟩,
      s.rt + (if d.core = s.cur.core then 3 else s.lambda d.core), d.core)
  | _ => (.mem (d.addr d.base j),
      s.rt + (if d.cls = 1 then 1100 else if d.cls = 2 then 1100 + Config.dieLatency s.myDie (s.physDie d.die) else 6000), s.cur.core)

/-! ### The grid (04) -/

/-- A grid operation has issued: its result performs `latency` cycles later on its element, and nothing else changes
(04 R129, R130). -/
def GridIssues (s t : State) (latency : Nat) (w : GridWrite) : Prop :=
  OnlyRegion s t ∧ SameMemory s t ∧
  t.region = s.region.with1 { due := s.rt + latency, rank := 1, key := [s.rt, s.cur.slot], core := s.cur.core, el := s.cur.el,
                              seq := s.region.seq, act := .event (.gridResultPerform w), pc := s.core.runPc, by' := s.cur.core }

/-- The predicates of FCMP in terms of < and NaN (04 R144). -/
def compares (p : Nat) (x y : Fp) : Bool :=
  if x.isNan || y.isNan then p == 1 || p == 6
  else match p with
    | 0 => !x.ltIeee y && !y.ltIeee x
    | 1 => x.ltIeee y || y.ltIeee x
    | 2 => x.ltIeee y
    | 3 => !y.ltIeee x
    | 4 => y.ltIeee x
    | 5 => !x.ltIeee y
    | 6 => false
    | _ => true

/-- A lane of all ones where b holds. -/
def mark32 (b : Bool) : BitVec 32 := if b then 0xFFFFFFFF else 0

/-- A lane of CVT by its kind, mod [4:1], with mod [0] set for rtz and mod [1] for saturation (04 R148). -/
def convert (m : BitVec 5) (a b : BitVec 32) : BitVec 32 :=
  let rtz := m.getLsbD 0
  let kind := m.extractLsb' 1 4
  let two := fun (n : Nat) (code : Fp → Nat) => BitVec.ofNat 32 (code (fp a)) + (BitVec.ofNat 32 (code (fp b)) <<< n)
  if kind = 0 then rne32 (fbf.decode (a.extractLsb' 0 16).toNat)
  else if kind = 1 then rne32 (fbf.decode (a.extractLsb' 16 16).toNat)
  else if kind = 2 then rne32 (f16.decode (a.extractLsb' 0 16).toNat)
  else if kind = 3 then rne32 (f16.decode (a.extractLsb' 16 16).toNat)
  else if kind = 4 then rne32 (e4m3.decode (a.extractLsb' 0 8).toNat)
  else if kind = 5 then rne32 (e5m2.decode (a.extractLsb' 0 8).toNat)
  else if kind = 6 then rne32 (ofInt (dptUnits (a.extractLsb' 0 8).toNat) (-6))
  else if kind = 7 then two 8 (toDpt8 rtz)
  else if kind = 8 then BitVec.ofNat 32 (f32.encode rtz false (Fp.ofInteger a.toInt))
  else if kind = 9 then BitVec.ofInt 32 ((fp a).toInt rtz 32)
  else if kind = 10 then two 16 (fbf.encode rtz false)
  else if kind = 11 then two 16 (f16.encode rtz false)
  else if kind = 12 ∨ kind = 13 then two 8 (e4m3.encode rtz (m.getLsbD 1))
  else two 8 (e5m2.encode rtz (m.getLsbD 1))

/-- The destination, the latency and the lanes of a floating-point grid operation (04 R141 to R150). -/
def floatLanes (s : State) : Instr → Option (BitVec 5 × Nat × (Fin 16 → BitVec 32))
  | .fadd f => some (f.d, 4, fun i => rne32 ((fp (s.src f.a)[i]).add (fp (s.src f.b)[i])))
  | .fsub f => some (f.d, 4, fun i => rne32 ((fp (s.src f.a)[i]).add (fp (s.src f.b)[i]).negate))
  | .fmul f => some (f.d, 4, fun i => rne32 ((fp (s.src f.a)[i]).mul (fp (s.src f.b)[i])))
  | .fma f => some (f.d, 4, fun i => rne32 (((fp (s.src f.a)[i]).mul (fp (s.src f.b)[i])).add (fp (s.src f.c)[i])))
  | .fms f => some (f.d, 4, fun i => rne32 (((fp (s.src f.a)[i]).mul (fp (s.src f.b)[i])).add (fp (s.src f.c)[i]).negate))
  | .fmin f => some (f.d, 1, fun i => rne32 (Fp.minOf (fp (s.src f.a)[i]) (fp (s.src f.b)[i])))
  | .fmax f => some (f.d, 1, fun i => rne32 (Fp.maxOf (fp (s.src f.a)[i]) (fp (s.src f.b)[i])))
  | .fcmp f => some (f.d, 1, fun i => mark32 (compares f.m.toNat (fp (s.src f.a)[i]) (fp (s.src f.b)[i])))
  | .fsel f => some (f.d, 1, fun i =>
      if (s.mask (f.m.toNat % 4)).getLsbD i.val = !f.m.getLsbD 2 then (s.src f.a)[i] else (s.src f.b)[i])
  | .fsgn f => some (f.d, 1, fun i =>
      let a := (s.src f.a)[i]
      let b := (s.src f.b)[i]
      if (fp a).isNan then 0x7FC00000
      else if f.m = 0 then a &&& 0x7FFFFFFF
      else if f.m = 1 then a ^^^ 0x80000000
      else (b &&& 0x80000000) ||| (a &&& 0x7FFFFFFF))
  | .fspec f => some (f.d, 8, fun i => rne32 (special f.m.toNat (fp (s.src f.a)[i])))
  | .cvt f => some (f.d, 2, fun i => convert f.m (s.src f.a)[i] (s.src f.b)[i])
  | .bf2 f => some (f.d, 4, fun i =>
      let half := fun k =>
        let x := fbf.decode ((s.src f.a)[i].extractLsb' k 16).toNat
        let y := fbf.decode ((s.src f.b)[i].extractLsb' k 16).toNat
        let z := fbf.decode ((s.src f.c)[i].extractLsb' k 16).toNat
        BitVec.ofNat 32 (fbf.rne (match f.m.toNat with
          | 0 => x.add y
          | 1 => x.add y.negate
          | 2 => x.mul y
          | _ => (x.mul y).add z))
      half 0 + half 16 * 65536)
  | _ => none

/-- A sum or difference under IADD's and ISUB's mod: modulo 2^32, or clamped as signed or unsigned (04 R151). -/
def clampTo (m : BitVec 5) (wrap : BitVec 32) (signed unsigned : Int) : BitVec 32 :=
  if m = 0 then wrap
  else if m = 1 then BitVec.ofInt 32 (max (-2147483648) (min 2147483647 signed))
  else BitVec.ofInt 32 (max 0 (min 4294967295 unsigned))

/-- The destination and the lanes of an integer grid operation; every latency is 1 (04 R151). -/
def integerLanes (s : State) : Instr → Option (BitVec 5 × (Fin 16 → BitVec 32))
  | .iadd f => some (f.d, fun i =>
      let a := (s.src f.a)[i]
      let b := (s.src f.b)[i]
      clampTo f.m (a + b) (a.toInt + b.toInt) ((a.toNat : Int) + b.toNat))
  | .isub f => some (f.d, fun i =>
      let a := (s.src f.a)[i]
      let b := (s.src f.b)[i]
      clampTo f.m (a - b) (a.toInt - b.toInt) ((a.toNat : Int) - b.toNat))
  | .imul f => some (f.d, fun i =>
      let a := (s.src f.a)[i]
      let b := (s.src f.b)[i]
      if f.m = 0 then a * b
      else if f.m = 1 then (a.signExtend 64 * b.signExtend 64).extractLsb' 32 32
      else (a.setWidth 64 * b.setWidth 64).extractLsb' 32 32)
  | .ilog f => some (f.d, fun i =>
      let a := (s.src f.a)[i]
      let b := (s.src f.b)[i]
      if f.m = 0 then a &&& b else if f.m = 1 then a ||| b else if f.m = 2 then a ^^^ b else a &&& ~~~b)
  | .ish f => some (f.d, fun i =>
      let a := (s.src f.a)[i]
      let n := (s.src f.b)[i].extractLsb' 0 5
      if f.m = 0 then a <<< n else if f.m = 1 then a >>> n else a.sshiftRight' n)
  | .icmp f => some (f.d, fun i =>
      let a := (s.src f.a)[i]
      let b := (s.src f.b)[i]
      mark32 (match f.m.toNat with
        | 0 => decide (a = b)
        | 1 => decide (a ≠ b)
        | 2 => decide (a.toInt < b.toInt)
        | 3 => decide (b.toInt ≤ a.toInt)
        | 4 => decide (a.toNat < b.toNat)
        | _ => decide (b.toNat ≤ a.toNat)))
  | .iminmax f => some (f.d, fun i =>
      let a := (s.src f.a)[i]
      let b := (s.src f.b)[i]
      match f.m.toNat with
      | 0 => BitVec.ofInt 32 (min a.toInt b.toInt)
      | 1 => BitVec.ofInt 32 (max a.toInt b.toInt)
      | 2 => BitVec.ofNat 32 (min a.toNat b.toNat)
      | _ => BitVec.ofNat 32 (max a.toNat b.toNat))
  | _ => none

/-- Philox-4x32-10 from counter words c0 to c3 under a key (01 R40): round i has the key k0 + i·W0, k1 + i·W1. -/
def tenRounds (k0 k1 : BitVec 32) (c : BitVec 32 × BitVec 32 × BitVec 32 × BitVec 32) : BitVec 32 × BitVec 32 × BitVec 32 × BitVec 32 :=
  (List.range 10).foldl (fun (c0, c1, c2, c3) i =>
    let p0 := BitVec.ofNat 64 (0xD2511F53 * c0.toNat)
    let p1 := BitVec.ofNat 64 (0xCD9E8D57 * c2.toNat)
    (p1.extractLsb' 32 32 ^^^ c1 ^^^ (k0 + BitVec.ofNat 32 (i * 0x9E3779B9)), p1.extractLsb' 0 32,
     p0.extractLsb' 32 32 ^^^ c3 ^^^ (k1 + BitVec.ofNat 32 (i * 0xBB67AE85)), p0.extractLsb' 0 32)) c

/-- The destination, the value and the latency of a scalar word of slot C over x0 to x7 (04 R158, 03 R72, R75 to R79). -/
def scalarLane (x : Nat → BitVec 32) : Instr → Option (Reg × BitVec 32 × Nat) := fun i =>
  let v := fun (r : Reg) => x r.toNat
  let im := fun {n : Nat} (i : BitVec n) => BitVec.ofInt 32 i.toInt
  let low := fun (r : Reg) => (v r).extractLsb' 0 5
  match i with
  | .add d a b => some (d, BitVec.ofNat 32 ((v a).toNat + (v b).toNat), 1)
  | .sub d a b => some (d, BitVec.ofInt 32 ((v a).toInt - (v b).toInt), 1)
  | .and d a b => some (d, v a &&& v b, 1)
  | .or d a b => some (d, v a ||| v b, 1)
  | .xor d a b => some (d, v a ^^^ v b, 1)
  | .sll d a b => some (d, v a <<< low b, 1)
  | .srl d a b => some (d, v a >>> low b, 1)
  | .sra d a b => some (d, (v a).sshiftRight' (low b), 1)
  | .slt d a b => some (d, if (v a).toInt < (v b).toInt then 1 else 0, 1)
  | .sltn d a b => some (d, if (v a).toNat < (v b).toNat then 1 else 0, 1)
  | .min d a b => some (d, BitVec.ofInt 32 (min (v a).toInt (v b).toInt), 1)
  | .max d a b => some (d, BitVec.ofInt 32 (max (v a).toInt (v b).toInt), 1)
  | .minn d a b => some (d, BitVec.ofNat 32 (min (v a).toNat (v b).toNat), 1)
  | .maxn d a b => some (d, BitVec.ofNat 32 (max (v a).toNat (v b).toNat), 1)
  | .clz d a => some (d, BitVec.ofNat 32 ((List.range 32).takeWhile fun i => !(v a).getLsbD (31 - i)).length, 1)
  | .ctz d a => some (d, BitVec.ofNat 32 ((List.range 32).takeWhile fun i => !(v a).getLsbD i).length, 1)
  | .popc d a => some (d, BitVec.ofNat 32 ((List.range 32).filter fun i => (v a).getLsbD i).length, 1)
  | .sext d a w => some (d, if w = 0 then ((v a).extractLsb' 0 8).signExtend 32 else if w = 1 then ((v a).extractLsb' 0 16).signExtend 32 else v a, 1)
  | .mul d a b => some (d, BitVec.ofNat 32 ((v a).toNat * (v b).toNat), 3)
  | .mulh d a b => some (d, ((v a).signExtend 64 * (v b).signExtend 64).extractLsb' 32 32, 3)
  | .mulhn d a b => some (d, ((v a).setWidth 64 * (v b).setWidth 64).extractLsb' 32 32, 3)
  | .madi d a b i => some (d, v a + v b * im i, 3)
  | .div d a b => some (d, if v b = 0 then BitVec.allOnes 32 else (v a).sdiv (v b), 34)
  | .divn d a b => some (d, if v b = 0 then BitVec.allOnes 32 else (v a).udiv (v b), 34)
  | .rem d a b => some (d, if v b = 0 then v a else (v a).srem (v b), 34)
  | .remn d a b => some (d, if v b = 0 then v a else (v a).umod (v b), 34)
  | .addi d a i => some (d, v a + im i, 1)
  | .andi d a i => some (d, v a &&& im i, 1)
  | .ori d a i => some (d, v a ||| im i, 1)
  | .xori d a i => some (d, v a ^^^ im i, 1)
  | .slti d a i => some (d, if (v a).toInt < i.toInt then 1 else 0, 1)
  | .sltni d a i => some (d, if (v a).toNat < (im i).toNat then 1 else 0, 1)
  | .slli d a sh => some (d, v a <<< sh, 1)
  | .srli d a sh => some (d, v a >>> sh, 1)
  | .srai d a sh => some (d, (v a).sshiftRight' sh, 1)
  | .lui d i => some (d, BitVec.ofInt 32 (i.toInt * 2 ^ 13), 1)
  | .addsh d a b sh => some (d, BitVec.ofNat 32 ((v a).toNat + (v b).toNat * 2 ^ sh.toNat), 1)
  | _ => none

/-- A node of a pairwise tree over leaves l, of the level given (01 R39). -/
def treeNode {α : Type} (op : α → α → α) (l : Nat → α) : Nat → Nat → α
  | 0, i => l i
  | k + 1, i => op (treeNode op l k (2 * i)) (treeNode op l k (2 * i + 1))

/-- The destination, the latency and the lanes of a lane, mask or random operation (04 R152 to R156). -/
def moveLanes (s : State) : Instr → Option (BitVec 5 × Nat × (Fin 16 → BitVec 32))
  | .mov f =>
    if f.m = 0 then some (f.d, 1, fun i => (s.src f.a)[i]) else if f.m = 1 then some (f.d, 1, fun _ => s.gx f.a.toNat) else none
  | .lperm f => some (f.d, 2, fun i => (s.src f.a).toList.getD ((s.src f.b)[i].toNat % 16) 0)
  | .lbcast f => some (f.d, 2, fun _ => (s.src f.a).toList.getD (f.m.toNat % 16) 0)
  | .lshift f => some (f.d, 2, fun i =>
      let k := i.val + f.m.toNat % 16
      if k < 16 then (s.src f.a).toList.getD k 0 else (s.src f.b).toList.getD (k - 16) 0)
  | .lred f => some (f.d, 4, fun _ =>
      let op := f.m.toNat % 4
      let idle : BitVec 32 := if op = 0 then 0x80000000 else if op = 1 then 0xFF800000 else if op = 2 then 0x7F800000 else 0
      treeNode (fun a b => if op = 0 then rne32 ((fp a).add (fp b)) else if op = 1 then rne32 (Fp.maxOf (fp a) (fp b))
          else if op = 2 then rne32 (Fp.minOf (fp a) (fp b)) else a + b)
        (fun i => if f.m.getLsbD 2 && !(s.mask (f.m.toNat / 8)).getLsbD i then idle else (s.src f.a).toList.getD i 0) 4 0)
  | .msk f => some (f.d, 1, fun i =>
      let m := s.mask (f.m.toNat % 4)
      let b := m.getLsbD i.val
      let z := decide ((s.src f.a)[i] ≠ 0)
      match f.m.toNat / 4 with
      | 0 => mark32 (!b)
      | 1 => mark32 b
      | 2 => mark32 (b && z)
      | 3 => mark32 (b && !z)
      | 4 => mark32 (b || z)
      | 5 => BitVec.ofNat 32 ((List.range 16).filter fun k => m.getLsbD k).length
      | 6 => BitVec.ofNat 32 ((List.range 16).takeWhile fun k => !m.getLsbD k).length
      | _ => m.setWidth 32)
  | .rngc f => some (f.d, 8, fun i =>
      let w3 := s.src f.c
      let o := tenRounds w3[0] w3[1] ((s.src f.a)[i], (s.src f.b)[i], w3[2], w3[3])
      let w := if f.m.toNat % 4 = 0 then o.1 else if f.m.toNat % 4 = 1 then o.2.1 else if f.m.toNat % 4 = 2 then o.2.2.1 else o.2.2.2
      if f.m.getLsbD 2 then mark32 (decide (w.toNat < w3[4].toNat)) else rne32 (.fin false (w.toNat / 256) (-24)))
  | _ => none

/-- Nothing changes but one element of the core in focus, and poison that the write clears. -/
def OnlyElem (s t : State) (k : Nat) (e : Elem) : Prop :=
  OnlyCore s t ∧ SameMemory s t ∧ t.core = { s.core with els := SMap.put s.core.els k e, gridPoison := t.core.gridPoison }

/-! ### The device's own writes, queues and tasks (10, 17) -/

/-- No write waits for the Hedgerow, at its home or in a queue, so that no line is locked (12 R334, 14 R354). -/
def State.noneHeld (s : State) : Prop :=
  s.hostHeld = [] ∧ ∀ p ∈ s.tasks, (∀ q ∈ p.2.region.agenda, q.held = []) ∧
    ∀ k ∈ p.2.cores, (∀ e ∈ k.2.stores, e.heldSince = none) ∧ ∀ e ∈ k.2.ranges, e.heldSince = none

/-- What memory is read, written and translated through is the same, but for the blocks that a context counts as held, whether it has
asked for its quota, the translations that its TLBs keep, and the members that join it. -/
def SameMemorySystem (s t : State) : Prop :=
  t.mem = s.mem ∧ t.poison = s.poison ∧ t.versions = s.versions ∧ t.copies = s.copies ∧ (∀ d, (t.die d).remaps = (s.die d).remaps) ∧
  t.owners = s.owners ∧ t.deadKey = s.deadKey ∧ t.checkpoint = s.checkpoint ∧ t.reserve = s.reserve ∧ t.ptc = s.ptc ∧
  ∀ c, t.ctx c = { s.ctx c with held := (t.ctx c).held, asked := (t.ctx c).asked, tlb := (t.ctx c).tlb, joining := (t.ctx c).joining }

/-- The device writes runs of bytes in a context's memory, one after another, while no write waits, and nothing else in memory changes;
where a run goes to is what `DeviceStores` says. -/
def DeviceWrites (s t : State) (c : Nat) (l : List (Nat × List Byte)) : Prop :=
  s.noneHeld → ∃ s0, SameMemorySystem s s0 ∧ s0.noneHeld ∧ SameMemory (l.foldl (fun u (va, b) => u.putMem' c va b) s0) t

/-- A write of the device itself within one line, while no write waits: it performs in view 0 at the home (12 R319), its bytes and no
others. -/
def DeviceStores (s t : State) (c va : Nat) (bytes : List Byte) : Prop :=
  ∀ pa attr, s.noneHeld → 0 < bytes.length → va % 128 + bytes.length ≤ 128 → pa % 128 = va % 128 → translate s c va .none = .ok pa attr →
    s.foreign c pa = false → hedgeRun c [(pa, 0, attr)] s = none → StoresBytes s t 0 pa bytes

/-- A fault record has been written (17 R381), and vector 0 of the context's function is to be raised (18 R391). -/
def FaultRecorded (s t : State) (c : Nat) (cause epc tval : Word) (r : Record) : Prop :=
  (s.noneHeld → ∃ s0, SameMemorySystem s s0 ∧ s0.noneHeld ∧ SameMemory (s0.faultRecord c cause epc tval r) t) ∧ 0 ∈ (t.fn c).msixPending

/-- Of the tasks, only the core in focus changes, and no group. -/
def SameTasks (s t : State) : Prop :=
  t.tasks = SMap.put s.tasks s.cur.task t.task ∧ t.task = { s.task with cores := SMap.put s.task.cores s.cur.core t.core } ∧
  t.groups = s.groups

/-- Queue q has this content, and every other queue is as it was. -/
def OnlyQueue (s t : State) (q : Nat) (v : Queue) : Prop := t.queue q = v ∧ ∀ p, p ≠ q → t.queue p = s.queue p

/-- A task that has not ended. -/
def Task.lives (t : Task) : Bool :=
  match t.state with
  | .ending _ | .gone => false
  | _ => true

/-- A task by its identity. -/
def State.taskAt (s : State) (i : Nat) : Task := SMap.get {} s.tasks i

/-- Number of records of queue q that a cancellation counts: queued, and not cancelled before (10 R282). -/
def Queue.toCancel (v : Queue) : Nat :=
  ((List.range (v.subcount - v.claimcount)).filter fun i => !v.cancelled.contains (v.claimcount + 1 + i)).length

/-- What a save writes of a core, from the core's address in the task block (10 R295, 07 R250): registers and pc, code, scratchpad,
and in a region each link slot's incoming buffer and sent bytes, with the elements and states of a live slot; and the parts in device form,
whose bytes are free (DESIGN CHOICE, notes/assumptions/22.md). -/
def Core.image (c : Core) (va : Nat) (timed : Bool) (live : BitVec 256) : List (Nat × List Byte) :=
  [(va, (c.x.toList.flatMap fun w => leBytes 8 w.toNat) ++ leBytes 8 c.pc.toNat ++ formBytes c 0), (va + 0x40000, formBytes c 1),
   (va + 0x80000, takeBytes c.code 0 0x10000), (va + 0x100000, takeBytes c.scratch 0 0x180000)] ++
  if timed then (List.range 256).flatMap fun n =>
    let l := c.link n
    let a := va + 0x400000 + n * 0x20000
    (if live.getLsbD n then
      [(a, (List.range 4096).flatMap fun e => leBytes 8 (SMap.get 0 l.elems e).toNat), (a + 0x8000, linkStates l)] else []) ++
    [(a + 0x8400, bufferBytes l.incoming), (a + 0x10800, bufferBytes l.sent), (a + 0x18C00, formBytes c (2 + n))] else []

/-- A loose instruction that waited ends its wait, with a value for register d. -/
def WaitEnds (s t : State) (d : Reg) (v : Word) : Prop :=
  OnlyTask s t ∧ SameMemory s t ∧ Sets s t d v ∧ s.core.SameUnits t.core ∧ Passes s t 1 [] ∧
  t.task = { s.task with cores := SMap.put s.task.cores s.cur.core t.core, wait := .none, answer := t.task.answer }

/-- A group record that FORK accepts (13 R338): every field in its range, and the arrays apart from the record and the view range. -/
def groupLegal (b : List Byte) (A : Nat) : Prop :=
  let f := fun o n => leNat ((b.drop o).take n)
  let n := f 0 1
  let apart := fun x k y l => k = 0 ∨ l = 0 ∨ x + k ≤ y ∨ y + l ≤ x
  2 ≤ n ∧ n ≤ 64 ∧ f 1 1 ≤ n ∧ f 2 1 < 2 ∧ f 4 4 < 0x7F800000 ∧ f 0x28 8 % 0x10000 = 0 ∧ f 0x30 8 % 0x10000 = 0 ∧ f 0x30 8 ≤ 2 ^ 40 ∧
  (f 0x30 8 = 0 → f 0x28 8 = 0) ∧ f 0x38 8 = 0 ∧ apart A 256 (f 0x28 8) (f 0x30 8) ∧
  ∀ x ∈ [(f 0x10 8, 4 * n), (f 0x18 8, 4 * n), (f 0x20 8, n)], x.1 % 64 = 0 ∧ apart x.1 x.2 (f 0x28 8) (f 0x30 8) ∧ apart x.1 x.2 A 256

/-- FORK's checks from the translation of the record on, in the order of the listing of 13 R341: for each the condition under which it
fails, and its trap. The addresses of an array that are tried are those at which it enters a 64 KiB page. -/
def State.forkTraps (s : State) (A : Word) (b : List Byte) (pa attr : Nat) : List (Prop × Trapped) :=
  let f := fun o n => leNat ((b.drop o).take n)
  let n := f 0 1
  let v := s.queue (f 3 1)
  let points := pageStarts (f 0x10 8) (4 * n) ++ pageStarts (f 0x18 8) (4 * n) ++ pageStarts (f 0x20 8) n
  let home := fun pa attr => attrPolicy attr = 0 ∧ Config.deviceStorage pa = true
  [(¬ (groupLegal b A.toNat ∧ home pa attr), ⟨0x0E, 1, A⟩)] ++
  points.flatMap (fun p =>
    let r := translate s s.task.ctx p .read
    let w := translate s s.task.ctx p .write
    [((∀ pa attr, r ≠ .ok pa attr), ⟨(trCause r).1, (trCause r).2, BitVec.ofNat 64 p⟩),
     ((∀ pa attr, w ≠ .ok pa attr), ⟨(trCause w).1, (trCause w).2, BitVec.ofNat 64 p⟩),
     ((∀ pa attr, w = .ok pa attr → ¬ home pa attr), ⟨0x0E, 1, A⟩)]) ++
  [(s.task.viewId ≠ 0 ∨ s.core.handler = true ∨ (s.groupAt pa).isSome = true, ⟨0x0E, 5, A⟩),
   (f 8 8 ≠ 0 ∧ f 8 8 ≤ s.ptc, ⟨0x0E, 0x0A, BitVec.ofNat 64 (f 8 8)⟩),
   (1024 ≤ s.groups.length ∨ ∀ x, 1 ≤ x → x + n ≤ 65536 → ∃ y ∈ s.liveViews, x ≤ y ∧ y < x + n, ⟨0x0E, 2, A⟩),
   (v.enabled = false ∨ v.ctx ≠ s.task.ctx ∨ 2 ^ v.log2n < v.subcount - v.claimcount + n, ⟨0x0E, 3, BitVec.ofNat 64 (f 3 1)⟩),
   (f 2 1 % 2 = 1 ∧ s.placeAll 0 (List.replicate n (shapeOf s.task.record, [])) [] (fun _ => 0) = none, ⟨0x0E, 4, A⟩)]

/-- The first check of a list that fails is the one with this trap. -/
def FirstFails (l : List (Prop × Trapped)) (e : Trapped) : Prop :=
  ∃ pre c post, l = pre ++ (c, e) :: post ∧ c ∧ ∀ x ∈ pre, ¬ x.1

/-- The FORK event (13 R341, R342): a group with a view of its own for every member, arrays of zeros, and one record for every sibling in
the queue; d receives N. -/
def Forked (s t : State) (d : Reg) (A : Word) (m : SMap Byte) (pa : Nat) : Prop :=
  let n := recField m 0 1
  let q := recField m 3 1
  let v := s.queue q
  let g := t.group s.nextGroup
  t.tasks = SMap.put s.tasks s.cur.task t.task ∧ t.task = { s.task with cores := SMap.put s.task.cores s.cur.core t.core } ∧
  Sets s t d (BitVec.ofNat 64 n) ∧ s.core.SameUnits t.core ∧ Passes s t 1 [0x0B, 0x0C] ∧
  OnlyQueue s t q { v with subcount := v.subcount + n } ∧ t.nextGroup = s.nextGroup + 1 ∧
  (∀ h, h ≠ s.nextGroup → t.group h = s.group h) ∧
  g.state = 1 ∧ g.record = m ∧ g.pa = pa ∧ g.va = A ∧ g.ctx = s.task.ctx ∧ g.parent = s.cur.task ∧ g.forkTick = s.ptc ∧
  g.deadline = recField m 8 8 ∧ g.queue = q ∧ g.firstSub = v.subcount + 1 ∧ g.core0 = s.core ∧ g.dest = d ∧ g.nrep = 0 ∧
  g.nend = 0 ∧ g.members = (List.range n).map (fun i => { view := g.view0 + i }) ∧ 1 ≤ g.view0 ∧ g.view0 + n ≤ 65536 ∧
  (∀ x ∈ s.liveViews, x < g.view0 ∨ g.view0 + n ≤ x) ∧
  DeviceWrites s t s.task.ctx
    ([(recField m 0x10 8, leBytes (4 * n) 0), (recField m 0x18 8, leBytes (4 * n) 0), (recField m 0x20 8, leBytes n 0),
      (A.toNat + 0x40, g.hwBytes s.ptc)] ++
     (List.range n).map fun i => (v.slot (v.subcount + 1 + i), siblingRecord s.task.record s.core ((recField m 2 1).testBit 0)))

/-- The instruction names a group by the address of its record (13 R340): a failing translation traps, and else the group with
its record there, or none, says what follows. -/
def Names (s t : State) (A : Word) (next : Nat → Option (Nat × Group) → Prop) : Prop :=
  match translate s s.task.ctx A.toNat .read with
  | .ok pa _ => next pa (s.groupAt pa)
  | f => Traps s t (trCause f).1 (trCause f).2 A

/-- SNAP, ACCEPT or REJECT has completed: d receives the value, a mark.pkg.d of its own stands in the store queue (12 R325), and
of the context only range slot k changes, which has this depth; quotas stay. -/
def Leveled (s t : State) (d : Reg) (v : Word) (k depth : Nat) : Prop :=
  SameTasks s t ∧ Sets s t d v ∧ Passes s t 1 [] ∧ { s.core with stores := t.core.stores }.SameUnits t.core ∧
  (∃ e, t.core.stores = s.core.stores ++ [e] ∧ e.kind = .mark 3 2) ∧
  ((t.ctx s.task.ctx).range k).depth = depth ∧ (∀ j, j ≠ k → (t.ctx s.task.ctx).range j = (s.ctx s.task.ctx).range j) ∧
  (∀ c, c ≠ s.task.ctx → t.ctx c = s.ctx c) ∧ (t.ctx s.task.ctx).quota = (s.ctx s.task.ctx).quota

/-- A failed store is observed first (12 R335); then the instruction waits for the accesses before it. -/
def AfterDone (s t : State) (done : Bool) (next : Prop) : Prop :=
  if s.task.failed.isSome then FailedObserved s t (s.task.failed.getD 0)
  else if done = false then TriesLater s t .stores else next

/-- What a pending instruction of loose code waits for first: a failed store is observed, and every store is done (12 R335). -/
def AfterStores (s t : State) (next : Prop) : Prop := AfterDone s t s.storesDone next

/-- A cancellation is ending the task: it ends, or its region stops for it at a cycle (10 R297). -/
def EndsCancelled (t : Task) (was : Task) : Prop :=
  if was.state = .running ∧ was.region.active = true ∧ was.region.freeze = none then
    t.state = .running ∧ t.region.stopAt.map (fun x => x.2) = some .cancel
  else t.state = .ending .cancelled

/-! ### Logs, the host and the links (17, 18) -/

/-- The RAS log of a die has one more entry, which is written over the oldest where 65,536 stand (17 R386,
DEDUCED, notes/assumptions/26.md), and vector 2 of the physical function is to be raised (18 R391). -/
def RasLogged (s t : State) (r : Ras) : Prop :=
  let d := s.die r.die
  (t.die r.die).rasCount = d.rasCount + 1 ∧ 2 ∈ (t.fn 0).msixPending ∧
  (t.die r.die).ras = if d.rasCount < 65536 then d.ras ++ [r.bytes s.ptc] else d.ras.set (d.rasCount % 65536) (r.bytes s.ptc)

/-- A host or peer write within one line (11 R317, 12 R334, 14 R354, 18 R390, R399): it waits behind an earlier one of its origin or
one that holds the line, or it performs in view 0, waits for the Hedgerow, where firmware is asked for the context that is short, or is
refused and logged. -/
def OutsideWritten (s t : State) (w : HeldWrite) : Prop :=
  0 < w.bytes.length → w.va % 128 + w.bytes.length ≤ 128 →
  if s.outsideLocked w = true then t = { s with hostHeld := s.hostHeld ++ [w] }
  else match translate s w.ctx w.va .write with
  | .ok pa attr =>
    (match hedgeRun w.ctx [(pa, 0, attr)] s with
     | some x => SameMemory s t ∧ t.hostHeld = s.hostHeld ++ [w] ∧ (t.ctx x).asked = true
     | none => t.hostHeld = s.hostHeld ∧ (pa % 128 = w.va % 128 → s.foreign w.ctx pa = false → StoresBytes s t 0 pa w.bytes))
  | _ => SameMemory s t ∧ RasLogged s t { type := 4, unit := 1, die := 0, va := w.va, ctx := w.ctx, fn := if 256 ≤ w.origin then 0xFF else w.origin }

/-- An untimed flit leaves on a port: with the next sequence number, the acknowledgement of what has come, a slot that no region holds,
its payload and its CRC; it stays in the replay buffer (18 R398, R399). A port that has failed, or whose buffer is full, sends nothing. -/
def FlitSent (s t : State) (p kind : Nat) (payload : List Byte) : Prop :=
  let v := s.port p
  if v.failed = true ∨ 16 ≤ p ∨ 2048 ≤ v.replay.length then t = s
  else ∃ f slot, t = { s.setPort p { v with sendSeq := (v.sendSeq + 1) % 4096, replay := v.replay ++ [f] } with
      outbox := s.outbox ++ [.flit p f], fresh := s.fresh + 1 } ∧
    f.bytes.length = 248 ∧ crcBytes f.bytes 0 = f.crc ∧ flitSeq f = v.sendSeq % 4096 ∧ slot < 64 ∧
    ((∃ i < 64, ∀ x ∈ v.reserved, i ∉ x.2) → ∀ x ∈ v.reserved, slot ∉ x.2) ∧
    (v.sendSeq < 4096 → kind < 16 → flitField f 24 4 = kind ∧ flitField f 12 12 = (v.expectSeq + 4095) % 4096 ∧ flitField f 28 6 = slot) ∧
    (payload.length ≤ 232 → (f.bytes.drop 16).take payload.length = payload)

/-- The responder of a transport answers (18 R395); sessions, bindings and free values may change, nothing else. -/
def SpdmAnswers (s t : State) (tr code : Nat) (bytes : List Byte) : Prop :=
  t = { s with spdm := t.spdm, fns := t.fns, fresh := t.fresh, outbox := s.outbox ++ [.spdm tr code bytes] }

end Sys2Proof.Machine
end

