-- ==== Sys2Proof/Certificates/Slice0/Obligations.lean ====
section
/-!
DEFINITION. The statements for the provers.
-/

section
open Sys2Proof Sys2Proof.Machine

/-! ### The control processor (03) -/

/-- 03 R71, R72, R75 to R78: ADD, SUB, AND, OR, XOR, SLL, SRL, SRA, SLT, SLTN, MIN, MAX, MINN, MAXN, CLZ, CTZ, POPC and SEXT; ADDI,
ANDI, ORI, XORI, SLTI, SLTNI, SLLI, SRLI, SRAI, LUI and ADDSH. -/
def Obligations.OpResults : Prop :=
  (∀ s i d v, opResult s i = some (d, v) →
    ∃ t, exec i s = .next t ∧ Delivers s t d v 1 ∧ Passes s t 1 []) ∧
  (∀ s i d v, immResult s i = some (d, v) →
    ∃ t, exec i s = .next t ∧ Delivers s t d v 1 ∧ Passes s t 1 [])

/-- 03 R72, R73, R78, R79: MUL, MULH, MULHN and MADI deliver at issue + 3; DIV, DIVN, REM and REMN at issue + 34;
CP_RESULT_PERFORM writes the value into its register, and nothing else changes. -/
def Obligations.MulDivResults : Prop :=
  (∀ s i d v,
    (mulResult s i = some (d, v) → ∃ t, exec i s = .next t ∧ Delivers s t d v 3 ∧ Passes s t 1 []) ∧
    (divResult s i = some (d, v) → ∃ t, exec i s = .next t ∧ Delivers s t d v 34 ∧ Passes s t 1 [])) ∧
  (∀ s d v,
    ∃ t, exec (.cpResultPerform d v) s = .next t ∧ OnlyCore s t ∧ SameMemory s t ∧ Sets s t d v ∧
      t.core = { s.core with x := t.core.x, regPoison := t.core.regPoison })

/-- 03 R80 to R83, R89, R90, R119: BEQ, BNE, BLT, BGE, BLTN and BGEN: a taken branch whose target lies outside the code buffer raises
the protection fault in timed code; any other signs the path and goes to its target or falls through. J, JAL and JR. -/
def Obligations.BranchesAndJumps : Prop :=
  (∀ s i c o, branchForm s i = some (c, o) →
    ∃ t, exec i s = .next t ∧
      if c = true ∧ s.outside (s.rel o) then Traps s t 5 5 (s.rel o)
      else Quiet s t ∧
        (if c = true then JumpsFrom (s.core.sign s.core.pc true) s t (s.rel o) 2
         else PassesFrom (s.core.sign s.core.pc false) s t 1 [])) ∧
  (∀ s,
    (∀ o, ∃ t, exec (.j o) s = .next t ∧
      if s.outside (s.rel o) then Traps s t 5 5 (s.rel o) else Quiet s t ∧ JumpsFrom s.core s t (s.rel o) 2) ∧
    (∀ d o, ∃ t, exec (.jal d o) s = .next t ∧
      if s.outside (s.rel o) then Traps s t 5 5 (s.rel o)
      else Delivers s t d (s.core.pc + 4) 1 ∧ JumpsFrom s.core s t (s.rel o) 2) ∧
    (∀ d a i, ∃ t, exec (.jr d a i) s = .next t ∧
      let to' := s.rx a + BitVec.ofInt 64 i.toInt
      if to'.toNat % 4 ≠ 0 then Traps s t 3 0 to'
      else if s.outside to' then Traps s t 5 5 to'
      else Delivers s t d (s.core.pc + 4) 1 ∧ JumpsFrom (s.core.sign to' false) s t to' 2))

/-- 03 R84 to R86, 05 R179: IDLE passes n + 1 cycles; in timed code WAITT passes to cycle T, or costs one cycle, and REALIGN
passes to cycle T, or raises the schedule fault when T is at or before its own cycle. T is an exact sum. -/
def Obligations.Waits : Prop := ∀ s,
  (∀ n, ∃ t, exec (.idle n) s = .next t ∧ Quiet s t ∧ Passes s t (n.toNat + 1) []) ∧
  (∀ a i, s.timed = true → ∃ t, exec (.waitt a i) s = .next t ∧ Quiet s t ∧
    Passes s t (max 1 ((s.rx a).toNat + i.toNat - s.rt)) []) ∧
  (∀ a i, s.timed = true → ∃ t, exec (.realign a i) s = .next t ∧
    let T := (s.rx a).toNat + i.toNat
    if T ≤ s.rt then Traps s t 6 5 (BitVec.ofNat 64 T) else Quiet s t ∧ Passes s t (T - s.rt) [])

/-- 03 R87, R88, R91, R119: LOOP, LOOPI and LOOPS activate a level, or skip the body when the count is 0; a level that is
active, or a loop instruction that itself stands at the end of an active level, is an illegal loop write. LREG.r reads a loop register; LREG.w writes a count
of any level and an address of an inactive one. -/
def Obligations.LoopInstructions : Prop :=
  (∀ s i l n w, loopForm s i = some (l, n, w) → l < 3 →
    ∃ t, exec i s = .next t ∧
      if l ∈ s.core.active ∨ ∃ k ∈ s.core.active, (s.core.loopAt k).stop = s.core.pc then Traps s t 0x0D 0 s.core.pc
      else
        let stop := s.core.pc + BitVec.ofNat 64 (4 * w)
        Quiet s t ∧ CountsOnly s t [1] ∧
        t.core.loopAt l = ⟨n, s.core.pc + 4, stop⟩ ∧ (∀ k, k ≠ l → t.core.loopAt k = s.core.loopAt k) ∧
        t.core.psig = (s.core.sign s.core.pc (decide (n = 0))).psig ∧
        (if n = 0 then t.core.active = s.core.active ∧ t.core.pc = stop + 4 ∧ IssuesAfter s t 2
         else t.core.active = l :: s.core.active ∧ t.core.pc = s.core.pc + 4 ∧ IssuesAfter s t 1)) ∧
  (∀ s,
    (∀ (d : Reg) (f : BitVec 6), loopRegField f.toNat = true → ∃ t, exec (.lregRead d f) s = .next t ∧
      let v := s.core.loopAt (f.toNat % 4)
      Delivers s t d (if f.toNat < 4 then BitVec.ofNat 64 v.count.toNat else if f.toNat < 8 then v.start else v.stop) 1 ∧
      Passes s t 1 []) ∧
    (∀ (a : Reg) (f : BitVec 6), loopRegField f.toNat = true → ∃ t, exec (.lregWrite a f) s = .next t ∧
      let l := f.toNat % 4
      let v := s.core.loopAt l
      if 4 ≤ f.toNat ∧ l ∈ s.core.active then Traps s t 0x0D 0 s.core.pc
      else Quiet s t ∧
        PassesFrom (s.core.setLoop l (if f.toNat < 4 then { v with count := (s.rx a).extractLsb' 0 32 }
          else if f.toNat < 8 then { v with start := s.rx a } else { v with stop := s.rx a })) s t 1 []))

/-- 02 R50, R65, 03 R107, R108: CSRR reads a CSR. CSRW, CSRS and CSRC also return the old value and write, set or clear: before the
cycle's end-of-body tests for the trap registers and psig; for the counters and their selectors when the cycle or the tick is
over, a written counter losing the counts of its cycle. What a CSR holds after a write, bits of reserved fields being discarded, and that no other CSR changes. -/
def Obligations.CsrInstructions : Prop :=
  (∀ s d a (c : BitVec 11),
    (∃ t, exec (.csrr d c) s = .next t ∧ Delivers s t d (s.csrRead c.toNat) 2 ∧ Passes s t 1 []) ∧
    (∀ i v, (i = .csrw d a c ∧ v = s.rx a) ∨ (i = .csrs d a c ∧ v = s.csrRead c.toNat ||| s.rx a) ∨
        (i = .csrc d a c ∧ v = s.csrRead c.toNat &&& ~~~s.rx a) → csrWritable c.toNat = true →
      ∃ t, exec i s = .next t ∧ OnlyHere s t ∧ SameMemory s t ∧
        (let item : Pend := { due := s.rt, rank := 31, key := [c.toNat], core := s.cur.core, act := .phase (.csrWrite c.toNat v),
                              took := s.rt, pc := s.core.pc, by' := s.cur.core }
         let r := if d = 0 then s.region else s.region.with1 (cpItem s d (s.csrRead c.toNat) 2)
         if s.timed then SameRegs s t ∧ t.region = (if c.toNat < 0x20 then r else r.with1 { item with seq := r.seq })
         else Sets s t d (s.csrRead c.toNat) ∧ t.region = s.region) ∧
        (if c.toNat < 0x20 then
           (s.core.csrSet c.toNat v).SameUnits t.core ∧ PassesFrom (s.core.csrSet c.toNat v) s t 1 []
         else if s.timed then s.core.SameUnits t.core ∧ Passes s t 1 []
         else { s.core with csrNext := s.core.csrNext ++ [(c.toNat, v)] }.SameUnits t.core ∧ Passes s t 1 []))) ∧
  (∀ (u : Task) (tick k n : Nat) (throttled : Bool) (v : Word) (c : Core), (k, c) ∈ u.cores → c.csrNext = [(n, v)] →
    ∃ d, (k, d) ∈ (u.countTick tick throttled).cores ∧ d.csrNext = [] ∧ d.csrSet n v = d) ∧
  (∀ (s : State) (n : Nat) (v : Word), let t := runPhase (.csrWrite n v) s
    OnlyCore s t ∧ SameMemory s t ∧ t.core = { s.core.csrSet n v with hpcNow := t.core.hpcNow } ∧
    ∀ i : Fin 4, t.core.hpcNow[i] = if n = 0x20 + i.val then 0 else s.core.hpcNow[i]) ∧
  (∀ (s : State) (v : Word) (n m : Nat), csrWritable n = true →
    (s.setCore (s.core.csrSet n v)).csrRead m =
      if m ≠ n then s.csrRead m
      else if n = 0x10 then v &&& 0xFFFF
      else if n = 0x11 ∨ n = 0x13 then v &&& 0xFFFFFFFFFFFFFFFC
      else if n = 0x12 ∨ n = 0x18 ∨ n < 0x28 then v
      else v &&& 0x3FF)

/-- 03 R110 to R112, 17 R378, R379, 02 R61 to R63: TRAP, BREAK and the issue of a word that is no instruction take their trap; TRET
returns from the handler, and is an illegal instruction outside it. An array command that names an array which a BX core lacks and
a copy command that names an engine beyond cecount are illegal instructions, also in the other mode (notes/assumptions/44.md); any other instruction that is legal only in timed code raises the illegal-mode trap in loose code, and one
that is legal only in loose code raises it in timed code; tval is the word. -/
def Obligations.TrapInstructions : Prop :=
  (∀ s,
    (∀ n, ∃ t, exec (.trap n) s = .next t ∧ Traps s t 0x10 0 (BitVec.ofNat 64 n.toNat)) ∧
    (∀ n, ∃ t, exec (.brk n) s = .next t ∧ Traps s t 0x11 0 (BitVec.ofNat 64 n.toNat)) ∧
    (∀ w, ∃ t, exec (.illegalInstruction w) s = .next t ∧ Traps s t 1 0 (BitVec.ofNat 64 w.toNat)) ∧
    (s.timed = false → ∃ t, exec .tret s = .next t ∧
      if s.core.handler = true then
        OnlyCore s t ∧ SameMemory s t ∧ SameRegs s t ∧ { s.core with handler := false }.SameUnits t.core ∧
        t.core.pc = s.core.epc ∧ t.core.loops = s.core.loops ∧ t.core.active = s.core.active ∧ t.core.psig = s.core.psig ∧
        CountsOnly s t [1] ∧ IssuesAfter s t 1
      else Traps s t 1 0 (wordOf .tret))) ∧
  (∀ s i,
    (s.noUnit i = true → ∃ t, exec i s = .next t ∧ Traps s t 1 0 (wordOf i)) ∧
    (s.noUnit i = false → (timedOnly i = true ∧ s.timed = false) ∨ (looseOnly i = true ∧ s.timed = true) →
      ∃ t, exec i s = .next t ∧ Traps s t 2 0 (wordOf i)))

/-- 03 R89, R90, R92: the end-of-body test. A level that ends here with a count above 1 counts down and goes back to its start; with
a count of 0 or 1 it ends, and the levels activated before it are tested as if they stood alone; the handler suspends the tests. A transfer to t ends every
active level whose body t leaves, with its count 0, and no other; the handler's transfers end none. -/
def Obligations.EndOfBody : Prop :=
  (∀ (c : Core) (m : Bool),
    (c.handler = true → m = false → c.sequential m = { c with pc := c.pc + 4 }) ∧
    (c.handler = false ∨ m = true →
      ((∀ l ∈ c.active, (c.loopAt l).stop ≠ c.pc) → c.sequential m = { c with pc := c.pc + 4 }) ∧
      (∀ pre l post, c.active = pre ++ l :: post → l < 3 → (∀ k ∈ pre, (c.loopAt k).stop ≠ c.pc) → (c.loopAt l).stop = c.pc →
        1 < (c.loopAt l).count.toNat →
        (c.sequential m).pc = (c.loopAt l).start ∧ (c.sequential m).active = c.active ∧
        (c.sequential m).loopAt l = { c.loopAt l with count := (c.loopAt l).count - 1 } ∧
        (∀ k, k ≠ l → (c.sequential m).loopAt k = c.loopAt k) ∧ (c.sequential m).psig = (c.sign c.pc true).psig) ∧
      (∀ pre l post, c.active = pre ++ l :: post → (∀ k ∈ pre, (c.loopAt k).stop ≠ c.pc) → (c.loopAt l).stop = c.pc →
        (c.loopAt l).count.toNat ≤ 1 →
        let d := (({ c.setLoop l { c.loopAt l with count := 0 } with active := post } : Core).sign c.pc false).sequential m
        c.sequential m = { d with active := c.active.filter fun x => decide (x ≠ l) && (!post.contains x || d.active.contains x) }))) ∧
  (∀ (c : Core) (m : Bool) (a : Word),
    let inside := fun l => decide ((c.loopAt l).start.toNat ≤ a.toNat ∧ a.toNat ≤ (c.loopAt l).stop.toNat)
    (c.transfer m a).pc = a ∧ (c.transfer m a).psig = c.psig ∧
    (if c.handler = true ∧ m = false then (c.transfer m a).loops = c.loops ∧ (c.transfer m a).active = c.active
     else (c.transfer m a).active = c.active.filter inside ∧
       ∀ l, l < 3 → (c.transfer m a).loopAt l =
         if l ∈ c.active ∧ inside l = false then { c.loopAt l with count := 0 } else c.loopAt l))

/-- 03 R115, R116, R119: a counter counts an event that its selector names and whose mode bit is set, and nothing else;
one update of psig rotates it left by one and exclusive-ors the address with the bit. -/
def Obligations.CountersAndSignature : Prop := ∀ (c : Core) (m : Bool) (ev n : Nat) (e : Word) (b : Bool),
  (∀ i : Fin 4,
    let counted := c.hpe[i].toNat % 256 = ev ∧ ev ≠ 0 ∧ c.hpe[i].getLsbD (if m then 9 else 8) = true
    (c.count m ev n).hpc[i] = (if m = false ∧ counted then c.hpc[i] + BitVec.ofNat 64 n else c.hpc[i]) ∧
    (c.count m ev n).hpcNow[i] = (if m = true ∧ counted then c.hpcNow[i] + BitVec.ofNat 64 n else c.hpcNow[i])) ∧
  (e.getLsbD 0 = false → (c.sign e b).psig = ((c.psig <<< 1) ||| (c.psig >>> 63)) ^^^ (e + if b then 1 else 0))

/-! ### Loads, stores and atomics (03, 08, 12, 14) -/

/-- 03 R93, R94, R96, R97: LDQ enters the load queue with its class's perform time; a misaligned address, a full queue and
a failing translation trap, in this order (notes/assumptions/69.md), the last at issue (28.md). The perform time of a class 2 load of
host memory, as if its home stood on a die 16, is the model's choice (50.md). -/
def Obligations.LoadIssue : Prop := ∀ s d a z c o, ∃ t, exec (.ldq d a z c o) s = .next t ∧
  let A := s.address a z o
  if A.toNat % 2 ^ z.toNat ≠ 0 then Traps s t 3 0 A
  else if 32 ≤ s.core.loads.length then Traps s t 6 3 (BitVec.allOnes 64)
  else match s.denied A.toNat .read with
    | some (cause, sub) => TrapsWalked s t cause sub A
    | none => QueuesOnly s t ∧ LoadQueued s t d A (2 ^ z.toNat) c.toNat .read ∧ t.core.stores = s.core.stores ∧
        t.core.ranges = s.core.ranges ∧ Passes s t 1 [5, 0x0A, 0x0B, 0x0C]

/-- 03 R98, 17 R382: LQPOP removes the oldest entry and delivers its value, to the register of the word or else of the
entry; it traps on an empty queue, before the perform time and on poison, and waits in loose code for the reply. A poisoned reply traps
as the LDQ or AMO that made it; entry number 64 of a poisoned queue entry is the model's (notes/assumptions/36.md). -/
def Obligations.LoadPop : Prop := ∀ s d,
  (s.core.loads = [] → ∃ t, exec (.lqpop d) s = .next t ∧ Traps s t 6 1 (BitVec.allOnes 64)) ∧
  (∀ e rest, s.core.loads = e :: rest →
    ∃ t, exec (.lqpop d) s = .next t ∧
      if s.timed = true ∧ (∀ p, e.perform = some p → s.rt < p) then
        ∃ T, Traps s t 6 1 (BitVec.ofNat 64 T) ∧ ∀ p, e.perform = some p → T = p
      else if e.landed = false then TriesLater s t .load
      else if e.seq ∈ s.core.queuePoison then Traps s t 0x0C 7 64
      else if e.poison = true then
        (if s.timed then
           OnlyHere s t ∧ SameMemory s t ∧ t.core = { s.core with nextIssue := s.rt + 1 } ∧
           t.region = { s.region with traps := s.region.traps ++ [⟨s.cur.core, 0, 0x0C, 1, e.va, e.pc⟩] }
         else Traps s t 0x0C 1 e.va)
      else
        let r := if d = 0 then e.reg else d
        OnlyTask s t ∧ SameMemory s t ∧ { s.core with loads := rest }.SameUnits t.core ∧ Passes s t 1 [] ∧
        t.task = { s.task with cores := SMap.put s.task.cores s.cur.core t.core, region := t.region, wait := .none } ∧
        (if s.timed then SameRegs s t ∧ t.region = (if r = 0 then s.region else s.region.with1 (cpItem s r (e.value.getD 0) 1))
         else Sets s t r (e.value.getD 0) ∧ t.region = s.region))

/-- 03 R93, R96, R99, 12 R335: STQ enters the store queue with the low bytes of its register, or waits for a free entry; in
loose code an earlier failed store is observed first, behind the alignment check (notes/assumptions/38.md); what timed code leaves to
firmware at issue is 28.md, the checks' order 69.md. A timed STQ at a full queue slides the region before it issues, so that it does not come to this. -/
def Obligations.StoreIssue : Prop := ∀ s d a z o, ∃ t, exec (.stq d a z o) s = .next t ∧
  let A := s.address a z o
  if A.toNat % 2 ^ z.toNat ≠ 0 then Traps s t 3 0 A
  else if s.timed = false ∧ s.task.failed.isSome then FailedObserved s t (s.task.failed.getD 0)
  else if 32 ≤ s.core.storeCount then TriesLater s t .stores
  else match s.denied A.toNat .write with
    | some (cause, sub) => TrapsWalked s t cause sub A
    | none => QueuesOnly s t ∧ t.core.loads = s.core.loads ∧ t.core.ranges = s.core.ranges ∧
        StoreQueued s t A (.store ((List.range (2 ^ z.toNat)).map (byteOf (s.rx d)))) (s.gets A.toNat .write) ∧
        Passes s t 1 [6, 0x0A, 0x0B, 0x0C]

/-- 03 R103 to R106, R96, R97: AMO and AMO.cas enter both queues, the load entry with register x0. The order of the checks is the
model's (notes/assumptions/38.md, 69.md), and what timed code leaves to firmware at issue is 28.md. -/
def Obligations.AmoIssue : Prop := ∀ s i A aop wide v c acq rel, amoForm s i = some (A, aop, wide, v, c, acq, rel) →
  ∃ t, exec i s = .next t ∧
    if A.toNat % (if wide then 8 else 4) ≠ 0 then Traps s t 3 0 A
    else if s.timed = false ∧ s.task.failed.isSome then FailedObserved s t (s.task.failed.getD 0)
    else if 32 ≤ s.core.loads.length then Traps s t 6 3 (BitVec.allOnes 64)
    else if 32 ≤ s.core.storeCount then TriesLater s t .stores
    else match s.denied A.toNat .amo with
      | some (cause, sub) => TrapsWalked s t cause sub A
      | none => QueuesOnly s t ∧ LoadQueued s t 0 A (if wide then 8 else 4) 4 .amo ∧ t.core.ranges = s.core.ranges ∧
          StoreQueued s t A (.amo aop wide v c acq rel) (s.gets A.toNat .amo) ∧ Passes s t 1 [7, 0x0A, 0x0B, 0x0C]

/-- 14 R360, R361, R363, 08 R256, R257, R259: CWB, CINV, CWBI and CPF translate every granule of their range, from the lowest
address, and enter their queues, without translations where timed code leaves the first failing granule to firmware; a failure that
firmware may not resolve traps at that granule; a range above 2^32 bytes is an illegal instruction and an empty one does nothing;
in loose code CWB and CWBI first observe a failed store (notes/assumptions/38.md; what timed code leaves to firmware is 28.md, the checks' order 69.md). MARK
enters the store queue. -/
def Obligations.RangeAndMarkIssue : Prop := ∀ s,
  (∀ i op a b c, rangeForm i = some (op, a, b, c) → ∃ t, exec i s = .next t ∧
    let n := (s.rx b).toNat
    let k : Access := if op % 2 = 0 then .write else .read
    if 2 ^ 32 < n then Traps s t 1 0 (s.rx b)
    else if n = 0 then Quiet s t ∧ Passes s t 1 []
    else if op % 2 = 0 ∧ s.timed = false ∧ s.task.failed.isSome then FailedObserved s t (s.task.failed.getD 0)
    else
      let starts := pageStarts (s.rx a).toNat n
      match (starts.find? fun p => (s.gets p k).isNone).bind fun p => (s.denied p k).map fun d => (p, d) with
      | some (p, cause, sub) => TrapsWalked s t cause sub (BitVec.ofNat 64 p)
      | none => QueuesOnly s t ∧ t.core.loads = s.core.loads ∧ t.core.stores = s.core.stores ∧
          RangeQueued s t op (s.rx a) n c k starts ∧ Passes s t 1 [0x0B, 0x0C]) ∧
  (∀ g m, ∃ t, exec (.mark g m) s = .next t ∧ QueuesOnly s t ∧ t.core.loads = s.core.loads ∧ t.core.ranges = s.core.ranges ∧
    StoreQueued s t 0 (.mark g.toNat m.toNat) none ∧ Passes s t 1 [])

/-- 03 R93, R101, 06 R186, R214: LDS and STS. In loose code they act at once; in timed code the bytes are sampled at issue + 3, and
delivered at issue + 4, or written at issue + 3; a misaligned address and one beyond the scratchpad trap. -/
def Obligations.ScratchpadAccess : Prop :=
  (∀ s d a n pc, Samples s (runPhase (.ldsSample d a n pc) s) 0 a n pc fun s1 =>
    if d = 0 then s1 = s
    else OnlyRegion s s1 ∧ Posted s s1 [(s.rt + 1, s.cur.core,
      .event (.cpResultPerform d (zext ((List.range n).map fun i => s.spad (a + i)))))]) ∧
  (∀ s a bytes, ScratchWritten s (runPhase (.stsWrite a bytes) s) a bytes) ∧
  ∀ s d a z o,
  let A := s.address a z o
  let n := 2 ^ z.toNat
  (∃ t, exec (.lds d a z o) s = .next t ∧
    if A.toNat % n ≠ 0 then Traps s t 3 0 A
    else if 0x180000 ≤ A.toNat then Traps s t 5 5 A
    else if s.timed then
      OnlyHere s t ∧ SameMemory s t ∧ SameRegs s t ∧ s.core.SameUnits t.core ∧ Passes s t 1 [0x15] ∧
      t.region = s.region.with1
        { due := s.rt + 3, rank := 10, key := [s.cur.core], core := s.cur.core, seq := s.region.seq,
          act := .phase (.ldsSample d A.toNat n s.core.pc), took := s.rt, pc := s.core.pc, by' := s.cur.core }
    else if s.core.spoisoned A.toNat n then Traps s t 0x0C 3 A
    else Delivers s t d (zext ((List.range n).map fun i => s.spad (A.toNat + i))) 4 ∧ Passes s t 1 [0x15]) ∧
  (∃ t, exec (.sts d a z o) s = .next t ∧
    if A.toNat % n ≠ 0 then Traps s t 3 0 A
    else if 0x180000 ≤ A.toNat then Traps s t 5 5 A
    else OnlyHere s t ∧ SameMemory s t ∧ SameRegs s t ∧ Passes s t 1 [0x16] ∧
      (if s.timed then
         s.core.SameUnits t.core ∧
         t.region = s.region.with1
           { due := s.rt + 3, rank := 4, core := s.cur.core, seq := s.region.seq,
             act := .phase (.stsWrite A.toNat ((List.range n).map (byteOf (s.rx d)))), took := s.rt, pc := s.core.pc,
             by' := s.cur.core }
       else
         t.region = s.region ∧ { s.core with scratch := t.core.scratch }.SameUnits t.core ∧
         ∀ x, t.spad x = if A.toNat ≤ x ∧ x < A.toNat + n then byteOf (s.rx d) (x - A.toNat) else s.spad x))

/-- 03 R94 to R96, R98, R99, 05 R174, R175, 08 R253, R264, 12 R318, R319: a load is served, with the translation it has, with the bytes
at its home as its agent's view reads them, those of timed code in device memory without the engine writes that performed after its
issue; serving it changes no byte of memory. A reply lands; a freed entry of the store queue accepts the store that a full queue kept
out; in a slide that waited for it either is the latest landing. Which replaced byte a timed load sees is DEDUCED (notes/assumptions/18.md);
a load that its die's copy serves is left out. -/
def Obligations.LoadServed : Prop :=
  (∀ s seq e pa attr, s.core.loads.find? (fun x => x.seq == seq) = some e →
    0 < e.size → e.tr = some (pa, attr) → s.agent.remote pa attr = false →
    (∀ i < e.size, s.foreign s.task.ctx (pa + i) = false) →
    let view := fun i => s.agent.target (e.va.toNat + i) attr
    let old := fun i => if s.timed ∧ pa + i < 2 ^ 51 then s.oldByte s.cur.task e.issue none (s.viewOf (view i) (pa + i)) (pa + i) else none
    let t := runPhase (.loadServe seq) s
    SameMemory s t ∧ SameRegs s t ∧ ∃ e', t.core.loads.find? (fun x => x.seq == seq) = some e' ∧
      e'.value = some (zext ((List.range e.size).map fun i => (old i).getD (s.readView (view i) (pa + i)))) ∧
      e'.reg = e.reg ∧ e'.va = e.va ∧ e'.landed = e.landed ∧ e'.poison = s.poisoned (view 0) pa) ∧
  (∀ s seq,
    (∀ e, s.core.loads.find? (fun x => x.seq == seq && x.value.isSome) = some e →
      ∃ t, exec (.loadReplyLand seq) s = .next t ∧ SameMemory s t ∧ SameRegs s t ∧
        (∀ x ∈ t.core.loads, x.seq = seq → x.landed = true ∧ x.value = e.value ∧ x.reg = e.reg) ∧
        t.core.loads.length = s.core.loads.length ∧
        t.region = (if e.isDue s.rt then { s.region with freeze := s.region.freeze.map fun f => { f with lastLand := s.ptc } }
          else s.region)) ∧
    (32 ≤ s.core.storeCount → exec (.storeQueueAccept seq) s = .next s) ∧
    (s.core.storeCount < 32 →
      ∃ t, exec (.storeQueueAccept seq) s = .next t ∧ SameMemory s t ∧ t.core = s.core ∧
        t.region = { s.region with freeze := s.region.freeze.map fun f => { f with lastLand := s.ptc } } ∧
        (s.region.freeze = none → t.task.wait = .none)))

/-- 03 R96, R99, R103, 12 R322, R332: a store with its translation, whose line is at its home, performs there, in the view of its
agent: its bytes read anew and no others do, and it leaves the queue. -/
def Obligations.StorePerforms : Prop := ∀ s seq e bytes pa attr,
  s.core.stores.find? (fun x => x.seq == seq && !x.isMark) = some e → seq ∉ s.core.storePoison → e.kind = .store bytes →
  0 < bytes.length → pa % 128 + bytes.length ≤ 128 → e.tr = some (pa, attr) →
  s.agent.remote pa attr = false → s.foreign s.task.ctx pa = false →
  let tv := s.agent.target e.va.toNat attr
  (pa < 2 ^ 51 → s.hedgeOk s.task.ctx (pa / 128) tv = true) →
  ∃ t, exec (.storePerform seq) s = .next t ∧ LeftQueue s t seq ∧ SameRegs s t ∧
    StoresBytes s t (if 2 ^ 51 ≤ pa then 0 else tv) pa bytes

/-- 12 R334, R335: a store that finds no Hedgerow line waits at its home, and firmware is asked once. QUOTA_GROW: firmware grows a context's quota, or
declines: then host and peer writes that wait are discarded, and a loose store that waits fails. -/
def Obligations.HedgerowWaits : Prop :=
  (∀ s seq e bytes,
    s.core.stores.find? (fun x => x.seq == seq && !x.isMark) = some e → seq ∉ s.core.storePoison → e.kind = .store bytes → 0 < bytes.length →
    (∀ pa attr, e.tr = some (pa, attr) → s.agent.remote pa attr = false → s.foreign s.task.ctx pa = false →
      Config.deviceStorage pa = true → s.hedgeOk s.task.ctx (pa / 128) (s.agent.target e.va.toNat attr) = false →
      ∃ t c, exec (.storePerform seq) s = .next t ∧ SameMemory s t ∧ SameRegs s t ∧
        s.hedgeShort s.task.ctx (pa / 128) (s.agent.target e.va.toNat attr) = some c ∧ (t.ctx c).asked = true ∧
        (∀ x ∈ t.core.stores, x.isMark = false → x.seq = seq → x.heldSince = some (e.heldSince.getD s.ptc) ∧ x.kind = e.kind) ∧
        t.core.stores.length = s.core.stores.length)) ∧
  (∀ s c s0 room, s0 = s.setCtx c { s.ctx c with asked := false } → room = s0.hedgeFree →
    (∀ n, 0 < room → ∃ t, exec (.quotaGrow c (some n)) s = .next t ∧ (t.ctx c).quota = (s.ctx c).quota + min (max 1 n) room ∧
      t.tasks = s.tasks ∧ (s.hostHeld = [] → SameMemory s t ∧ (t.ctx c).asked = false)) ∧
    (∀ l, l = none ∨ (room = 0 ∧ l.isSome = true) → ∃ t, exec (.quotaGrow c l) s = .next t ∧ SameMemory s t ∧
      (t.ctx c).quota = (s.ctx c).quota ∧ (t.ctx c).asked = false ∧
      (∀ x, x ∈ t.hostHeld ↔ x ∈ s.hostHeld ∧ s0.waitsOn c x = false) ∧ t.cur = s.cur ∧
      ∀ i u pre post, s.tasks = pre ++ (i, u) :: post → (∀ p ∈ pre ++ post, p.1 ≠ i) → u.region.active = false →
        let k := SMap.get {} u.cores 0
        let k' := SMap.get {} (t.taskAt i).cores 0
        match ({ s with cur := { task := i } } : State).heldFor c with
        | none => t.taskAt i = u
        | some (seq, va) =>
          (t.taskAt i).failed = some va ∧ (∀ x, x.isMark = false → (x ∈ k'.stores ↔ x ∈ k.stores ∧ x.seq < seq)) ∧
          k'.ranges = k.ranges.filter (fun x => decide (x.seq < seq) || !x.writes) ∧
          k'.loads = k.loads.map fun l =>
            if l.cls = 4 ∧ (k.stores.any fun e => !e.isMark && decide (seq ≤ e.seq) && e.seq == l.seq) = true then
              { l with value := some 0, landed := true } else l))

/-- 03 R103, R104, 08 R266, 18 R393: an AMO with its translation performs at its home, where no engine write that performed after its
issue stands: the old value goes to its load entry, and the bytes that the operation gives, or none, are written; in another context's
granule it reads all ones, writes nothing and is logged once. -/
def Obligations.AmoPerforms : Prop := ∀ s seq e aop wide v c acq rel pa attr,
  s.core.stores.find? (fun x => x.seq == seq && !x.isMark) = some e → e.kind = .amo aop wide v c acq rel →
  let n := if wide then 8 else 4
  let tv := s.agent.target e.va.toNat attr
  pa % 128 + n ≤ 128 → e.tr = some (pa, attr) → seq ∉ s.core.storePoison →
  ((∀ i < n, s.foreign s.task.ctx (pa + i) = true) →
    ∃ t, exec (.storePerform seq) s = .next t ∧ LeftQueue s t seq ∧ SameRegs s t ∧ SameMemory s t ∧
      RasLogged s t { type := 4, unit := 1, die := Config.paDie pa, pa := pa, va := e.va.toNat, ctx := s.task.ctx } ∧
      (∀ l ∈ t.core.loads, l.seq = seq → l.value = some (zext (List.replicate n 0xFF)))) ∧
  ((∀ i < n, s.foreign s.task.ctx (pa + i) = false) → s.poisoned tv pa = false →
  (∀ h ∈ s.history, h.task = s.cur.task → h.copy = none → pa ≤ h.pa → h.pa < pa + n → h.cycle ≤ e.issue) →
  let old := zext ((List.range n).map fun i => s.readView tv (pa + i))
  (s.hedgeOk s.task.ctx (pa / 128) tv = true ∨ amoWrites aop wide old v c = none) →
  ∃ t, exec (.storePerform seq) s = .next t ∧ LeftQueue s t seq ∧ SameRegs s t ∧
    (match amoWrites aop wide old v c with
     | none => SameMemory s t
     | some bytes => StoresBytes s t (if 2 ^ 51 ≤ pa then 0 else tv) pa bytes) ∧
    (∀ l ∈ t.core.loads, l.seq = seq → l.value = some old))

/-! ### Regions (05) -/

/-- 05 R165, R166, R168, R169, R172, 06 R409, 18 R399, R402: RGENTER first waits for its stores, checks what it reads, has copy engines
allotted, and loads the region with entry tick E = issue tick + LEAD, x[d] of the lead core reading E; a member of a joined
region has slots reserved on its links, sends its proposal and waits for the others' instead. What its checks refuse traps, in the order
that notes/assumptions/67.md names; a read behind earlier requests waits for them. -/
def Obligations.RegionLoading : Prop :=
  (∀ s a p s1, s.plan a = .ok (p, s1) → a.toNat % 128 = 0 ∧ p.cores.length = p.desc.ncores ∧
    ∃ b bad s2, s.readVa a.toNat 128 = .ok (b, bad, s2) ∧ s2.descLegal b ∧ p.desc.ctab = leNat (b.take 8) ∧
      p.desc.ncores = leNat ((b.drop 8).take 4) ∧ p.desc.lead = leNat ((b.drop 0x10).take 8) ∧ p.desc.budget = leNat ((b.drop 0x18).take 8) ∧
      p.desc.shape = leNat ((b.drop 0x20).take 8) ∧ p.desc.xlat = leNat ((b.drop 0x28).take 4) ∧
      ∀ k q, p.cores[k]? = some q → ∃ sk bk badk tk, sk.readVa (p.desc.ctab + 32 * k) 32 = .ok (bk, badk, tk) ∧ SameMemory s sk ∧
        entryLegal bk ∧ q.entry.code = leNat (bk.take 8) ∧ q.entry.clen = leNat ((bk.drop 8).take 4) ∧
        q.entry.sdst = leNat ((bk.drop 0x0C).take 4) ∧ q.entry.simg = leNat ((bk.drop 0x10).take 8) ∧
        q.entry.slen = leNat ((bk.drop 0x18).take 4)) ∧
  (∀ (s : State) (a : Word) b bad s2, a.toNat % 128 = 0 → s.readVa a.toNat 128 = .ok (b, bad, s2) →
    (¬ s2.descLegal b → ∃ c, s.plan a = .error (.trap ⟨1, 0, a⟩ c)) ∧
    ∀ b0 bad0 s3, s2.descLegal b → s2.readVa (leNat (b.take 8)) 32 = .ok (b0, bad0, s3) → ¬ entryLegal b0 →
      ∃ c, s.plan a = .error (.trap ⟨1, 0, a⟩ c)) ∧
  ∀ s d a,
  (s.timed = false → s.core.loads ≠ [] →
    ∃ t, exec (.rgenter d a) s = .next t ∧ Traps s t 2 0 (BitVec.ofNat 64 s.core.loads.length)) ∧
  (s.mayEnter → (s.rx a).toNat % 128 ≠ 0 → ∃ t, exec (.rgenter d a) s = .next t ∧ Traps s t 1 0 (s.rx a)) ∧
  (s.timed = false → s.core.loads = [] → s.task.failed = none → s.storesDone = false →
    ∃ t, exec (.rgenter d a) s = .next t ∧ TriesLater s t .stores) ∧
  (∀ f c, s.mayEnter → s.plan (s.rx a) = .error (.trap f c) → ∃ t, exec (.rgenter d a) s = .next t ∧ TrapsWalked s t f.cause f.sub f.tval) ∧
  (s.mayEnter → s.plan (s.rx a) = .error .wait → ∃ t, exec (.rgenter d a) s = .next t ∧ TriesLater s t .load) ∧
  (∀ p s1, s.mayEnter → s.plan (s.rx a) = .ok (p, s1) →
    ∃ t, exec (.rgenter d a) s = .next t ∧
      if s.region.engines = [] then
        (if s.enginesFree p.desc.ncores then
           OnlyRegion s { t with turn := s.turn } ∧ t.region = { s.region with ncores := p.desc.ncores } ∧
           t.turn = (s.cur, .event .allotCopyEngines) :: (s.cur, .issue) :: s.turn
         else TriesLater s t .engines)
      else if p.desc.xlat = 0 then
        SameMemory s t ∧ t.region.entering = true ∧ t.region.active = false ∧ t.region.entry = s.ptc + p.desc.lead ∧
        t.region.ncores = p.desc.ncores ∧ t.region.budget = p.desc.budget ∧ t.region.rt = 0 ∧ t.region.slide = 0 ∧
        t.region.agenda = [] ∧ t.region.traps = [] ∧ t.region.freeze = none ∧ t.region.engines = s.region.engines ∧
        (∀ r, (t.coreAt 0).rx r = if r = d ∧ d ≠ 0 then BitVec.ofNat 64 (s.ptc + p.desc.lead) else (s.coreAt 0).rx r) ∧
        (∀ k q, p.cores[k]? = some q → (t.coreAt k).Loaded q)
      else
        SameMemory s t ∧ t.region.entering = true ∧ t.region.joinSince = some s.ptc ∧ t.region.entry = s.ptc + p.desc.lead ∧
        t.region.dest = d ∧ t.region.engines = s.region.engines ∧
        let i : Instr := .joinEntry ⟨s.task.ctx, s.joinSelf⟩ ⟨s.ptc + p.desc.lead, p.desc.ncores, s.widest p.desc.ncores, s.ptc⟩
        t.turn = (s.cur, .event i) :: s.turn ∧
        ∀ l, (s.ctx s.task.ctx).join = some l → t.outbox = s.outbox ++ ((l.bases.eraseIdx l.self).map fun n => .peer n i) ∧
          ∀ q ∈ t.ports, q.1 ∈ l.ports → SMap.has q.2.reserved s.cur.task = true)

/-- 06 R409, 18 R402: ALLOT_COPY_ENGINES gives the region on each of its dies the number of the context's policy, at least
one and at most the die's, from engines that no region holds; JOIN_ENTRY notes a member's proposal, or takes it back, and with the last
one loads the joined region with the greatest proposal as its entry tick, or traps where memory has changed so that its checks refuse it;
JOIN_ENTRY_TIMEOUT, slidemax ticks after the first RGENTER, is the late-entry fault at the RGENTER with the missing member's first core,
the engines going back. -/
def Obligations.JoinedEntry : Prop := ∀ s,
  (s.enginesFree s.region.ncores = true →
    ∃ t, exec .allotCopyEngines s = .next t ∧ SameMemory s t ∧ t.task.cores = s.task.cores ∧
      (∀ d ∈ s.diesUsed s.region.ncores, SMap.get 0 t.region.engines d = max 1 (min (Config.copyEngines (s.physDie d))
        (if Config.isBX (s.physDie d) then (s.ctx s.task.ctx).cesBx else (s.ctx s.task.ctx).cesMx))) ∧
      (∀ d e, SMap.has (s.die d).ceOwner e = true → SMap.get 0 (t.die d).ceOwner e = SMap.get 0 (s.die d).ceOwner e)) ∧
  (s.enginesFree s.region.ncores = false → exec .allotCopyEngines s = .next s) ∧
  (∀ who what, let x := s.ctx who.ctx
    let joining := if what.proposal = 0 then SMap.del x.joining who.member else SMap.put x.joining who.member what
    let s1 := s.setCtx who.ctx { x with joining := joining }
    (x.join = none ∨ s1.joiner who.ctx = none ∨ (∃ j, x.join = some j ∧ ∃ k < j.bases.length, SMap.has joining k = false) →
      exec (.joinEntry who what) s = .next s1) ∧
    ∀ j i, x.join = some j → s1.joiner who.ctx = some i → (∀ k < j.bases.length, SMap.has joining k = true) → (s.taskAt i).ctx = who.ctx →
      let f : State := ({ s1 with cur := { task := i } } : State).setCtx who.ctx { s1.ctx who.ctx with joining := [] }
      let r0 := (s.taskAt i).region
      (∀ p s2, f.plan (BitVec.ofNat 64 r0.desc) = .ok (p, s2) →
        ∃ t, exec (.joinEntry who what) s = .next t ∧ SameMemory s t ∧ t.cur = s.cur ∧ (t.ctx who.ctx).joining = [] ∧
          let r := (t.taskAt i).region
          r.entering = true ∧ r.joinSince = none ∧ r0.entry ≤ r.entry ∧ (∀ q ∈ joining, q.2.proposal ≤ r.entry) ∧
          (r.entry = r0.entry ∨ ∃ q ∈ joining, r.entry = q.2.proposal) ∧ r.total = (joining.map fun q => q.2.cores).sum ∧
          r.base = j.bases.getD j.self 0 ∧
          (r0.dest ≠ 0 → (SMap.get {} (t.taskAt i).cores 0).rx r0.dest = BitVec.ofNat 64 r.entry) ∧
          (∀ k q, p.cores[k]? = some q → (SMap.get {} (t.taskAt i).cores k).Loaded q)) ∧
      (∀ e c, f.plan (BitVec.ofNat 64 r0.desc) = .error (.trap e c) →
        ∃ t f1, exec (.joinEntry who what) s = .next t ∧ Counted f f1 [0x0B, 0x0C] ∧ t.cur = s.cur ∧
          Traps ((f1.setRegion {}).releaseAll) { t with cur := f.cur } e.cause e.sub e.tval) ∧
      (f.plan (BitVec.ofNat 64 r0.desc) = .error .wait → ∃ n, s.ptc < n ∧ exec (.joinEntry who what) s =
        .next { s1 with inbox := s.inbox ++ [(n, .joinEntry who what)], fresh := s.fresh + 1 })) ∧
  (∀ k, s.region.entering = true → s.region.joinSince.isSome = true →
    ∃ t, exec (.joinEntryTimeout k) s = .next t ∧
      Traps ((((s.at' 0).setCtx s.task.ctx { s.ctx s.task.ctx with joining := [] }).setRegion {}).releaseAll) t 6 6 (BitVec.ofNat 64 k)) ∧
  (∀ j, (s.ctx s.task.ctx).join = some j →
    ((∀ p ∈ (s.ctx s.task.ctx).joining, s.ptc < p.2.issued + s.slidemax) → s.joinMissing = none) ∧
    ∀ k, s.joinMissing = some k → ∃ m < j.bases.length, k = j.bases.getD m 0 ∧ SMap.has (s.ctx s.task.ctx).joining m = false)

/-- 05 R169, R170, R180, R181, 17 R378: a region starts at its entry tick if every core is ready by then, else it is the
late-entry fault with the lowest core that is not; RGEXIT ends a core's part; at the exit the lead core resumes after its
RGENTER with the loop registers of then, and what the region held is gone; a core still running at the budget is the
deadline fault. A request whose cycle has not come takes the task at the exit (the model's choice, notes/assumptions/62.md). -/
def Obligations.RegionEntryAndExit : Prop := ∀ s,
  (s.region.entering = true → ∃ t, exec .regionEntry s = .next t ∧
    (if ∀ k < s.region.ncores, SMap.get 0 s.region.readyAt k ≤ s.region.entry then
       OnlyRegion s t ∧ t.region = { s.region with active := true, entering := false, rt := 0, slide := 0 }
     else ∃ k < s.region.ncores, s.region.entry < SMap.get 0 s.region.readyAt k ∧
       (∀ j < k, SMap.get 0 s.region.readyAt j ≤ s.region.entry) ∧
       FaultsTask s t 0 ⟨0x606, s.region.enteredAt, BitVec.ofNat 64 (s.region.base + k), some 0, 0, false, false, (s.coreAt 0).handler⟩)) ∧
  (s.timed = true → ∃ t, exec .rgexit s = .next t ∧ OnlyCore s t ∧ SameMemory s t ∧ SameRegs s t ∧
    { s.core with exited := true }.SameUnits t.core ∧ Passes s t 1 []) ∧
  (s.region.active = true → ∃ t, exec .regionExit s = .next t ∧ SameMemory s t ∧ t.region = {} ∧ t.cur.core = 0 ∧
    (∀ k, k ≠ 0 → t.coreAt k = (s.coreAt k).leave) ∧ (∀ r, t.core.rx r = (s.coreAt 0).rx r) ∧
    ({ s.coreAt 0 with pc := s.region.enteredAt, loops := s.region.savedLoops, active := s.region.savedActive }.sequential false).Control
      t.core ∧
    t.core.loads = [] ∧ t.core.stores = [] ∧ t.core.ranges = [] ∧ t.core.rings = [] ∧ t.core.links = [] ∧ t.core.arrays = [] ∧ t.core.runs = [] ∧
    t.core.scratch = (s.coreAt 0).scratch ∧ s.ptc < t.core.nextIssue ∧
    (∀ d, ∀ p ∈ (t.die d).ceOwner, p.2 ≠ s.cur.task) ∧ (∀ p ∈ t.ports, SMap.has p.2.reserved s.cur.task = false) ∧
    match s.region.stopAt with
    | some (_, .preempt) => t.task.state = .freezing ∧ s.ptc < t.task.saveAt ∧ t.turn = s.turn
    | some (_, .cancel) => t.task.state = .ending .cancelled ∧ t.turn = (t.cur, .phase .taskEnd) :: s.turn
    | _ => t.task.state = s.task.state ∧ t.turn = s.turn) ∧
  (s.region.active = true → ∃ t, exec .regionDeadline s = .next t ∧
    FaultsTask s t 0 ⟨0x701, BitVec.allOnes 64, BitVec.ofNat 64 s.region.budget, some s.region.rt, 0, true, false, (s.coreAt 0).handler⟩)

/-- 05 R173 to R175, R177, R182, 12 R334, 17 R378, R408: a late item freezes the region at its perform cycle; a freeze stops the
region before its cycle and parks what is due. An item's request is sent, and its data lands, when its translation allows; an item
that lands while the region stands frozen for it is the latest landing. The resume makes the time since the freeze slide; a slide of
slidemax ticks, those of a throttle left out (18 R407), is the slide fault of the least late instruction, or the Hedgerow fault where it
waited for a Hedgerow line. The resume comes F ticks after the latest landing or the freeze, once the frozen cycle's work has been tried for
its traps (05 R174, R175). -/
def Obligations.FreezeAndResume : Prop := ∀ s,
  (s.lates ≠ [] → s.region.budgetAt = none → s.cutHop = none → s.rt < s.region.budget → s.queueFaults = [] →
    s.region.stopAt = none → runPhase .cycleOpen s = { s with turn := (s.cur, .event (.regionFreeze ⟨.slide, s.rt, none⟩)) :: s.turn }) ∧
  (∀ note : FreezeNote, s.region.active = true → s.rt < note.cycle → ∃ t, exec (.regionFreeze note) s = .next t ∧
    OnlyRegion s { t with outbox := s.outbox } ∧ ∃ why, t.region = { s.region with
      ready := t.region.ready, othersReady := t.region.othersReady
      stopAt := some (match s.region.stopAt with | some (c, _) => (min c note.cycle, why) | none => (note.cycle, why)) } ∧
      (s.region.stopAt = none → why = note.why) ∧ (note.why = .cancel → why = .cancel)) ∧
  (∀ note : FreezeNote, s.region.active = true → note.cycle ≤ s.rt → ∃ t, exec (.regionFreeze note) s = .next t ∧ SameMemory s t ∧
    (∀ k, t.coreAt k = { s.coreAt k with loads := (t.coreAt k).loads } ∧ (∀ e ∈ (t.coreAt k).loads, e.isDue s.rt = true → e.late ≠ 1) ∧
      (t.coreAt k).loads.map (fun e => { e with late := 0 }) = (s.coreAt k).loads.map (fun e => { e with late := 0 })) ∧
    t.region.agenda.map (fun p => (p.due, p.core, p.act)) = s.region.agenda.map (fun p => (p.due, p.core, p.act)) ∧
    (∀ p ∈ s.region.agenda, p.due ≠ s.rt → p ∈ t.region.agenda) ∧ (∀ p ∈ t.region.agenda, p.due = s.rt → p.late ≠ 1) ∧
    t.region.rt = s.region.rt ∧ t.region.slide = s.region.slide ∧
    (∃ f, t.region.freeze = some f ∧ f.why = note.why ∧ f.tick = (s.region.freeze.map (·.tick)).getD s.ptc) ∧
    t.task.state = (match note.why with | .preempt => .freezing | .cancel => .ending .cancelled | _ => s.task.state)) ∧
  (∀ f, s.region.freeze = some f → ∃ t, exec .regionResume s = .next t ∧ SameMemory s t ∧
    t = { s with tasks := SMap.put s.tasks s.cur.task t.task } ∧
    t.task = { s.task with cores := t.task.cores, region := t.region } ∧
    t.region = { s.region with freeze := none, slide := s.region.slide + (s.ptc - f.tick), agenda := t.region.agenda } ∧
    t.region.agenda.map (fun p => { p with late := 0 }) = s.region.agenda.map (fun p => { p with late := 0 }) ∧
    (∀ p ∈ t.region.agenda, p.late ≠ 1) ∧
    ∀ k, t.coreAt k = { s.coreAt k with loads := (t.coreAt k).loads } ∧ (∀ e ∈ (t.coreAt k).loads, e.late ≠ 1) ∧
      (t.coreAt k).loads.map (fun e => { e with late := 0 }) = (s.coreAt k).loads.map (fun e => { e with late := 0 })) ∧
  (∀ f, s.region.freeze = some f → s.heldStore = none → ∃ t, exec .slideTimeout s = .next t ∧
    let fault := fun cause pc tval k => FaultsTask s t k ⟨cause, pc, tval, some s.region.rt, k, true, false, (s.coreAt k).handler⟩
    match Late.least s.lates with
    | none => fault 0x800 (BitVec.allOnes 64) (BitVec.ofNat 64 s.region.rt) 0
    | some l => match l.hedge with
      | some (va, _) => fault 0xB01 l.pc va l.core
      | none => fault 0x800 l.pc (BitVec.ofNat 64 s.region.rt) l.core) ∧
  (∀ k va pc, s.heldStore = some (k, va, pc) → ∃ t, exec .slideTimeout s = .next t ∧
    FaultsTask s t k ⟨0xB01, pc, va, some s.region.rt, k, true, false, (s.coreAt k).handler⟩) ∧
  (∀ p, s.landing = some p → ∃ t, exec .itemLand s = .next t ∧ SameMemory s t ∧ t.cur = s.cur ∧ t.region.rt = s.region.rt ∧
    let f := s.onItem p
    let g := (f.itemAsk p).1
    let lands := (∀ q ∈ t.region.agenda, q.seq = p.seq → q.landed = true ∧ q.held = []) ∧
      t.region.freeze = if p.due ≤ s.rt then s.region.freeze.map fun f => { f with lastLand := s.ptc } else s.region.freeze
    let waits := ∀ q ∈ t.region.agenda, q.seq = p.seq → q.landed = false
    let sends := if (s.ctx s.task.ctx).flushing = true then waits
      else waits ∧ t.sendSeq = s.sendSeq + 1 ∧ ∀ q ∈ t.region.agenda, q.seq = p.seq → q.sent = some s.sendSeq
    match (f.itemAsk p).2 with
    | .none => lands
    | .wait _ _ => waits
    | .read _ => if f.readHeld p then waits else p.sent = none → sends
    | .write _ l =>
      match p.sent with
      | none => sends
      | some n =>
        if p.hash = (f.askLines g false l).map s.hashOf ∧ f.arrives p n (f.askLines g false l) = true then
          match hedgeRun g.ctx l f with
          | none => lands
          | some c => waits ∧ (t.ctx c).asked = true
        else waits) ∧
  (∀ f, s.region.freeze = some f → f.why = .slide → s.task.state = .running → s.region.budgetAt = none → s.cutHop = none →
    s.queueFaults = [] → s.region.stopAt = none →
    let runs := fun (x : Turn) => some { s with turn := [({ s.cur with core := 0 }, x)] }
    (s.lates = [] → f.probed = false → s.frozenMove f = runs (.phase .cycleProbe)) ∧
    (s.lates = [] → f.probed = true → f.peer = false → s.throttle.active = false →
      (max f.lastLand f.tick + s.region.ahead ≤ s.ptc → s.frozenMove f = runs (.event .regionResume)) ∧
      (s.ptc < max f.lastLand f.tick + s.region.ahead → s.frozenMove f =
        if s.heldStore.isSome = true ∨ s.slidemax + f.throttled ≤ s.ptc - f.tick then runs (.event .slideTimeout) else none)) ∧
    (s.lates ≠ [] → s.frozenMove f =
      if s.heldStore.isSome = true ∨ s.slidemax + f.throttled ≤ s.ptc - f.tick then runs (.event .slideTimeout) else none)) ∧
  (∀ f, s.region.freeze = some f → s.task.state = .running → s.task.noted = s.task.stateCode → s.queuesMove = none → s.budgetMet = false →
    s.region.active = true → s.region.entering = false → s.region.traps = [] → s.landing = none → s.frozenMove f ≠ none →
    s.taskMove = s.frozenMove f)

/-! ### Rings, arrays, links and chains (06, 07) -/

/-- 06 R188, R189, R195, R196, R213, R214: RINGCFG samples its descriptor at issue + 3 and takes effect at issue + 4 with every count
0, if the descriptor is well formed and the ring is not in use once every command of the cycle has issued; a sampling of watched bytes
that a write which has issued has still to change is the early-read fault of the earliest such write, also where the write issues in the
sampling's cycle (what a command not yet sampled will write, the checks take from its descriptor as it stands: DEDUCED,
notes/assumptions/19.md; the order of traps in one cycle is 05 R185's); RINGQ reads a count after the ring events of its cycle, and 0 in
loose code; ERCHK sets and clears the checked range. -/
def Obligations.Rings : Prop := ∀ s,
  (∀ a n, s.timed = true → ∃ t, exec (.ringcfg a n) s = .next t ∧
    Commands s t (s.rx a) 16 16 [(s.rt + 3, s.cur.core, .phase (.ringSample n.toNat (s.rx a).toNat s.core.pc))]) ∧
  (∀ n a pc, let base := s.snat a 4
    let slot := s.snat (a + 4) 4
    let count := s.snat (a + 8) 1
    Samples s (runPhase (.ringSample n a pc) s) 0 a 16 pc fun s1 =>
      if s.snat (a + 9) 7 = 0 ∧ base % 64 = 0 ∧ slot % 64 = 0 ∧ 64 ≤ slot ∧ slot ≤ 0x10000 ∧ 1 ≤ count ∧ count ≤ 64 ∧
          base + slot * count ≤ 0x180000 then
        OnlyRegion s s1 ∧ Posted s s1 [(s.rt, s.cur.core, .phase (.ringQuiet n pc)),
          (s.rt + 1, s.cur.core, .phase (.ringApply n base slot count))]
      else UnitTraps s s1 0 1 0 (BitVec.ofNat 64 a) pc s.cur.core) ∧
  (∀ n pc, let t := runPhase (.ringQuiet n pc) s
    let r := s.core.ring n
    if r.configured = true ∧ (r.claims ≠ r.arrivals ∨ r.arrivals ≠ r.pops ∨ s.ringBusy s.cur.core n = true) then
      UnitTraps s t 0 6 3 (BitVec.ofNat 64 n) pc s.cur.core
    else t = s) ∧
  (∀ unit spans pc by', let t := runPhase (.earlyCheck unit spans pc by') s
    ((∀ p ∈ spans, s.earlyRead s.cur.core p.1 p.2 = none) → t = s) ∧
    ∀ due, (∃ p ∈ spans, s.earlyRead s.cur.core p.1 p.2 = some due) →
      (∀ p ∈ spans, ∀ n, s.earlyRead s.cur.core p.1 p.2 = some n → due ≤ n) → UnitTraps s t unit 6 1 (BitVec.ofNat 64 due) pc by') ∧
  (∀ unit k spans pc by', let c := s.coreAt k
    let t := s.checkAgain unit k spans pc by'
    if 0 < c.checker.2 ∧ ∃ p ∈ spans, max p.1 c.checker.1 < min (p.1 + p.2) (c.checker.1 + c.checker.2) then
      OnlyRegion s t ∧ Posted s t [(s.rt, k, .phase (.earlyCheck unit spans pc by'))]
    else t = s) ∧
  (∀ n base slot count, let t := runPhase (.ringApply n base slot count) s
    OnlyCore s t ∧ t.core = { s.core with rings := t.core.rings } ∧ (∀ m, m ≠ n → t.core.ring m = s.core.ring m) ∧
    t.core.ring n = { configured := true, base := base, slot := slot, count := count }) ∧
  (∀ d n (sel : BitVec 3), ∃ t, exec (.ringq d n sel) s = .next t ∧
    if s.timed then Issues s t [(s.rt, s.cur.core, .phase (.ringCount d n.toNat sel.toNat))]
    else Delivers s t d 0 2 ∧ Passes s t 1 []) ∧
  (∀ d n sel, s.timed = true → let t := runPhase (.ringCount d n sel) s
    let r := s.core.ring n
    let v := if r.configured then (if sel = 0 then r.pops else if sel = 1 then r.claims else if sel = 2 then r.arrivals else r.dcount)
      else 0
    if d = 0 then t = s else OnlyRegion s t ∧ t.region = s.region.with1 (cpItem s d (BitVec.ofNat 64 (v % 2 ^ 32)) 2)) ∧
  (∀ a b, s.timed = true → ∃ t, exec (.erchkOn a b) s = .next t ∧
    if 0 < (s.rx b).toNat ∧ 0x180000 < (s.rx a).toNat + (s.rx b).toNat then Traps s t 5 5 (s.rx a + s.rx b)
    else Issues s t [(s.rt, s.cur.core, .phase (.checkerSet (s.rx a).toNat (s.rx b).toNat))]) ∧
  (s.timed = true → ∃ t, exec .erchkOff s = .next t ∧ Issues s t [(s.rt, s.cur.core, .phase (.checkerSet 0 0))])

/-- 07 R216, R217, R221 to R223, 01 R26, R27: FMTW pushes its format word at issue + 1; WLOAD and MMA pop the format word at
once, whether or not a fault follows, check it, and enter the array's queue with the start cycle that the command before allows. A
poisoned entry of the format queue traps with a number that is the model's (notes/assumptions/36.md). -/
def Obligations.ArrayIssue : Prop := ∀ s, s.timed = true →
  (∀ u a, s.noUnit (.fmtw u a) = false → ∃ t, exec (.fmtw u a) s = .next t ∧
    Issues s t [(s.rt + 1, s.cur.core, .phase (.fmtPush u.toNat (s.rx a) s.core.pc))]) ∧
  (∀ u v pc, let t := runPhase (.fmtPush u v pc) s
    if 16 ≤ (s.core.arr u).fq.length then UnitTraps s t 0 9 4 (BitVec.ofNat 64 u) pc s.cur.core
    else OnlyCore s t ∧ t.core = s.core.setArr u { s.core.arr u with fq := (s.core.arr u).fq ++ [v] }) ∧
  (∀ i u load c l m, arrayForm i = some (u, load, c, l, m) → s.noUnit i = false → ∃ t, exec i s = .next t ∧
    let a := s.core.arr u.toNat
    match a.fq with
    | [] => Traps s t 6 8 (BitVec.ofNat 64 u.toNat)
    | fw :: rest =>
      let bad := (a.fqBad.filter fun n => decide (n ≠ 0)).map fun n => n - 1
      let popped := s.setCore (s.core.setArr u.toNat { a with fq := rest, fqBad := bad })
      if 0 ∈ a.fqBad then Traps popped t 0x0C 7 (BitVec.ofNat 64 (2 * 256 + 16 * u.toNat))
      else if formatWordLegal fw = false then Traps popped t 9 1 fw
      else if load = false ∧ a.wfmt ≠ some (fwWfmt fw) then Traps popped t 9 2 fw
      else if 16 ≤ a.waiting.length then Traps popped t 9 5 (BitVec.ofNat 64 u.toNat)
      else
        let start := startAfter a.last s.rt load
        ∃ cmd : ArrCmd, cmd.load = load ∧ cmd.orientC = c ∧ cmd.link = l ∧ cmd.ring = m ∧ cmd.fw = fw ∧ cmd.start = start ∧
          cmd.issue = s.rt ∧ cmd.pc = s.core.pc ∧ cmd.bytes = [] ∧ cmd.tile = none ∧
          Issues (s.setCore (s.core.setArr u.toNat { a with
              fq := rest, fqBad := bad, waiting := a.waiting ++ [cmd], last := some (start, passOf fw, load)
              wfmt := if load then some (fwWfmt fw) else a.wfmt })) t
            [(start, s.cur.core, .event (.arrayCommandStart u.toNat))])

/-- 07 R216, R218 to R220, R228, R229, 06 R192, 01 R32, R33, R36: a command starts if its ring's head slot has arrived and holds
its tile, and if an MMA keeps the overflow bound of its X64 link, which is not looked at where the tile is poisoned
(notes/assumptions/52.md); WLOAD replaces the tile; a contribution enters its link. -/
def Obligations.ArrayEvents : Prop := ∀ s u,
  (∀ cmd rest, (s.core.arr u).waiting = cmd :: rest → ∃ t, exec (.arrayCommandStart u) s = .next t ∧
    let a := s.core.arr u
    let r := s.core.ring cmd.ring
    let at' := r.slotAddr r.pops
    let size := 4096 * operandBytes (if cmd.load then fwWfmt cmd.fw else fwAfmt cmd.fw)
    let eA := largestExp (if cmd.load then fwWfmt cmd.fw else fwAfmt cmd.fw) (takeBytes s.core.scratch at' size)
    let x := if cmd.load then none else s.x64Link cmd.link
    let traps := fun cause sub (tval : Word) => UnitTraps s t 2 cause sub tval cmd.pc s.cur.core
    if r.configured = false then traps 6 2 (BitVec.allOnes 64)
    else if r.headReady = false then traps 6 2 (BitVec.ofNat 64 at')
    else if r.slot < size then traps 1 0 (BitVec.ofNat 64 cmd.ring)
    else if s.core.spoisoned at' size = true then traps 0x0C 4 (BitVec.ofNat 64 at')
    else if (x.all fun (_, c, anchor) => boundOk c.products anchor eA (a.tile.bind (·.eW)) (fwA cmd.fw) (fwW cmd.fw)) = false then
      traps 9 3 (BitVec.ofNat 64 cmd.link)
    else
      let p := if cmd.load then 64 else passOf cmd.fw
      OnlyHere s t ∧ SameMemory s t ∧
      t.core = s.core.setArr u { a with
        waiting := rest, lastStart := s.rt, lastPass := p
        running := a.running ++ [{ cmd with slotAddr := at', eA := eA, tile := a.tile, checked := x.map (·.1) }] } ∧
      Posted s t [(s.rt + p - 1, s.cur.core, .phase (.ringPop cmd.ring cmd.uid)), (s.rt, s.cur.core, .phase (.rowSample u cmd.uid 0))]) ∧
  (∀ tile, ∃ t, exec (.wloadTileReplace u tile) s = .next t ∧ OnlyCore s t ∧ SameMemory s t ∧
    t.core = s.core.setArr u { s.core.arr u with tile := some tile, running := (t.core.arr u).running } ∧
    ∀ cmd ∈ (s.core.arr u).running, cmd.load = false → cmd ∈ (t.core.arr u).running) ∧
  (∀ uid cmd, (s.core.arr u).running.find? (fun c => c.uid == uid) = some cmd → ∃ t, exec (.contributionPerform u uid) s = .next t ∧
    let s0 := s.setCore (s.core.setArr u { s.core.arr u with running := (s.core.arr u).running.filter fun c => c.uid != uid })
    let tile := cmd.tile.getD ⟨0, [], none⟩
    Contributes s0 t cmd.link false cmd.pc s.cur.core fun l c =>
      let anchor := c.anchorOf l.hop
      if anchor.isSome = true ∧ cmd.checked ≠ some (l.chain * 16 + l.hop) ∧
          boundOk c.products (anchor.getD 0) cmd.eA tile.eW (fwA cmd.fw) (fwW cmd.fw) = false then
        UnitTraps s0 t 2 9 3 (BitVec.ofNat 64 cmd.link) cmd.pc s.cur.core
      else
        ∃ l', Entered l l' anchor (cmd.products tile) ∧ OnlyHere s0 t ∧ SameMemory s t ∧ SameRegs s t ∧
          (s0.core.setLink cmd.link l').SameUnits t.core ∧ CountsOnly s t [0x10] ∧
          Posted s0 t [(s.rt, s.cur.core, .phase (.linkComplete cmd.link))])

/-- 01 R32: products that the grid of an X64 element holds exactly enter it as their exact sum in units of the anchor, modulo
2^64, and change no state and no mark. -/
def Obligations.ExactAccumulation : Prop := ∀ (anchor : Int) (ps : List (Bool × Nat × Int)) (n : BitVec 64) (st : BitVec 2) (ix : Bool),
  (∀ p ∈ ps, anchor ≤ p.2.2) →
  contributeX64 anchor (ps.map fun p => .fin p.1 p.2.1 p.2.2) (n, st, ix) =
    (n + BitVec.ofInt 64 (ps.map fun p => scaled p.1 p.2.1 p.2.2 anchor).sum, st, ix)

/-- 01 R15 to R17, R29: rounding the exact value of a finite pattern back into its format gives the pattern, with either
rounding, saturating or not. -/
def Obligations.FormatsRoundTrip : Prop := ∀ f ∈ [f64, f32, fbf, f16, e4m3, e5m2], ∀ (rtz sat : Bool) (bits : Nat),
  bits < 2 ^ (1 + f.ebits + f.fbits) → (∃ neg m e, f.decode bits = .fin neg m e) → f.encode rtz sat (f.decode bits) = bits

/-- 07 R247, R248, R228, R229, R240: LZERO zeroes an unbuilt slot at issue + 8; LREAD and LREAD.m read a slot into a ring whose
slots hold it, sampling the slot and taking the ring's number at issue, a row of 64 elements a cycle from issue + 8 on, the states after
the last; an incoming partial arrives at its hop; a NORM contribution adds its value to element 0. -/
def Obligations.LinkSlots : Prop := ∀ s,
  (s.timed = true → ∀ n, ∃ t, exec (.lzero n) s = .next t ∧ Issues s t [(s.rt + 8, s.cur.core, .phase (.slotZero n.toNat s.core.pc))]) ∧
  (∀ n pc, let t := runPhase (.slotZero n pc) s
    if (s.core.link n).role = .unbuilt then OnlyLink s t n { s.core.link n with elems := [], states := [], inexact := false }
    else UnitTraps s t 3 0x0A 4 (BitVec.ofNat 64 n) pc s.cur.core) ∧
  (s.timed = true → ∀ n m, ∀ i states, (i = .lread n m ∧ states = false) ∨ (i = .lreadM n m ∧ states = true) →
    ∃ t, exec i s = .next t ∧
      if (s.core.ring m.toNat).configured = true ∧ (if states then 33792 else 32768) ≤ (s.core.ring m.toNat).slot then
        Issues s t [(s.rt, s.cur.core, .phase (.readTake n.toNat m.toNat states s.core.pc))]
      else Traps s t 1 0 (m.setWidth 64)) ∧
  (∀ n m states pc, let t := runPhase (.readTake n m states pc) s
    let l := s.core.link n
    let q := s.core.ring m
    let row := fun (at' off : Nat) (bytes : List Byte) (last : Bool) =>
      (at', s.cur.core, Turn.phase (.ringWrite ⟨m, q.claims, off, bytes, last, pc.toNat, s.cur.core, []⟩))
    OnlyHere s t ∧ SameMemory s t ∧ t.core = s.core.setRing m { q with claims := (q.claims + 1) % 2 ^ 32 } ∧
    ∃ packed : List Byte, packed.length = 1024 ∧
      (∀ b < 1024, ∀ i < 4, (packed.getD b 0).extractLsb' (2 * i) 2 = SMap.get 0 l.states (4 * b + i)) ∧
      Posted s t (((List.range 64).map fun r => row (s.rt + 8 + r) (512 * r)
          ((List.range 64).flatMap fun e => leBytes 8 (SMap.get 0 l.elems (64 * r + e)).toNat) (!states && r == 63)) ++
        if states = true then [row (s.rt + 72) 32768 packed true] else [])) ∧
  (∀ w, RingWritten s (runPhase (.ringWrite w) s) 3 w) ∧
  (∀ uid hop slot p c, s.region.chain uid = some c → ∃ t, exec (.hopPerform uid hop slot p) s = .next t ∧
    let l := s.core.link slot
    if l.role = .hop ∧ l.chain = uid ∧ l.hop = hop then
      OnlyHere s t ∧ SameMemory s t ∧ t.core = s.core.setLink slot { l with incoming := some p, arrived := true } ∧
      Posted s t [(s.rt, s.cur.core, .phase (.linkComplete slot))]
    else UnitTraps s t 3 0x0A 1 (BitVec.ofNat 64 ((s.region.base + s.cur.core) * 256 + slot)) c.pc c.by') ∧
  (∀ slot pc by' q, ∃ t, exec (.normContribution slot pc by' q) s = .next t ∧
    Contributes s t slot true (BitVec.ofNat 64 pc) by' fun l _ =>
      OnlyHere s t ∧ SameMemory s t ∧
      t.core = s.core.setLink slot { l with
        received := l.received + 1, elems := SMap.set 0 l.elems 0 (rne64 ((dp (SMap.get 0 l.elems 0)).add (dp q))) } ∧
      Posted s t [(s.rt, s.cur.core, .phase (.linkComplete slot))])

/-- 07 R235, R238, R244 to R246: CHBUILD samples its descriptor at issue + 3. CHCLOSE, CHFREE, CHSTAT and CHSPLICE act on the
chain whose tail link this core holds: CHCLOSE closes a complete unfrozen chain into a ring that holds it and releases its
links, CHFREE releases them, CHSTAT samples every host at issue + Λ, CHSPLICE sends the new slot to a hop that has not
forwarded and at which a frozen chain stands; each refusal is a chain fault. Members of a joined region that host hops are told. That
an ended chain is not found is the model's choice (notes/assumptions/72.md), as are the tests of the tail before x[a] (74.md), the cycle
of CHSPLICE's tests (54.md) and what it knows of another package's hops (58.md). -/
def Obligations.ChainCommands : Prop := ∀ s, s.timed = true → ∀ i,
  (∀ a, ∃ t, exec (.chbuild i a) s = .next t ∧
    Commands s t (s.rx a) 64 320 [(s.rt + 3, s.cur.core, .phase (.chainSample i.toNat (s.rx a).toNat s.core.pc))]) ∧
  (∀ a pc, let t := runPhase (.chainSample i.toNat a pc) s
    if s.core.spoisoned a 320 = true then UnitTraps s t 0 0x0C 3 (BitVec.ofNat 64 a) pc s.cur.core
    else match s.chainAt a i.toNat pc s.cur.core with
      | none => UnitTraps s t 0 0x0A 3 (BitVec.ofNat 64 a) pc s.cur.core
      | some c =>
        let uid := s.newChain.1
        let hops := c.hops.zipIdx.flatMap fun (h, k) =>
          (s.rt + s.lambda h.core + 21, h.core, fun m => Instr.chainConfigArrival uid k h.slot false ⟨false, m⟩) ::
            if h.hfmt = 4 then [(s.rt + s.lambda h.core + 21, h.core, fun m => Instr.chainConfigArrival uid k h.rslot true ⟨false, m⟩)] else []
        let told := (s.setChain uid c).told ((hops.filter fun x => decide (farCore ≤ x.2.1)).map fun (at', k, event) =>
          (k - farCore, event (some ⟨at', c.id, s.region.base + s.cur.core, pc.toNat, c.bytes⟩)))
        OnlyRegion told t ∧ Posted told t (hops.map fun (at', k, event) => (at', k, .event (event none)))) ∧
  (∀ uid c pc norm, s.region.chain uid = some c →
    let z := c.close
    let q := s.core.ring z.dring
    let tail := s.core.link (((c.hop c.tail).map (·.slot)).getD 0)
    let s1 := s.setCore (s.core.setRing z.dring { q with claims := (q.claims + 1) % 2 ^ 32 })
    let t := runPhase (.closeTake uid pc norm) s
    OnlyHere s t ∧ SameMemory s t ∧ t.core = s1.core ∧
    Posted s1 t (if z.cscl = true then [(s.rt + 1, s.cur.core, .phase (.closeScales uid tail s.rt q.claims pc norm))]
      else s.closing c tail s.rt q.claims pc norm [])) ∧
  (∀ uid c tail issue seq pc norm, s.region.chain uid = some c → let t := runPhase (.closeScales uid tail issue seq pc norm) s
    let r := s.core.ring c.close.cring
    if r.configured = false then UnitTraps s t 3 6 2 (BitVec.allOnes 64) pc s.cur.core
    else if r.early = [] ∧ r.headReady = false then UnitTraps s t 3 6 2 (BitVec.ofNat 64 (r.slotAddr r.pops)) pc s.cur.core
    else
      let s1 := s.setCore (s.core.setRing c.close.cring r.consume)
      OnlyHere s t ∧ SameMemory s t ∧ t.core = s1.core ∧ Posted s1 t (s.closing c tail issue seq pc norm
        ((List.range 64).map fun j => BitVec.ofNat 32 (s.snat (r.slotAddr (r.early.headD r.pops) + 4 * j) 4)))) ∧
  (∀ uid c a at', s.region.chain uid = some c → let t := runPhase (.statSample uid a at') s
    let block := s.statBlock uid c
    OnlyHere s t ∧ SameMemory s t ∧ t.core = s.core ∧ Posted s t [(at', s.cur.core, .phase (.engineWrite a block))] ∧
    block.take 3 = [if c.frozen.isSome then 4 else if c.arrivedHops.length < c.hops.length then 1
        else if (c.hops.getLast?.any fun h => ((s.coreAt h.core).link h.slot).complete) = true then 3 else 2,
      BitVec.ofNat 8 ((c.frozen.map (·.1)).getD 0xFF), BitVec.ofNat 8 ((c.frozen.map (·.2)).getD 0)]) ∧
  (∀ a bytes, ScratchWritten s (runPhase (.engineWrite a bytes) s) a bytes) ∧
  (s.tailOf i.toNat = none →
    (∃ t, exec (.chclose i) s = .next t ∧ Traps s t 0x0A 6 (i.setWidth 64)) ∧
    (∃ t, exec (.chfree i) s = .next t ∧ Traps s t 0x0A 6 (i.setWidth 64)) ∧
    (∀ a, ∃ t, exec (.chstat i a) s = .next t ∧ Traps s t 0x0A 6 (i.setWidth 64)) ∧
    (∀ a k, ∃ t, exec (.chsplice i a k) s = .next t ∧ Traps s t 0x0A 6 (i.setWidth 64))) ∧
  (∀ uid c slot, s.tailOf i.toNat = some (uid, c, slot) →
    let s0 := s.setChain uid { c with ended := true }
    (∃ t, exec (.chclose i) s = .next t ∧
      let z := c.close
      let out := s.core.ring z.dring
      let scales := s.core.ring z.cring
      if c.frozen.isSome then Traps s t 0x0A 5 (i.setWidth 64)
      else if (s.core.link slot).complete = false then Traps s t 6 7 (i.setWidth 64)
      else if out.configured = false ∨ out.slot < (if c.scalar then 64 else 4096 * outBytes z.ofmt) ∨
          (z.cscl = true ∧ (scales.configured = false ∨ scales.slot < 256)) ∨ (z.norm = true ∧ s.normTarget z.nch = none) then
        Traps s t 0x0A 7 (i.setWidth 64)
      else
        Issues (s0.releasesTold uid c 48) t (s0.releases uid c 48 ++
          [(s.rt, s.cur.core, .phase (.closeTake uid s.core.pc (if z.norm then s.normTarget z.nch else none)))])) ∧
    (∃ t, exec (.chfree i) s = .next t ∧ Issues (s0.releasesTold uid c 1) t (s0.releases uid c 1)) ∧
    (∀ a, ∃ t, exec (.chstat i a) s = .next t ∧
      let far := (c.hops.map fun h => s.lambda h.core).foldl max 0
      Commands s t (s.rx a) 64 320 [(s.rt + far, s.cur.core, .phase (.statSample uid (s.rx a).toNat (s.rt + 2 * far + 8)))]) ∧
    (∀ a k, ∃ t, exec (.chsplice i a k) s = .next t ∧
      if 256 ≤ (s.rx a).toNat then Traps s t 1 0 (s.rx a)
      else match c.hop k.toNat with
        | none => Traps s t 0x0A 8 (i.setWidth 64)
        | some h =>
          let s1 : State := if farCore ≤ h.core then { s with fresh := s.fresh + 1 } else s
          let at' := s.rt + s.lambda h.core + 24
          let event := fun m => Instr.chainConfigArrival uid k.toNat (s.rx a).toNat false ⟨true, m⟩
          if s.hasForwarded h = true ∨ (c.frozen.any fun x => decide (k.toNat ≠ if x.2 = 2 then x.1 + 1 else x.1)) = true then
            Traps s1 t 0x0A 8 (i.setWidth 64)
          else
            Issues (s1.tellHosts c (event (some ⟨at', c.id, s.region.base + s.cur.core, c.pc.toNat, c.bytes⟩))) t
              [(at', h.core, .event (event none))]))

/-- 07 R227, R236, R239, R242, R243, R245, 06 R191: a chain's configuration arrives at a slot that is unbuilt, and no other
unended chain of its id may stand there; a splice moves a hop to an unbuilt slot and clears the freeze; a closing row is
written into its ring (notes/assumptions/15.md); a released slot becomes unbuilt and keeps its elements; a freeze records the first hop
and reason. A splice's arrival asks nothing of the chain (54.md). -/
def Obligations.ChainEvents : Prop := ∀ s,
  (∀ uid hop slot residual m c, s.region.chain uid = some c →
    ∃ t, exec (.chainConfigArrival uid hop slot residual ⟨false, m⟩) s = .next t ∧
    if (s.core.link slot).role ≠ .unbuilt ∨ s.idHosted c.id uid = true then UnitTraps s t 3 0x0A 4 (BitVec.ofNat 64 c.id) c.pc c.by'
    else
      OnlyHere s t ∧ SameMemory s t ∧
      t.core = s.core.setLink slot (if residual then
          { elems := (s.core.link slot).elems, states := (s.core.link slot).states, role := .residual, chain := uid, hop := hop }
        else { role := .hop, chain := uid, hop := hop }) ∧
      t.region = { s.region with chains := t.region.chains } ∧ (∀ v, v ≠ uid → t.region.chain v = s.region.chain v) ∧
      t.region.chain uid = some (if residual then c else { c with arrivedHops := hop :: c.arrivedHops })) ∧
  (∀ uid hop slot residual m c, s.region.chain uid = some c →
    ∃ t, exec (.chainConfigArrival uid hop slot residual ⟨true, m⟩) s = .next t ∧
    if (s.core.link slot).role ≠ .unbuilt then UnitTraps s t 3 0x0A 8 (BitVec.ofNat 64 c.id) c.pc c.by'
    else
      SameMemory s t ∧ SameRegs s t ∧ (t.core.link slot).role = .hop ∧ (t.core.link slot).chain = uid ∧ (t.core.link slot).hop = hop ∧
      (∀ h, c.hop hop = some h → h.slot ≠ slot → (t.core.link h.slot).role = .unbuilt) ∧
      ∃ c', t.region.chain uid = some c' ∧ c'.frozen = none ∧
        ∀ k, c'.hop k = (c.hop k).map fun h => if k = hop then { h with slot := slot } else h) ∧
  (∀ w, ∃ t, exec (.closeRowPerform w) s = .next t ∧ RingWritten s t 3 w) ∧
  (∀ uid (r : Release), ∃ t, exec (.chainRelease uid r) s = .next t ∧
    let l := s.core.link r.slot
    if l.role ≠ .unbuilt ∧ l.chain = uid then OnlyLink s t r.slot { l with role := .unbuilt } else t = s) ∧
  (∀ uid hop reason c, s.region.chain uid = some c → ∃ t, exec (.chainFreeze uid hop reason) s = .next t ∧
    if c.frozen.isSome then t = s
    else
      SameMemory s t ∧ t.region.chain uid = some { c with frozen := some (hop, reason) } ∧
      t.region.traps = (if c.trapFrz then s.region.traps ++ [⟨c.by', 3, 0x0A, 5, BitVec.ofNat 64 c.id, c.pc⟩] else s.region.traps) ∧
      t.region.agenda = s.region.agenda ∧
      ∀ h, c.hop hop = some h → h.core < farCore →
        let l := (s.coreAt h.core).link h.slot
        (t.coreAt h.core).link h.slot =
          { l with storageError := l.storageError || reason == 1, hopFailed := l.hopFailed || reason == 2 })

/-! ### Configurations, runs, streams and copies (06, 04) -/

/-- 06 R202 to R204, 04 R139: SSTR stages a stream for its engine and GCFG loads a configuration, both sampling at issue + 3, with the
early-read check and the refusals of R202 (in virtual memory too: notes/assumptions/70.md); a stream's beats begin once its descriptor and
its run's start are known; a load that failed its checks faults when it is ready. GRUN commits the staged streams, and grun.c the configuration: with no
configuration, or with two runs waiting, it is a schedule fault; the first run starts at issue + 8, or when its load is ready. -/
def Obligations.GridCommands : Prop := ∀ s,
  (s.timed = true → ∀ a n, ∃ t, exec (.sstr a n) s = .next t ∧
    match descTrap (s.rx a) 64 64 with
    | some (cause, sub) => Traps s t cause sub (s.rx a)
    | none => ∃ x : Stream, x.uid = s.region.seq ∧ x.se = n.toNat ∧ x.addr = (s.rx a).toNat ∧ x.desc = none ∧ x.run = none ∧ x.done = false ∧
        Issues (s.setCore { s.core with
            streams := (s.core.streams.map fun y => if y.se = n.toNat ∧ y.run = none then { y with done := true } else y) ++ [x] }) t
          [(s.rt + 3, s.cur.core, .phase (.streamSample x.uid))]) ∧
  (s.timed = true → ∀ a, ∃ t, exec (.gcfg a) s = .next t ∧
    match descTrap (s.rx a) 1024 32768 with
    | some (cause, sub) => Traps s t cause sub (s.rx a)
    | none => ∃ g : Image, g.uid = s.region.seq ∧ g.addr = (s.rx a).toNat ∧ g.ready = s.rt + 160 ∧ g.sampled = false ∧
        Issues (s.setCore { s.core with shadow := some g }) t [(s.rt + 3, s.cur.core, .phase (.imageSample g.uid))]) ∧
  (∀ uid x, s.core.stream uid = some x → Samples s (runPhase (.streamSample uid) s) 0 x.addr 64 x.pc fun s1 =>
    let d := readStreamDesc s.localCore s.core x.addr
    if s.streamOk x.se x.addr d = false then UnitTraps s s1 0 1 0 (BitVec.ofNat 64 x.addr) x.pc s.cur.core
    else if x.run = none ∧ x.done = true then
      OnlyCore s s1 ∧ s1.core = { s.core with streams := s.core.streams.filter fun y => y.uid != uid }
    else s1 = (s.setCore (s.core.setStream { x with desc := some d })).armStream uid) ∧
  (∀ uid x d u st, s.core.stream uid = some x → x.desc = some d → x.run.bind s.core.runOf = some u → u.start = some st →
    let t := s.armStream uid
    if (s.core.lastBeat x.se uid).any (fun last => decide (st + d.off ≤ last)) = true then UnitTraps s t 5 6 4 u.pc u.pc s.cur.core
    else if u.n = 0 then OnlyCore s t ∧ t.core = s.core.setStream { x with done := true }
    else if d.dir = 2 then t = s
    else OnlyHere s t ∧ t.core = s.core ∧ Posted s t
      (if d.dir = 0 ∧ d.space = 2 then (List.range (min 64 d.beats)).map fun j => (st + d.off + j, s.cur.core, .event (.streamBeat x.se u.uid j))
       else if d.beats = 0 then []
       else if d.dir = 0 then [(st + d.off - 3, s.cur.core, .phase (.beatSample uid 0))]
       else [(st + d.off, s.cur.core, .event (.streamBeat x.se u.uid 0))])) ∧
  (∀ uid g, (s.core.shadow.toList ++ s.core.images).find? (fun g => g.uid == uid) = some g →
    Samples s (runPhase (.imageSample uid) s) 0 g.addr 32768 g.pc fun s1 =>
      let l := s.snat (g.addr + 0x368) 4 % 128
      ∃ s2 g1, s1 = s2.resolveRuns ∧
        g1 = { g with sampled := true, bad := s.imageFault g.addr l, bundles := max 1 (min 64 l), blocks := g1.blocks } ∧
        (g1.bad = none → ∀ e < 32, SMap.get {} g1.blocks e = s.blockAt (g.addr + 1024 * e)) ∧
        OnlyHere s s2 ∧ Posted s s2 [(g.ready, s.cur.core, .event (.configReady uid))] ∧
        s2.core = if (s.core.shadow.any fun x => x.uid == uid) = true then { s.core with shadow := some g1 }
          else { s.core with images := s.core.images.map fun x => if x.uid == uid then g1 else x }) ∧
  (∀ uid g, (s.core.shadow.toList ++ s.core.images).find? (fun g => g.uid == uid) = some g →
    ∃ t, exec (.configReady uid) s = .next t ∧
      match g.bad with
      | none => t = s
      | some a =>
        UnitTraps (s.setCore { s.core with shadow := if s.core.shadow.any (fun x => x.uid == uid) then none else s.core.shadow }) t
          0 0x12 0 (BitVec.ofNat 64 a) g.pc s.cur.core) ∧
  (s.timed = true → ∀ i commit n, runForm s i = some (commit, n) → ∃ t, exec i s = .next t ∧
    let waiting := (s.core.runs.filter fun u => !u.started).length
    match (if commit then s.core.shadow.map (·.uid) else s.core.runs.getLast?.map (·.image)) with
    | none => Traps s t 6 4 s.core.pc
    | some g =>
      if 2 ≤ waiting then Traps s t 6 4 s.core.pc
      else
        OnlyHere s t ∧ SameMemory s t ∧ SameRegs s t ∧ Passes s t 1 [] ∧ t.core.shadow = (if commit then none else s.core.shadow) ∧
        (∃ u ∈ t.core.runs, u.uid = s.region.seq ∧ u.issue = s.rt ∧ u.n = n ∧ u.image = g ∧ u.commits = commit ∧ u.started = false) ∧
        (∀ x ∈ s.core.streams, x.run = none → x.done = false → ∃ y ∈ t.core.streams, y.uid = x.uid ∧ y.run = some s.region.seq) ∧
        (∀ img, s.core.runs = [] → (s.core.images ++ s.core.shadow.toList).find? (fun x => x.uid == g) = some img → commit = true →
          img.sampled = true → ∃ u ∈ t.core.runs, u.start = some (max (s.rt + 8) img.ready)))

/-- 04 R127, R128, R136, 06 R201, R204: a run starts with every element's iteration at 0, and with the committed configuration
in its loop buffer where it commits one; each cycle issues one bundle, the operations that the guards admit, element by element,
and the last bundle ends the run; the padding of deferred blocks follows four cycles later: pairs of value 0 and index 0xFFFFFFFF
fill the last block, and the last of them completes its slot. -/
def Obligations.GridRuns : Prop :=
  (∀ s uid x, s.core.stream uid = some x →
    let n := (x.desc.map (·.base)).getD 0
    let blocks := (s.core.ring n).slot / 128
    let pc := ((x.run.bind s.core.runOf).map (·.pc)).getD 0
    let gap := (16 - x.pairs % 16) % 16
    let word := fun (i off : Nat) (v : BitVec 32) (last : Bool) =>
      let p := x.pairs + i
      (⟨n, SMap.get 0 x.slots (p / (blocks * 16)), p / 16 % blocks * 128 + 4 * (p % 16) + off, leBytes 4 v.toNat, last, pc.toNat,
        s.cur.core, []⟩ : RingWrite)
    let s1 := ((List.range gap).flatMap fun i => [word i 0 0 false, word i 64 0xFFFFFFFF (decide (i + 1 = gap))]).foldl (fun u w => u.ringWrite 5 w) s
    runPhase (.deferPad uid) s = s1.setCore (s1.core.setStream { x with done := true }) ∧
    ∀ w, RingWritten s (s.ringWrite 5 w) 5 w) ∧
  ∀ s run u, s.core.runOf run = some u →
  (∃ t, exec (.gridRunStart run) s = .next t ∧
    let image := if u.commits then s.core.images.find? (fun g => g.uid == u.image) else none
    OnlyHere s t ∧ SameMemory s t ∧ SameRegs s t ∧
    (∀ e, t.core.elem e = if e < 32 then
        match image with
        | some g =>
          let b := SMap.get {} g.blocks e
          { s.core.elem e with buffer := b, k := Vector.ofFn fun i => SMap.get 0 b.ks i.val, pro := b.pro, epi := b.epi, iter := 0, position := 0 }
        | none => { s.core.elem e with iter := 0, position := 0 }
      else s.core.elem e) ∧
    t.core = { s.core with els := t.core.els, runs := t.core.runs } ∧
    (∀ v ∈ t.core.runs, v.uid = u.uid → v = { u with started := true, ended := decide (u.n = 0) }) ∧
    Posted s t (if u.n = 0 then [] else [(s.rt, s.cur.core, .event (.gridBundleIssue run))])) ∧
  (∃ t, exec (.gridBundleIssue run) s = .next t ∧
    let l := (s.core.bundlesOf u).getD 1
    let j := s.rt - u.start.getD 0
    SameMemory s t ∧ SameRegs s t ∧
    (∀ e, SMap.has s.core.els e = true →
      (t.core.elem e).iter = BitVec.ofNat 32 (j / l) ∧ (t.core.elem e).position = (j % l + 1) % l) ∧
    ({ s.core with els := t.core.els }).SameUnits t.core ∧ CountsOnly s t [0x13] ∧
    t.turn = (s.core.els.flatMap fun (k, e) => (e.bundle (j % l) (j / l) u.n).map fun (slot, i) =>
      (({ s.cur with el := k, slot := slot } : Focus), Turn.event i)) ++ s.turn ∧
    Posted s t (if j + 1 < u.n * l then [(s.rt + 1, s.cur.core, .event (.gridBundleIssue run))]
      else [(s.rt, s.cur.core, .event (.gridRunEnd run))])) ∧
  (∃ t, exec (.gridRunEnd run) s = .next t ∧ OnlyHere s t ∧ SameMemory s t ∧ SameRegs s t ∧
    t.core = { s.core with runs := t.core.runs } ∧ (∀ v ∈ t.core.runs, v.uid = u.uid → v = { u with ended := true }) ∧
    Posted s t (s.core.streams.filterMap fun x => if x.run = some run ∧ x.desc.map (·.dir) = some 2 then
      some (s.rt + 4, s.cur.core, .phase (.deferPad x.uid)) else none))

/-- 06 R187, R191, R199, 04 R132, 08 R264, 12 R322: an input beat that has been fetched lands in its element's stream in-port; an
output beat takes the out-port, takes its slot of a ring with the slot's first beat (notes/assumptions/15.md), and goes on its way; it performs in the
scratchpad, a ring or memory. A beat with a page that does not translate is a trap of its run: tval is the beat's address for a
protection fault, and the address that does not translate for a translation fault. -/
def Obligations.StreamBeats : Prop :=
  (∀ s se run j x u d,
    s.core.streamIn se run = some x → s.core.runOf run = some u → x.desc = some d →
    (d.dir = 0 → SMap.has x.fetched j = true → SMap.get [] x.fetched j ≠ [] → ∃ t, exec (.streamBeat se run j) s = .next t ∧
      OnlyHere s t ∧ SameMemory s t ∧ SameRegs s t ∧ CountsOnly s t [0x12] ∧
      t.core.elem (streamElement se) = { s.core.elem (streamElement se) with strmIn := beatVec (SMap.get [] x.fetched j) } ∧
      (∀ e, e ≠ streamElement se → t.core.elem e = s.core.elem e) ∧
      ({ s.core with els := t.core.els, streams := t.core.streams }).SameUnits t.core ∧
      Posted s t (if d.space = 2 ∧ j + 64 < d.beats then [(u.start.getD 0 + d.off + (j + 64), s.cur.core, .event (.streamBeat se u.uid (j + 64)))]
        else [])) ∧
    (d.dir ≠ 0 → (d.space = 2 → ∃ l, writeLines (s.streamAgent se) .write (lineFuel 64) s (d.addr d.base j) 64 = .ok l) →
      ∃ t, exec (.streamBeat se run j) s = .next t ∧
        let ring := (s.coreAt d.core).ring d.base
        let first := d.space = 1 ∧ j % d.perSlot = 0
        let seq := if first then ring.claims else SMap.get 0 x.slots (d.index 3 j)
        let to' := s.beatGoes u d j seq
        SameMemory s t ∧ SameRegs s t ∧ CountsOnly s t [0x12] ∧
        ((t.coreAt d.core).ring d.base).claims = (if first then (ring.claims + 1) % 2 ^ 32 else ring.claims) ∧
        Posted s t ((to'.2.1, (if d.space = 1 then to'.2.2 else s.cur.core),
            .event (.streamWritePerform se run to'.1 (vecBytes (s.core.elem (streamElement se)).strmOut))) ::
          (if j + 1 < d.beats then [(u.start.getD 0 + d.off + (j + 1), s.cur.core, .event (.streamBeat se u.uid (j + 1)))] else []))) ∧
    (∀ v f, let va := d.addr d.base j
      (d.dir = 0 ∧ SMap.has x.fetched j = false ∧ s.regionLoad (s.streamAgent se) .read u.issue va 64 = .failed v f) ∨
        (d.dir ≠ 0 ∧ d.space = 2 ∧ writeLines (s.streamAgent se) .write (lineFuel 64) s va 64 = .error (v, f)) →
      ∃ t, exec (.streamBeat se run j) s = .next t ∧
        UnitTraps s t 5 (trCause f).1 (trCause f).2 (BitVec.ofNat 64 (match f with | .pfault _ => va | _ => v)) u.pc s.cur.core)) ∧
  (∀ s se run bytes,
    let done := fun (t0 t : State) => t = t0.setCoreAt s.cur.el ((t0.coreAt s.cur.el).beatDone se run)
    (∀ a, ∃ t t0, exec (.streamWritePerform se run (.scratch a) bytes) s = .next t ∧ ScratchWritten s t0 a bytes ∧ done t0 t) ∧
    (∀ w, ∃ t t0, exec (.streamWritePerform se run (.ring w) bytes) s = .next t ∧ RingWritten s t0 5 { w with bytes := bytes } ∧ done t0 t) ∧
    (∀ va, ∃ t, exec (.streamWritePerform se run (.mem va) bytes) s = .next t ∧
      EngineStores s t (s.streamAgent se) va bytes))

/-- 06 R190, R205 to R208, R210, R211, R214, 17 R382, R408: COPY and COPYD enter the queue of an allotted engine, queue and address being
checked at issue (DEDUCED, notes/assumptions/44.md), and sample their descriptor at issue + 3; the command starts at its issue or once its
engine has moved the bytes before; a source in a scratchpad is watched by that core's checker (notes/assumptions/66.md); a poisoned row for
host memory or a digest traps; a row of a scratchpad source is staged with the bytes of then; a row performs at its destination; the digest of COPYD
is SHA-512 of the bytes moved. -/
def Obligations.Copies : Prop := ∀ s,
  (s.timed = true → ∀ i a (n : Reg) digest, (i = .copy a n ∧ digest = false) ∨ (i = .copyd a n ∧ digest = true) →
    ∃ t, exec i s = .next t ∧
      let die := s.dieOf s.cur.core
      if s.cecount ≤ n.toNat then Traps s t 1 0 (wordOf i)
      else if 16 ≤ (s.region.copies.filter fun c => c.die == die && c.engine == n.toNat && !c.done).length then Traps s t 6 9 (n.setWidth 64)
      else match descTrap (s.rx a) 128 128 with
        | some (cause, sub) => Traps s t cause sub (s.rx a)
        | none => ∃ c : Copy, c.uid = s.region.seq ∧ c.digest = digest ∧ c.engine = n.toNat ∧ c.die = die ∧ c.core = s.cur.core ∧
            c.addr = (s.rx a).toNat ∧ c.issue = s.rt ∧ c.desc = none ∧ c.rowsDone = 0 ∧ c.done = false ∧
            Issues (s.setRegion { s.region with copies := s.region.copies ++ [c] }) t [(s.rt + 3, s.cur.core, .phase (.copySample c.uid))]) ∧
  (∀ uid c, s.region.copy uid = some c → c.core = s.cur.core → Samples s (runPhase (.copySample uid) s) 4 c.addr 128 c.pc fun s1 =>
    let d := readCopyDesc s.localCore s.core c.addr
    if s.copyOk c.addr d c.digest = false then UnitTraps s s1 4 1 0 (BitVec.ofNat 64 c.addr) c.pc s.cur.core
    else
      let e := c.die * 8 + c.engine
      let last := SMap.get (0, 0) s.region.engineLast e
      let start := max c.issue (last.1 + (last.2 + 255) / 256)
      let s2 := (s.setRegion { s.region with engineLast := SMap.put s.region.engineLast e (start, d.total) }).setCopy
        { c with desc := some d, start := some start }
      OnlyRegion s s1 ∧ Posted s2 s1 [(s.rt, c.core, .phase (.copyTake uid))]) ∧
  (∀ uid q c d start spans, s.region.copy uid = some c → c.desc = some d → c.start = some start → d.ssp = 1 →
    spans = (d.srcRows d.sbase q).map (fun a => (a, d.count0)) → (s.earlyReads d.score spans).isSome = true →
    ∃ t, exec (.copyRowStage uid q) s = .next t ∧ t = s.checkAgain 4 d.score spans c.pc c.core) ∧
  (∀ uid q c d start, s.region.copy uid = some c → c.desc = some d → c.start = some start → d.ssp = 1 →
    (∀ a ∈ d.srcRows d.sbase q, s.earlyRead d.score a d.count0 = none) → ∃ t, exec (.copyRowStage uid q) s = .next t ∧
      SameMemory s t ∧ t.task.cores = s.task.cores ∧
      (∃ c', t.region.copy uid = some c' ∧ c'.stagedRows = q + 1 ∧
        SMap.get [] c'.staged q = (d.srcRows d.sbase q).flatMap fun a => takeBytes (s.coreAt d.score).scratch a d.count0) ∧
      ∃ ps : List Pend, t.region.agenda = s.region.agenda ++ ps ∧
        ∀ k < d.perStage, ∃ p ∈ ps, p.due = s.rowAt c d start (q * d.perStage + k) ∧ p.act = .event (.copyRowPerform uid (q * d.perStage + k))) ∧
  (∀ uid r c0 d start s1, s.region.copy uid = some c0 → c0.desc = some d → c0.start = some start → s.rowReady c0 d start r = .ready s1 →
    let c := (s1.region.copy uid).getD c0
    let bytes := d.rowBytesOf (SMap.get [] c.staged (r / d.perStage)) r
    let bad := d.badOf ((SMap.get [] c.staged (r / d.perStage)).length) (SMap.get [] c.bad (r / d.perStage)) r
    ∃ t, exec (.copyRowPerform uid r) s = .next t ∧
    if bad ≠ [] ∧ (c.digest = true ∨ (d.dsp = 0 ∧ d.dcls = 3)) then UnitTraps s1 t 4 0x0C 6 (BitVec.ofNat 64 (s1.rowSourceAt c d r)) c.pc c.core
    else
      SameRegs s t ∧
      (d.dsp = 1 → ∀ x, SMap.get 0 (t.coreAt d.dcore).scratch x =
        if d.dstRow d.dbase r ≤ x ∧ x < d.dstRow d.dbase r + bytes.length then bytes.getD (x - d.dstRow d.dbase r) 0
        else SMap.get 0 (s.coreAt d.dcore).scratch x) ∧
      (d.dsp = 0 → EngineStores s1 t (s1.copyAgent c.die c.engine) (d.dstRow d.dbase r) bytes) ∧
      (d.ssp ≠ 0 → d.dsp ≠ 0 → SameMemory s t) ∧
      (r + 1 < d.rows ∨ c.digest = true → ∀ c', t.region.copy uid = some c' →
        c'.rowsDone = r + 1 ∧ c'.moved = if c.digest then c.moved ++ bytes else [])) ∧
  (∀ uid c d, s.region.copy uid = some c → c.desc = some d → ∃ t, exec (.copydDigestPerform uid) s = .next t ∧
    SameMemory s t ∧ SameRegs s t ∧ t.region.copy uid = none ∧
    ∀ x, t.spad x = if d.digest ≤ x ∧ x < d.digest + (sha512 c.moved).length then (sha512 c.moved).getD (x - d.digest) 0 else s.spad x)

/-! ### The grid (04) -/

/-- 04 R129, R130, R141 to R158, 03 R72: the floating-point and integer operations, the lane, mask and random operations put
their lanes on their way with the latency of the table; so do the lane that MOV takes into a scalar, the pairs that DEFER appends
in lane order, and a scalar word of slot C. FSPEC's exp2 and log2 are correctly rounded from as many bits as notes/assumptions/11.md
says. -/
def Obligations.GridOperations : Prop :=
  (∀ s i,
    (∀ d n v, floatLanes s i = some (d, n, v) → ∃ t, exec i s = .next t ∧ GridIssues s t n (.vec d (Vector.ofFn v))) ∧
    (∀ d v, integerLanes s i = some (d, v) → ∃ t, exec i s = .next t ∧ GridIssues s t 1 (.vec d (Vector.ofFn v)))) ∧
  (∀ s,
    (∀ i d n v, moveLanes s i = some (d, n, v) → ∃ t, exec i s = .next t ∧ GridIssues s t n (.vec d (Vector.ofFn v))) ∧
    (∀ f, f.m ≠ 0 → f.m ≠ 1 → ∃ t, exec (.mov f) s = .next t ∧
      GridIssues s t 1 (.scalar (f.d.setWidth 3) ((s.src f.a).toList.getD (f.m.toNat % 16) 0))) ∧
    (∀ f, ∃ t, exec (.defer f) s = .next t ∧
      GridIssues s t 1 (.append (((s.src f.a).toList.zip (s.src f.b).toList).zipIdx.filterMap fun (p, k) =>
        if (s.mask (f.m.toNat % 4)).getLsbD k then some p else none))) ∧
    (∀ w i d v n, decode w = some i → scalarLane s.gx i = some (d, v, n) → ∃ t, exec (.gridSlotCScalar w) s = .next t ∧
      GridIssues s t n (.scalar (d.setWidth 3) v)))

/-- 02 R52, R53, 04 R131 to R133, R157: a result performs in a vector register, at the neighbour that an out-port faces, in the
stream out-port, in a mask of the lanes that are not zero, or in a scalar register other than x0; pairs go to the row's
deferral stream; a port that faces off the grid discards. -/
def Obligations.GridResults : Prop := ∀ s,
  (∀ code v, ∃ t, exec (.gridResultPerform (.vec code v)) s = .next t ∧
    let n := code.toNat
    if h : n < 16 then OnlyElem s t s.cur.el { s.elem with v := s.elem.v.set n v }
    else if n < 20 then
      (match neighbour s.cur.el (n - 16) with
       | some (k, p) => ∀ h : p < 4, OnlyElem s t k { s.core.elem k with ports := (s.core.elem k).ports.set p v }
       | none => t = s)
    else if n = 20 then OnlyElem s t s.cur.el { s.elem with strmOut := v }
    else if h : 22 ≤ n ∧ n < 26 then ∃ m : BitVec 16, (∀ i : Fin 16, m.getLsbD i.val = decide (v[i] ≠ 0)) ∧
      OnlyElem s t s.cur.el { s.elem with m := s.elem.m.set (n - 22) m (by omega) }
    else t = s) ∧
  (∀ n v, ∃ t, exec (.gridResultPerform (.scalar n v)) s = .next t ∧
    if n = 0 then t = s else OnlyElem s t s.cur.el { s.elem with x := s.elem.x.set n.toNat v n.isLt }) ∧
  (∀ pairs, ∃ t, exec (.gridResultPerform (.append pairs)) s = .next t ∧
    match s.core.deferStream (4 + s.cur.el / 8) (s.rt - 1) with
    | some x => if pairs = [] then t = s
        else OnlyRegion s t ∧ SameMemory s t ∧ Posted s t [(s.rt, s.cur.core, .phase (.deferTake x.uid pairs))]
    | none => t = s)

/-! ### Queues, registers and tasks (10, 17, 18) -/

/-- 10 R276, R282, R283: LAUNCH, its checks in order (a failed store: notes/assumptions/38.md), and what it does: 0 where the queue is full, else the record appended as
number SUBCOUNT + 1, which d receives. SUBMIT appends the staged record or sets REFUSED; enabling a queue starts its counts at 0;
CANCEL ends every queued record, and its signal, where SIGALL asks for it, is the atomic add; CANCEL of all also cancels every task
of the queue, a running region at the cycle that 05 R182 chooses. A function without the window has no effect. -/
def Obligations.LaunchAndSubmit : Prop :=
  (∀ s d a b, s.timed = false → ∃ t, exec (.launch d a b) s = .next t ∧
    let A := s.rx a
    let q := s.rx b
    let v := s.queue q.toNat
    if A.toNat % 128 ≠ 0 then Traps s t 3 0 A
    else if 256 ≤ q.toNat then Traps s t 1 0 q
    else if v.enabled = false ∨ v.ctx ≠ s.task.ctx then Traps s t 5 6 q
    else if s.task.failed.isSome then FailedObserved s t (s.task.failed.getD 0)
    else if s.storesDone = false then TriesLater s t .stores
    else match s.readVa A.toNat 128 with
      | .error (.trap f _) => TrapsWalked s t f.cause f.sub f.tval
      | .error .wait => TriesLater s t .load
      | .ok (bytes, _, s1) =>
        let m := putBytes [] 0 bytes
        if recordOk m = false ∨ isGang m = true then Traps s t 1 0 A
        else
          SameTasks s t ∧ s.core.SameUnits t.core ∧ Passes s t 1 [0x0B, 0x0C] ∧
          if v.full = true then SameMemory s t ∧ Sets s t d 0 ∧ t.queues = s.queues
          else Sets s t d (BitVec.ofNat 64 (v.subcount + 1)) ∧ OnlyQueue s t q.toNat { v with subcount := v.subcount + 1 } ∧
            DeviceWrites s1 t v.ctx [(v.slot (v.subcount + 1), bytes)]) ∧
  (∀ s q,
    (∀ fn, ∃ t, exec (.submit fn q) s = .next t ∧
      let v := s.queue q
      if s.windowOf fn q = false then t = s
      else if v.enabled = false ∨ v.full = true then t = s.setQueue q { v with refused := true }
      else OnlyQueue s t q { v with subcount := v.subcount + 1, refused := false } ∧ t.tasks = s.tasks ∧ t.groups = s.groups ∧
        DeviceWrites s t v.ctx [(v.slot (v.subcount + 1), takeBytes v.window 0 128)]) ∧
    (∃ t, exec (.queueEnable q) s = .next t ∧
      if (s.queue q).enabled = true then t = s
      else SameMemory s t ∧ t.tasks = s.tasks ∧ OnlyQueue s t q { s.queue q with
        enabled := true, subcount := 0, claimcount := 0, donecount := 0, cancelled := [], readyTick := none }) ∧
    (∀ fn all i, (i = .cancelQueued fn q ∧ all = false) ∨ (i = .cancelAll fn q ∧ all = true) → ∃ t, exec i s = .next t ∧
      let v := s.queue q
      if s.windowOf fn q = false then t = s
      else
        ((∀ n, v.claimcount < n → n ≤ v.subcount → (recField (s.recordAt q n) 0x0E 1).testBit 1 = false ∨ recField (s.recordAt q n) 0x38 8 = 0) →
          SameMemory s t) ∧
        (∀ pa attr, v.subcount = v.claimcount + 1 → v.subcount ∉ v.cancelled →
          let m := s.recordAt q v.subcount
          let a := recField m 0x38 8
          (recField m 0x0E 1).testBit 1 = true → a ≠ 0 → a % 8 = 0 → translate s v.ctx a .amo = .ok pa attr → pa % 128 + 8 ≤ 128 →
          (∀ i < 8, s.foreign v.ctx (pa + i) = false) →
          StoresBytes s t 0 pa (leBytes 8 (leNat ((List.range 8).map fun i => s.readView 0 (pa + i)) + 1))) ∧
        (v.claimcount ≤ v.subcount → v.claimcount + 1 ∉ v.cancelled →
          (t.queue q).claimcount = v.subcount ∧ (t.queue q).subcount = v.subcount ∧
          (t.queue q).donecount = v.donecount + v.toCancel ∧ ∀ p, p ≠ q → t.queue p = s.queue p) ∧
        (all = false → t.tasks = s.tasks) ∧
        (all = true → ∀ k,
          (SMap.has s.tasks k = true → (s.taskAt k).queue = q → (s.taskAt k).lives = true →
            let r := (s.taskAt k).region
            if (s.taskAt k).state = .running ∧ r.active = true ∧ r.freeze = none then
              (t.taskAt k).state = .running ∧ ∃ f, (t.taskAt k).region = { r with stopAt := some (f, .cancel) } ∧ f ≤ r.rt + r.ahead
            else (t.taskAt k).state = .ending .cancelled) ∧
          ((∀ p ∈ s.tasks, p.1 = k → p.2.queue ≠ q) → t.taskAt k = s.taskAt k))))

/-- 05 R177, 10 R274, R275, R282, R287, 11 R302, 17 R381, 18 R388, R389, R391, R397, R399, R402: a write of a register within its bounds
takes effect, and one outside them has none (DEDUCED, notes/assumptions/34.md; what a host reads of a function's page while it has no
fault queue is 39.md, the limits of power and heat 68.md); a read of BAR0 gives FSTAT, the fault queue's counts and the submit windows'
registers; a peer transfer of firmware leaves as a flit. -/
def Obligations.Registers : Prop := ∀ s,
  (∀ v : Word, ∃ t, exec (.slidemaxWrite v) s = .next t ∧
    t = if 2 ^ 12 ≤ v.toNat ∧ v.toNat ≤ 2 ^ 40 then { s with slidemax := v.toNat } else s) ∧
  (∀ r, ∃ t, exec (.registerWrite r) s = .next t ∧
    match r with
    | .windowRecord fn q off bytes =>
      if s.windowOf fn q = true ∧ off + bytes.length ≤ 128 then
        OnlyQueue s t q { s.queue q with window := (t.queue q).window } ∧ t = { s with queues := t.queues } ∧
        ∀ x, SMap.get 0 (t.queue q).window x =
          if off ≤ x ∧ x < off + bytes.length then bytes.getD (x - off) 0 else SMap.get 0 (s.queue q).window x
      else t = s
    | .notify fn off bytes =>
      if off + bytes.length ≤ 32 then
        t = s.setFn fn { s.fn fn with notify := (t.fn fn).notify } ∧
        ∀ k, (SMap.get 0 (t.fn fn).notify (k / 8)).getLsbD (k % 8) =
          if off ≤ k / 8 ∧ k / 8 < off + bytes.length then (bytes.getD (k / 8 - off) 0).getLsbD (k % 8) && decide ((s.queue k).ctx = fn)
          else (SMap.get 0 (s.fn fn).notify (k / 8)).getLsbD (k % 8)
      else t = s
    | .rassel fn v => t = if fn = 0 then s.setFn 0 { s.fn 0 with rassel := v &&& 0xFFFFF } else s
    | .msixMask fn vec masked =>
      t = s.setFn fn { s.fn fn with masked := (t.fn fn).masked } ∧
      ∀ n, n ∈ (t.fn fn).masked ↔ if n = vec then masked = true else n ∈ (s.fn fn).masked
    | .queueBase q base log2n ctx =>
      t = if (s.queue q).enabled = false ∧ q < 256 ∧ base.toNat % 128 = 0 ∧ log2n ≤ 16 ∧ ctx < 64 then
        s.setQueue q { s.queue q with base := base, log2n := log2n, ctx := ctx } else s
    | .queuePrio q prio => t = if q < 256 ∧ prio < 8 then s.setQueue q { s.queue q with prio := prio } else s
    | .queueDisable q => t = s.setQueue q { s.queue q with enabled := false }
    | .ptroot c pa =>
      t = if c < 64 ∧ pa % 256 = 0 ∧ Config.deviceStorage pa = true then s.setCtx c { s.ctx c with ptroot := pa } else s
    | .saveArea c base stride count =>
      t = if (s.ctx c).held = [] ∧ c < 64 ∧ base % 0x10000 = 0 ∧ stride % 0x10000 = 0 ∧ 1 ≤ count ∧ count ≤ 4096 then
        s.setCtx c { s.ctx c with saveBase := base, saveStride := stride, saveCount := count } else s
    | .faultQueue c base log2n =>
      if c < 64 ∧ base % 4096 = 0 ∧ log2n ≤ 12 then
        (t.ctx c).fqBase = base ∧ (t.ctx c).fqLog2n = log2n ∧ DeviceStores s t c base (List.replicate 64 0) ∧ t.tasks = s.tasks ∧
        t.queues = s.queues
      else t = s
    | .quota c lines =>
      t = if c < 64 ∧ lines ≤ (s.ctx c).quota + s.hedgeFree then s.setCtx c { s.ctx c with quota := lines } else s
    | .cePolicy c mx bx =>
      t = if c < 64 ∧ 1 ≤ mx ∧ mx ≤ 4 ∧ 1 ≤ bx ∧ bx ≤ 8 then s.setCtx c { s.ctx c with cesMx := mx, cesBx := bx } else s
    | .aging a => t = { s with aging := a }
    | .upstream p => t = { s with upstream := p }
    | .join c self bases latency aligned links =>
      t = if c < 64 ∧ bases.length ≤ 16 ∧ self < bases.length ∧ (∀ l ∈ links, l.2.1 < 16) then
        s.setCtx c { s.ctx c with join := some ⟨self, bases, latency, aligned, links.map fun l => ⟨l.1, l.2.1, l.2.2⟩⟩ } else s
    | .msixEntry fn vec addr data =>
      if vec < 3 then
        t = s.setFn fn { s.fn fn with msgs := (t.fn fn).msgs } ∧
        ∀ n, SMap.get (0, 0) (t.fn fn).msgs n = if n = vec then (addr % 2 ^ 64, data % 2 ^ 32) else SMap.get (0, 0) (s.fn fn).msgs n
      else t = s
    | .barRead fn off n =>
      if 64 ≤ fn ∨ 0x200000 < off + n then t = { s with outbox := s.outbox ++ [.hostError fn] }
      else ∃ bytes : List Byte, t = { s with outbox := s.outbox ++ [.hostData bytes] } ∧ bytes.length = n ∧
        (n = 8 → off % 8 = 0 → leNat bytes = s.barWord fn off % 2 ^ 64)
    | .powerTarget w => t = if w < 6000 then { s with powerTarget := w } else s
    | .thermalTarget d v => t = if d < 12 ∧ v < Config.junctionLimit d then s.setDie d { s.die d with thermalTarget := v } else s
    | .peerSend p c va bytes => 0 < bytes.length → bytes.length ≤ 128 → FlitSent s t p 2 (flitBytes (.peerTransfer c va bytes))
    | .tdiLock fn =>
      t = if 1 ≤ fn ∧ fn < 64 ∧ (s.ctx fn).tdi = .unlocked ∧ (s.ctx fn).unlocking = false then
        s.setCtx fn { s.ctx fn with tdi := .locked } else s) ∧
  (∀ fn, fn < 64 →
    s.barWord fn 0 = (if s.replReq = true then 1 else 0) +
      4 * (if fn = 0 then 0 else match (s.ctx fn).tdi with | .unlocked => 0 | .locked => 1 | .run => 2 | .error => 3) +
      (if (s.ctx fn).isSealed = true then 16 else 0) + (if ∃ p ∈ s.ports, p.2.latency ≠ 0 ∧ p.2.aligned = false then 32 else 0) + 256 * fn ∧
    ((s.ctx fn).fqBase ≠ 0 → s.barWord fn 0x30 = s.numAt fn (s.ctx fn).fqBase 8 ∧ s.barWord fn 0x38 = s.numAt fn ((s.ctx fn).fqBase + 16) 8) ∧
    ((s.ctx fn).fqBase = 0 → s.barWord fn 0x30 = 0 ∧ s.barWord fn 0x38 = 0) ∧
    (fn ≠ 0 → ∀ o, 0x40 ≤ o → o < 0x1000 → s.barWord fn o = 0) ∧
    ∀ q < 256, (s.queue q).ctx = fn → let o := 0x100000 + 0x1000 * q
      let v := s.queue q
      s.barWord fn (o + 0x88) = v.subcount ∧ s.barWord fn (o + 0x90) = v.claimcount ∧ s.barWord fn (o + 0x98) = v.donecount ∧
      s.barWord fn (o + 0xA0) = (if v.subcount - v.claimcount = 2 ^ v.log2n then 1 else 0) + (if v.refused = true then 2 else 0) +
        if v.enabled = true then 4 else 0)

/-- 03 R114, 10 R276, R281, R293, R297: RETIRE waits for its stores, observes a failed one, discards its load queue and ends
its task; the end signal adds 1 to the task's counter, counts the task in DONECOUNT and releases its block, in this order and
once every store has performed (a misaligned address takes no add: DESIGN CHOICE, notes/assumptions/59.md; the add waits for the
Hedgerow, and behind writes that do, 27.md); the expiry of the budget
ends a loose task with the deadline fault, and so a region at the cycle that 05 R182 chooses, in a freeze at once. -/
def Obligations.TaskEnds : Prop := ∀ s,
  (s.timed = false → ∃ t, exec .retire s = .next t ∧
    if s.task.failed.isSome then FailedObserved s t (s.task.failed.getD 0)
    else if s.storesDone = false then TriesLater s t .stores
    else
      SameMemory s t ∧ SameRegs s t ∧ t = { s with tasks := SMap.put s.tasks s.cur.task t.task, turn := t.turn } ∧
      t.task = { s.task with cores := SMap.put s.task.cores s.cur.core t.core, state := .ending .retired, wait := .none } ∧
      { s.core with loads := [] }.SameUnits t.core ∧ CountsOnly s t [1] ∧
      t.turn = (s.cur, .phase .noteState) :: (s.cur, .event (.taskEndSignal s.cur.task)) :: s.turn) ∧
  (∀ i, (∀ e, (s.taskAt i).state ≠ .ending e) → exec (.taskEndSignal i) s = .next s) ∧
  (∀ i e, let u := s.taskAt i
    u.state = .ending e → ∃ t, exec (.taskEndSignal i) s = .next t ∧
      if ∃ p ∈ u.cores, ∃ x ∈ p.2.stores, x.isMark = false then t = s
      else
        let a := recField u.record 0x38 8
        SMap.has t.tasks i = false ∧ (∀ j, j ≠ i → t.taskAt j = s.taskAt j) ∧
        (t.queue u.queue).donecount = (s.queue u.queue).donecount + 1 ∧
        (∀ k, u.saveBlock = some k → ∀ j, j ∈ (t.ctx u.ctx).held ↔ j ∈ (s.ctx u.ctx).held ∧ j ≠ k) ∧
        (∀ g m, u.group = some (g, m) → t.turn = (s.cur, .event (.groupMemberEnd g m)) :: s.turn) ∧
        if a % 8 = 0 ∧ a ≠ 0 ∧ (e = .retired ∨ (recField u.record 0x0E 1).testBit 1 = true) then
          match translate s u.ctx a .amo with
          | .ok pa attr =>
            let w : HeldWrite := ⟨u.ctx, 257, a, leBytes 8 0, true⟩
            if s.outsideLocked w = true then SameMemory s t ∧ t.hostHeld = s.hostHeld ++ [w]
            else match hedgeRun u.ctx [(pa, 0, attr)] s with
              | some x => SameMemory s t ∧ t.hostHeld = s.hostHeld ++ [w] ∧ (t.ctx x).asked = true
              | none => pa % 128 = a % 128 → (∀ i < 8, s.foreign u.ctx (pa + i) = false) →
                  StoresBytes s t 0 pa (leBytes 8 (leNat ((List.range 8).map fun i => s.readView 0 (pa + i)) + 1))
          | f => FaultRecorded s t u.ctx (BitVec.ofNat 64 (256 * (trCause f).1 + (trCause f).2)) (BitVec.allOnes 64) (BitVec.ofNat 64 a)
              { freeze := none, queue := u.queue, core := 0, die := 0, flags := 8, recordVa := u.recordVa }
        else SameMemory s t) ∧
  (∃ t, exec .taskBudgetExpiry s = .next t ∧
    if s.region.active = true ∧ s.region.freeze.isSome = true then
      FaultsTask s t 0 ⟨0x702, BitVec.allOnes 64, s.task.recordVa, some s.rt, 0, true, false, (s.coreAt 0).handler⟩
    else if s.region.active = true ∨ (s.region.entering = true ∧ s.region.joinSince = none) then
      OnlyRegion s t ∧ t.region = { s.region with budgetAt := some (s.region.budgetAt.getD (s.rt + s.region.ahead)) }
    else FaultsTask s t 0 ⟨0x702, (s.coreAt 0).pc, s.task.recordVa, none, 0, false, false, (s.coreAt 0).handler⟩) ∧
  (∀ f t, s.region.budgetAt = some f → f ≤ s.rt → t = runPhase .cycleOpen s →
    FaultsTask s t 0 ⟨0x702, BitVec.allOnes 64, s.task.recordVa, some s.rt, 0, true, false, (s.coreAt 0).handler⟩)

/-- 10 R297, 17 R379, R381, 12 R319: a task that faults or is cancelled discards what has not been sent and its region, and a
fault is recorded in the context's fault queue: a record of 64 bytes at the write index and the index behind it, or a count of dropped
ones; a write of the device behind one of its context that waits waits too (notes/assumptions/27.md). -/
def Obligations.FaultRecords : Prop := ∀ s,
  (∀ c va bytes, DeviceStores s (s.putMem' c va bytes) c va bytes) ∧
  (∀ c cause epc tval r, let t := s.faultRecord c cause epc tval r
    let x := s.ctx c
    let w := s.numAt c x.fqBase 8
    let n := s.numAt c (x.fqBase + 8) 8
    t.tasks = s.tasks ∧ t.queues = s.queues ∧ t.groups = s.groups ∧ 0 ∈ (t.fn c).msixPending ∧
    if w < 2 ^ 64 ∧ n < 2 ^ 64 ∧ (BitVec.ofNat 64 w - BitVec.ofNat 64 n).toNat = 2 ^ x.fqLog2n then
      DeviceWrites s t c [(x.fqBase + 16, leBytes 8 (s.numAt c (x.fqBase + 16) 8 + 1))]
    else DeviceWrites s t c [(x.fqBase + 64 + 64 * (w % 2 ^ x.fqLog2n), recordBytes s.ptc cause epc tval r), (x.fqBase, leBytes 8 (w + 1))]) ∧
  (∀ w, w.origin = 257 → (∃ v ∈ s.hostHeld, v.origin = w.origin ∧ v.ctx = w.ctx) → s.outsideWrite w = { s with hostHeld := s.hostHeld ++ [w] }) ∧
  (∀ ptc cause epc tval r, let b := recordBytes ptc cause epc tval r
    b.length = 64 ∧ leNat (b.take 8) = cause.toNat ∧ leNat ((b.drop 8).take 8) = epc.toNat ∧ leNat ((b.drop 16).take 8) = tval.toNat ∧
    (ptc < 2 ^ 64 → leNat ((b.drop 24).take 8) = ptc) ∧ (r.freeze = none → (b.drop 32).take 8 = List.replicate 8 0xFF) ∧
    (r.queue < 2 ^ 16 → leNat ((b.drop 40).take 2) = r.queue) ∧ (r.core < 2 ^ 16 → leNat ((b.drop 42).take 2) = r.core) ∧
    (b.drop 44).take 1 = [BitVec.ofNat 8 r.die] ∧ (b.drop 45).take 1 = [BitVec.ofNat 8 r.flags] ∧
    leNat ((b.drop 48).take 8) = r.recordVa.toNat) ∧
  (∀ t, t = runPhase .taskEnd s →
    t.task.region = {} ∧ t.task.fault = none ∧ t.task.wait = .none ∧ t.task.state = s.task.state ∧
    (∀ k, (t.coreAt k).x = (s.coreAt k).x ∧
      (∀ x, x ∈ (t.coreAt k).stores ↔ x ∈ (s.coreAt k).stores ∧ x.isMark = false ∧ x.sent.isSome = true) ∧
      ∀ x ∈ (t.coreAt k).loads, x ∈ (s.coreAt k).loads ∧ x.cls = 4 ∧ x.sent.isSome = true) ∧
    (s.task.fault = none → SameMemory s t) ∧
    (∀ f, s.task.fault = some f →
      let flags := (if f.timed then 1 else 0) + (if f.multi then 2 else 0) + if f.handler then 4 else 0
      FaultRecorded s t s.task.ctx f.cause f.epc f.tval
        ⟨f.freeze, s.task.queue, s.logical f.core, s.dieOf f.core, flags, s.task.recordVa⟩))

/-- 05 R182, R184, 10 R291, R292, R294 to R296, R298, 12 R335, 03 R121 to R124: a pre-emption request reaches a task, and a gang as a
whole: loose code stops at once, and with it an RGENTER that waits for other members; a region is frozen F cycles on, or at the
earlier cycle that an earlier request chose, one that stands frozen at its cycle, and one that is being restored as it is; a report that
the unit has not applied is taken back. What the parts in device form hold is free, and read back unaltered they give back what they stand
for (notes/assumptions/22.md); the state byte of the block is 35.md. A save is complete once what has begun to perform has performed; a restore reads the block back; a
restored region goes on at its resume tick if every core is ready, else it is the late-entry fault. The state byte of a held
block follows the task's state. -/
def Obligations.SaveAndRestore : Prop := ∀ s,
  (∀ i, ∃ t, exec (.preemptionRequest i) s = .next t ∧ SameMemory s t ∧ (∀ j, j ∉ s.gangOf i → t.taskAt j = s.taskAt j) ∧
    ∀ j ∈ s.gangOf i,
      let u := s.taskAt j
      let w := t.taskAt j
      w.cores = u.cores ∧ w.record = u.record ∧
      (∀ g m, u.wait = .report → u.group = some (g, m) → (∃ r ∈ (s.group g).reports, r.1 = m) →
        w.wait = .none ∧ ∀ r ∈ (t.group g).reports, r.1 ≠ m) ∧
      let r := u.region
      let later := fun f0 => w.state = .running ∧ w.region = { r with
        ready := w.region.ready, othersReady := w.region.othersReady
        stopAt := some (match r.stopAt with
          | some (c, y) => (min c f0, if y = .cancel then .cancel else .preempt)
          | none => (f0, .preempt)) }
      let saves := fun r' => w.state = .freezing ∧ w.region = r' ∧ s.ptc < w.saveAt
      let frozen := fun f => saves { r with freeze := some { f with why := .preempt, resume := none } }
      match u.state, r.freeze with
      | .restoring, some f => frozen f
      | .running, freeze =>
        if r.entering = true ∧ r.joinSince = none then later r.ahead
        else if r.active = true then later (if freeze.isSome then r.rt else r.rt + r.ahead)
        else saves {} ∧ (r.joinSince.isSome = true → (∀ d, ∀ p ∈ (t.die d).ceOwner, p.2 ≠ j) ∧
          (s.gangOf i = [j] → SMap.has (t.ctx u.ctx).joining (match (s.ctx u.ctx).join with | some l => l.self | none => 0) = false))
      | _, _ => w.state = u.state ∧ w.region = r) ∧
  (∀ u b, u = s.task → b = u.recordVa.toNat →
    let begun := (∃ p ∈ u.cores, (∃ x ∈ p.2.stores, x.isMark = false ∧ x.sent.isSome = true) ∨ (∃ x ∈ p.2.ranges, x.sent.isSome = true) ∨
        ∃ x ∈ p.2.loads, x.value.isSome = true ∧ x.landed = false) ∨
      (u.region.active = false ∧ s.ptc < (s.coreAt 0).nextIssue)
    (u.state ≠ .freezing ∨ begun → exec .saveComplete s = .next s) ∧
    (u.state = .freezing → ¬begun →
      ∃ t, exec .saveComplete s = .next t ∧
        if u.region.active = false ∧ u.failed.isSome = true ∧ (s.coreAt 0).handler = false then
          FaultsTask s t 0 ⟨0xB02, (s.coreAt 0).pc, u.failed.getD 0, none, 0, false, false, false⟩
        else
          t.task = { u with state := .saved, noted := 5, saveAt := s.ptc, savedCores := u.cores, cores := [], places := [], dies := [] } ∧
          (∀ i, i ≠ s.cur.task → t.taskAt i = s.taskAt i) ∧ t.queues = s.queues ∧
          (∀ c k, (formBytes c k).length = 128) ∧ DeviceWrites s t u.ctx
            ((b + 0x83, leBytes 1 5 ++ leBytes 4 0 ++ leBytes 8 (if u.region.active then u.region.rt else 2 ^ 64 - 1) ++
                leBytes 8 (if u.region.active then u.region.slide else 0) ++ leBytes 8 u.running) ::
              u.cores.flatMap fun (k, c) => c.image (b + 0x10000 + k * 0x2400000) u.region.active u.region.live)) ∧
    (u.state = .saved → u.places ≠ [] → ∃ t, exec .restoreBind s = .next t ∧
      t.task.state = (if u.region.active then .restoring else .running) ∧ t.task.places = u.places ∧ t.task.dies = u.dies ∧
      t.task.running = s.numAt u.ctx (b + 0x98) 8 ∧ t.task.prio = s.numAt u.ctx (b + 0x82) 1 ∧ t.task.queue = s.numAt u.ctx (b + 0x80) 2 ∧
      t.task.budget = recField t.task.record 8 4 ∧
      t.task.record = putBytes [] 0 ((s.getMem u.ctx b 128).getD (takeBytes u.record 0 128)) ∧ DeviceWrites s t u.ctx [(b + 0x83, leBytes 1 (if u.region.active then 3 else 2))] ∧
      (∀ k, SMap.has u.savedCores k = true →
        let va := b + 0x10000 + k * 0x2400000
        let old := SMap.get {} u.savedCores k
        let c := t.coreAt k
        (∀ r, c.rx r = if r = 0 then 0 else BitVec.ofNat 64 (s.numAt u.ctx (va + 8 * r.toNat) 8)) ∧
        c.pc = BitVec.ofNat 64 (s.numAt u.ctx (va + 0x200) 8) &&& 0xFFFFFFFFFFFFFFFC ∧
        c.code = putBytes [] 0 ((s.getMem u.ctx (va + 0x80000) 0x10000).getD []) ∧
        c.scratch = putBytes [] 0 ((s.getMem u.ctx (va + 0x100000) 0x180000).getD []) ∧
        (u.region.active = false → s.ptc < c.nextIssue) ∧
        (let part := fun o => s.getMem u.ctx (va + o) 128
         part 0x208 = some (formBytes old 0) → part 0x40000 = some (formBytes old 1) →
         (u.region.active = true → ∀ n < 256, part (0x400000 + n * 0x20000 + 0x18C00) = some (formBytes old (2 + n))) →
         c.loops = old.loops ∧ c.active = old.active ∧ c.psig = old.psig ∧ c.hpc = old.hpc ∧ c.hpe = old.hpe ∧ c.cause = old.cause ∧
         c.epc = old.epc ∧ c.tval = old.tval ∧ c.tvec = old.tvec ∧ c.handler = old.handler ∧
         (u.region.active = false → c.links = old.links) ∧
         (u.region.active = true → ∀ n < 256, (c.link n).role = (old.link n).role ∧ (c.link n).received = (old.link n).received)) ∧
        (u.region.active = true → ∀ n < 256,
          let a := va + 0x400000 + n * 0x20000
          (c.link n).elems = (if u.region.live.getLsbD n then elemsOf ((s.getMem u.ctx a 0x8000).getD []) else []) ∧
          (c.link n).states = if u.region.live.getLsbD n then statesOf ((s.getMem u.ctx (a + 0x8000) 0x400).getD []) else [])) ∧
      (u.region.active = true → t.region.rt = s.numAt u.ctx (b + 0x88) 8 ∧ t.region.slide = s.numAt u.ctx (b + 0x90) 8 ∧
        ∀ f, u.region.freeze = some f → ∃ n, t.region.freeze = some { f with resume := some n, probed := false } ∧ s.ptc + 2048 ≤ n)) ∧
    (u.state = .restoring → ∀ f, u.region.freeze = some f → ∃ t, exec .restoreResume s = .next t ∧
      if ∀ k < u.region.ncores, SMap.get 0 u.readyAt k ≤ s.ptc then
        t = s.setTask { u with state := .running, region := { u.region with freeze := none, slide := u.region.slide + (s.ptc - f.tick) } }
      else ∃ k < u.region.ncores, s.ptc < SMap.get 0 u.readyAt k ∧ (∀ j < k, SMap.get 0 u.readyAt j ≤ s.ptc) ∧
        FaultsTask s t 0 ⟨0x606, BitVec.allOnes 64, BitVec.ofNat 64 (u.region.base + k), some u.region.rt, 0, true, false,
          (s.coreAt 0).handler⟩)) ∧
  (s.task.saveBlock.isSome = true → ∀ t, t = runPhase .noteState s →
    t.task = { s.task with noted := s.task.stateCode } ∧ (∀ i, i ≠ s.cur.task → t.taskAt i = s.taskAt i) ∧
    DeviceWrites s t s.task.ctx [(s.task.recordVa.toNat + 0x83, leBytes 1 s.task.stateCode)])

/-- 10 R276, R278, R279, R285 to R289, 13 R342: a selection takes a candidate of the highest effective priority, of those one whose
queue comes first from the pointer on; it claims a record into a new task, or binds saved tasks again. A claimed task is bound
where it was placed, or, where a core of that placement is gone, as soon as it can be placed anew. A bound task starts with
its cores set: its arguments, its record's address and its entry point, or as a sibling of the task that forked it. A record that
breaks the rules is claimed and its task faulted. The byte of the block that holds the task's state is 35.md. Which of several reasons a refusal carries and what a slot that does not translate reads
as are the model's (notes/assumptions/63.md), as is that no head is claimed while a full checkpoint waits (64.md); what a gate is, is
43.md. -/
def Obligations.Distribution : Prop := ∀ s,
  (s.selected = none → exec .selection s = .next s) ∧
  (∀ c, s.selected = some c →
    c ∈ s.candidates ∧ (∀ x ∈ s.candidates, x.prio ≤ c.prio ∧ (x.prio = c.prio → s.turns c.queue ≤ s.turns x.queue)) ∧
    (∀ n p, c.saved = none → (s.queue c.queue).head = some n → s.together c.queue n = [n] →
      s.place s.heldCores (shapeOf (s.recordAt c.queue n)) = some p → ∃ t, exec .selection s = .next t ∧
        let v := s.queue c.queue
        let u := t.taskAt s.nextTask
        t.pointer = (c.queue + 1) % 256 ∧ s.ptc < t.nextSelect ∧ t.nextTask = s.nextTask + 1 ∧
        t.turn = ({ task := s.nextTask }, .event .taskBind) :: s.turn ∧ (∀ i, i ≠ s.nextTask → t.taskAt i = s.taskAt i) ∧
        (t.queue c.queue).subcount = v.subcount ∧ (t.queue c.queue).lastClaim = s.ptc ∧
        (n + 1 ∉ v.cancelled → (t.queue c.queue).claimcount = n) ∧
        u.state = .bound ∧ u.queue = c.queue ∧ u.subnum = n ∧ u.prio = c.prio ∧ u.ctx = v.ctx ∧ u.dies = p.1 ∧ u.places = p.2 ∧
        u.budget = recField u.record 8 4 ∧ u.ncores = coresOf u.record ∧
        (∃ s0, SameMemorySystem s s0 ∧ s0.queues = s.queues ∧ u.record = s0.recordAt c.queue n) ∧
        ∃ k, k < (s.ctx v.ctx).saveCount ∧ k ∉ (s.ctx v.ctx).held ∧ k ∈ (t.ctx v.ctx).held ∧ u.saveBlock = some k ∧
          u.recordVa = BitVec.ofNat 64 (s.blockVa v.ctx k) ∧
          DeviceWrites s t v.ctx [(s.blockVa v.ctx k, takeBytes u.record 0 128 ++ leBytes 2 c.queue ++ leBytes 1 c.prio ++ leBytes 1 1 ++
            leBytes 4 0 ++ leBytes 8 (2 ^ 64 - 1) ++ leBytes 8 0 ++ leBytes 8 0 ++ List.replicate 0xFF60 0)]) ∧
    (∀ at' j, c.saved = some (at', [j]) → ∃ t p, exec .selection s = .next t ∧ SameMemory s t ∧ t.queues = s.queues ∧
      t.pointer = (c.queue + 1) % 256 ∧ t.turn = ({ task := j }, .event .restoreBind) :: s.turn ∧
      t.taskAt j = { s.taskAt j with dies := p.1, places := p.2 } ∧ (∀ i, i ≠ j → t.taskAt i = s.taskAt i) ∧
      s.placeAll (Config.choose s.fresh) [(s.taskAt j).needs] s.heldCores (fun _ => 0) = some [p])) ∧
  (s.checkpoint.full = true → s.bringUp = 7 → (s.task.state = .bound → s.taskMove = none) ∧
    s.distributorMove = if s.allSaved = true then some { s with turn := [({}, .event .memoryCheckpoint)] } else none) ∧
  (s.task.state = .bound → s.bindPlace = none → exec .taskBind s = .next s) ∧
  (s.task.places ≠ [] → (∀ p ∈ s.task.places, p.2.2 ∈ s.dieCores (SMap.get p.2.1 s.task.dies p.2.1)) →
    s.bindPlace = some (s.task.dies, s.task.places)) ∧
  (∀ u dies places, u = s.task → u.state = .bound → s.bindPlace = some (dies, places) → 0 < u.ncores → ∃ t, exec .taskBind s = .next t ∧
      t.task = { u with state := .running, noted := 2, dies := dies, places := places, cores := t.task.cores } ∧ (∀ i, i ≠ s.cur.task → t.taskAt i = s.taskAt i) ∧
      t.queues = s.queues ∧ t.groups = s.groups ∧ DeviceWrites s t u.ctx [(u.recordVa.toNat + 0x83, leBytes 1 2)] ∧
      (∀ k, 0 < k → k < u.ncores → (t.coreAt k).pc = 0 ∧ ∀ r, (t.coreAt k).rx r = 0) ∧
      let lead := t.coreAt 0
      lead.pc = BitVec.ofNat 64 (recField u.record 0 8) ∧ lead.nextIssue = s.ptc + 1 ∧ lead.loads = [] ∧ lead.stores = [] ∧
      (u.group = none → ∀ r : Reg, lead.rx r =
        if r = 3 then u.recordVa
        else if 10 ≤ r.toNat ∧ r.toNat ≤ 17 then BitVec.ofNat 64 (recField u.record (0x40 + 8 * (r.toNat - 10)) 8)
        else 0) ∧
      (∀ g i, u.group = some (g, i) →
        let v := s.group g
        (∀ r, lead.rx r = if r = 3 then u.recordVa else if r = v.dest ∧ r ≠ 0 then BitVec.ofNat 64 i else v.core0.rx r) ∧
        lead.loops = v.core0.loops ∧ lead.active = v.core0.active ∧ lead.tvec = v.core0.tvec ∧ lead.psig = v.core0.psig ∧
        lead.scratch = v.core0.scratch)) ∧
  (∀ q reason n, (s.queue q).head = some n → ∃ t, exec (.taskRefused q reason) s = .next t ∧
    let v := s.queue q
    (t.queue q).donecount = v.donecount + 1 ∧ (t.queue q).subcount = v.subcount ∧ (∀ p, p ≠ q → t.queue p = s.queue p) ∧
    (n + 1 ∉ v.cancelled → (t.queue q).claimcount = n) ∧ t.tasks = s.tasks ∧
    (∀ g i, s.groupOf q n = some (g, i) → t.turn = (s.cur, .event (.groupMemberEnd g i)) :: s.turn) ∧
    FaultRecorded s t v.ctx (BitVec.ofNat 64 (0x1300 + reason)) (BitVec.allOnes 64) (BitVec.ofNat 64 (v.slot n)) ⟨none, q, 0, 0, 0, 0⟩)

/-! ### Sample groups and snapshots (12, 13) -/

/-- 13 R338, R341, R342: FORK makes its checks in the order of its listing, the first that fails trapping (a reserved field is error 0x01,
as 13 R341 has it, and what the checks stand on is notes/assumptions/32.md); then it waits for its stores, having observed a failed one
(38.md); at the event it misses room that others have taken meanwhile (32.md), and else makes a group with a view of its own for every
member, arrays of zeros, and one record for every sibling in the queue; d receives N. -/
def Obligations.Fork : Prop :=
  (∀ (s : State) (A : Word),
    (s.core.loads ≠ [] → s.forkCheck A = .error (.trap ⟨2, 0, BitVec.ofNat 64 s.core.loads.length⟩ s.core)) ∧
    (s.core.loads = [] → A.toNat % 256 ≠ 0 → s.forkCheck A = .error (.trap ⟨3, 0, A⟩ s.core)) ∧
    ∀ b bad s1, s.core.loads = [] → A.toNat % 256 = 0 → s.readVa A.toNat 256 = .ok (b, bad, s1) → b.length = 256 ∧
      match translate s s.task.ctx A.toNat .write with
      | .ok pa attr =>
        ((∀ x ∈ s.forkTraps A b pa attr, ¬ x.1) → s.forkCheck A = .ok (putBytes [] 0 b, pa, s1)) ∧
        ∀ e, FirstFails (s.forkTraps A b pa attr) e → s.forkCheck A = .error (.trap e s1.core)
      | f => s.forkCheck A = .error (.trap ⟨(trCause f).1, (trCause f).2, A⟩ s1.core)) ∧
  ∀ s d a, s.timed = false → ∃ t, exec (.fork d a) s = .next t ∧
    let A := s.rx a
    let waits := fun (u : State) (m : SMap Byte) (pa : Nat) =>
      if u.task.failed.isSome then FailedObserved u t (u.task.failed.getD 0)
      else if u.storesDone = false then TriesLater u t (.fork m pa)
      else if (u.groupAt pa).isSome then Traps u t 0x0E 5 A
      else match u.forkRoom A m with
        | some e => Traps u t e.cause e.sub e.tval
        | none => Forked u t d A m pa
    match s.task.wait with
    | .fork m pa => waits (s.setTask { s.task with wait := .none }) m pa
    | _ => match s.forkCheck A with
      | .error (.trap e _) => TrapsWalked s t e.cause e.sub e.tval
      | .error .wait => TriesLater s t .load
      | .ok (m, pa, s1) => Counted s { s1 with contexts := s.contexts } [0x0B, 0x0C] ∧ SameMemory s s1 ∧ waits s1 m pa

/-- 13 R340, R343 to R346, R350, 03 R71, 12 R319: GREPORT, GWAIT, GWAIT.Y, GCANCEL and GSTAT. GWAIT reads the record of a group that is
not active as the task reads it: in its view, and behind its earlier writes. -/
def Obligations.GroupCommands : Prop := ∀ s, s.timed = false →
  (∀ a, ∃ t, exec (.greport a) s = .next t ∧
    match s.task.group.bind fun p => (s.groups.find? fun x => x.1 == p.1).map fun x => (p.1, p.2, x.2) with
    | none => if s.task.wait = .report then WaitEnds s t 0 0 else Traps s t 0x0E 6 0
    | some (g, i, v) =>
      if s.task.wait = .report then
        (if (v.reports.any fun r => r.1 == i) = true then TriesLater s t .report else WaitEnds s t 0 0)
      else if (v.member i).status ≠ 0 then Traps s t 0x0E 6 v.va
      else if s.storesDone = false then TriesLater s t .stores
      else ∃ tick, s.ptc < tick ∧
        TriesLater (s.setGroup g { v with reports := v.reports ++ [(i, (s.rx a).setWidth 32, tick)] }) t .report) ∧
  (∀ d a i yields, (i = .gwait d a ∧ yields = false) ∨ (i = .gwaitY d a ∧ yields = true) → ∃ t, exec i s = .next t ∧
    Names s t (s.rx a) fun _ x =>
      match x with
      | none =>
        let at' := (s.rx a).toNat + 0x40
        if s.readWaits .read at' 4 = true then TriesLater s t .load
        else match translateAs s s.agent at' .read with
          | .ok p attr =>
            let byte := fun i => s.readView (s.agent.target (at' + i) attr) (p + i)
            at' % 128 + 4 ≤ 128 → s.agent.remote p attr = false → (∀ i < 4, s.foreign s.task.ctx (p + i) = false) →
              if byte 0 = 2 then WaitEnds s t d (BitVec.ofNat 64 ((byte 1).toNat + 256 * (byte 3).toNat))
              else Traps s t 0x0E 7 (s.rx a)
          | f => TrapsWalked s t (trCause f).1 (trCause f).2 (BitVec.ofNat 64 at')
      | some (g, v) =>
        if (s.task.group.any fun p => p.1 == g && (v.member p.2).status == 0) = true then Traps s t 0x0E 9 (s.rx a)
        else if v.state = 2 then WaitEnds s t d (BitVec.ofNat 64 (v.res + 256 * v.withStatus [1]))
        else if yields = true then
          OnlyTask s t ∧ SameMemory s t ∧ s.ptc < t.task.saveAt ∧
          t.task = { s.task with wait := .group g true, state := .freezing, saveAt := t.task.saveAt }
        else TriesLater s t (.group g false)) ∧
  (∀ d a b, ∃ t, exec (.gcancel d a b) s = .next t ∧
    if s.task.wait = .cancel then
      match s.task.answer with
      | some n =>
        let mine := match translate s s.task.ctx (s.rx a).toNat .read with
          | .ok pa _ => (s.groupAt pa).map fun x => x.1
          | _ => none
        if mine.isSome = true ∧ (s.tasks.any fun p => p.2.cancelling && p.2.group.map (fun x => x.1) == mine) = true then
          TriesLater s t .cancel
        else WaitEnds s t d (BitVec.ofNat 64 n) ∧ t.task.answer = none
      | none => TriesLater s t .cancel
    else Names s t (s.rx a) fun _ x =>
      match x with
      | none => Traps s t 0x0E 7 (s.rx a)
      | some (g, v) =>
        let B := s.rx b
        if B ≠ BitVec.allOnes 64 ∧ v.members.length ≤ B.toNat then Traps s t 0x0E 8 B
        else ∃ tick, s.ptc < tick ∧ TriesLater (s.setGroup g { v with
          cancels := v.cancels ++ [(s.cur.task, if B = BitVec.allOnes 64 then none else some B.toNat, tick)] }) t .cancel) ∧
  (∀ d a b (sel : BitVec 7), ∃ t, exec (.gstat d a b sel) s = .next t ∧
    Names s t (s.rx a) fun _ x =>
      match x with
      | none => Traps s t 0x0E 7 (s.rx a)
      | some (g, v) =>
        let B := s.rx b
        let gives := fun (n : Nat) => Delivers s t d (BitVec.ofNat 64 n) 1 ∧ Passes s t 1 []
        if sel = 0 then gives (v.res + 256 * if v.state = 2 then v.withStatus [1] else 0)
        else if sel = 1 then gives (v.members.length - v.withStatus [0])
        else if sel = 2 then gives v.nrep
        else if sel = 3 then gives (if v.deadline = 0 then 0 else v.deadline + v.pauseNow s.ptc)
        else if B = BitVec.allOnes 64 then
          (match s.task.group with
           | some (h, i) => if h = g then gives i else Traps s t 0x0E 6 (s.rx a)
           | none => Traps s t 0x0E 6 (s.rx a))
        else if v.members.length ≤ B.toNat then Traps s t 0x0E 8 B
        else gives ((v.member B.toNat).status + 256 * (if (v.member B.toNat).ended then 1 else 0) + 65536 * (v.member B.toNat).view))

/-- 13 R339, R343 to R345, R347 to R349: the group unit. The deadline resolves an open group: members that have not reported take
status 5, and statistics and statuses are written; a report takes effect on a member without a status, by the class of its value;
an ended member takes its status, and its view goes; a cancellation ends its target and is answered; waiting tasks go on. -/
def Obligations.GroupEvents : Prop := ∀ s g, ∀ v, v = s.group g →
  (v.state ≠ 1 → exec (.groupDeadline g) s = .next s) ∧
  (v.state = 1 → ∃ t, exec (.groupDeadline g) s = .next t ∧
    (∀ c ∈ v.cancels, c.2.2 ≤ s.ptc → SMap.has s.tasks c.1 = true → (t.taskAt c.1).answer = some 0) ∧
    ∃ w, (if ∀ m ∈ v.members, m.ended = true then SMap.has t.groups g = false else t.group g = w) ∧
    let st := groupStats (w.members.map fun m => (m.status, m.reward)) (v.field 1 1) (BitVec.ofNat 32 (v.field 4 4))
    w.state = 2 ∧ w.resTick = s.ptc ∧ w.reports = [] ∧ w.pause = v.pauseNow s.ptc ∧ w.pausedAt = none ∧
    w.members.length = v.members.length ∧
    (∀ i < v.members.length, (w.member i).status = (if (v.member i).status = 0 then 5 else (v.member i).status) ∧
      (w.member i).reward = (v.member i).reward ∧ (w.member i).view = (v.member i).view) ∧
    w.res = 3 + st.flags ∧ w.mean = st.mean ∧ w.sigma = st.sigma ∧
    (∃ l, t.turn = s.turn ++ l ++ [(s.cur, .event (.gwaitRelease g))]) ∧
    ((∀ i < v.members.length, (recField (s.recordAt v.queue (v.firstSub + i)) 0x0E 1).testBit 1 = false) →
      DeviceWrites s t v.ctx [(v.field 0x18 8, st.advs.flatMap fun x => leBytes 4 x.toNat),
        (v.field 0x20 8, w.members.flatMap fun m => leBytes 1 m.status), (v.va.toNat + 0x40, w.hwBytes s.ptc)])) ∧
  (∀ (l : List (Nat × BitVec 32)) n eps, let st := groupStats l n eps
    let valid := (l.filter fun p => p.1 == 1).length
    (valid < 2 ∨ valid < n → st.flags = 8 ∧ st.mean = 0 ∧ st.sigma = 0 ∧ ∀ i, st.advs.getD i 0 = 0) ∧ st.advs.length = l.length ∧
    (∀ i, (l.getD i (0, 0)).1 ≠ 1 → st.advs.getD i 0 = 0) ∧
    (2 ≤ valid → n ≤ valid →
      let sum := fun (x y : BitVec 64) => rne64 ((dp x).add (dp y))
      let less := fun (x y : BitVec 64) => rne64 ((dp x).add (dp y).negate)
      let quot := fun (x y : BitVec 64) => rne64 ((dp x).div (dp y))
      let r := ((l.filter fun p => p.1 == 1).map fun p => rne64 (fp p.2))
      let m := rne64 (Fp.ofInteger valid)
      let d := r.map fun x => less x st.mean
      let v := quot ((d.map fun x => rne64 ((dp x).mul (dp x))).foldl sum 0) m
      let t := sum st.sigma (rne64 (fp eps))
      st.mean = quot (r.foldl sum 0) m ∧
      (if (dp v).eqIeee (dp 0) = true then st.flags = 4 ∧ st.sigma = 0 ∧ ∀ i, st.advs.getD i 0 = 0
       else st.flags = 0 ∧ st.sigma = rne64 (specSqrt (dp v)) ∧
         ∀ i x, l[i]? = some (1, x) → (∃ neg k e, fp x = .fin neg k e) → st.advs.getD i 0 = rne32 (dp (quot (less (rne64 (fp x)) st.mean) t))))) ∧
  (∀ i, (∀ r ∈ v.reports, r.1 ≠ i) → exec (.groupReportApply g i) s = .next s) ∧
  (∀ i k r tick, v.reports.find? (fun r => r.1 == i) = some (k, r, tick) → i < v.members.length →
    ∃ t, exec (.groupReportApply g i) s = .next t ∧
      let w := t.group g
      let code := if r.toNat / 2 ^ 23 % 256 = 255 then (if r.toNat % 2 ^ 23 = 0 then 3 else 2) else 1
      t.tasks = s.tasks ∧ (∀ x, x ∈ w.reports ↔ x ∈ v.reports ∧ x.1 ≠ i) ∧
      if v.state ≠ 1 ∨ (v.member i).status ≠ 0 then SameMemory s t ∧ w.members = v.members ∧ w.nrep = v.nrep
      else w.members = v.members.set i { v.member i with status := code, reward := r } ∧ w.nrep = v.nrep + 1 ∧
        DeviceWrites s t v.ctx [(v.field 0x10 8 + 4 * i, leBytes 4 r.toNat), (v.field 0x20 8 + i, leBytes 1 code),
          (v.va.toNat + 0x40, w.hwBytes s.ptc)]) ∧
  (∀ i, v.members.length ≤ i ∨ (v.member i).ended = true → exec (.groupMemberEnd g i) s = .next s) ∧
  (∀ i, i < v.members.length → (v.member i).ended = false → ∃ t, exec (.groupMemberEnd g i) s = .next t ∧
    let m := v.member i
    let code := if m.ending = some .retired then 7 else if m.ending = some .faulted then 6 else 4
    let m' := { m with ended := true, ending := none, status := if m.status = 0 ∧ v.state = 1 then code else m.status }
    let all := ∀ x ∈ v.members.set i m', x.ended = true
    (∀ h, h ≠ g → t.group h = s.group h) ∧
    ∃ v', v' = { v with members := v.members.set i m', nend := v.nend + 1, pause := v'.pause, pausedAt := v'.pausedAt } ∧
      v'.pauseNow s.ptc = v.pauseNow s.ptc ∧ (all → v'.pausedAt = none) ∧ (v.pausedAt.isSome = true → ¬all → v'.pausedAt = v.pausedAt) ∧
      (if v.state = 2 ∧ all then
        SMap.has t.groups g = false ∧
        ∀ k, t.taskAt k = if (v.cancels.any fun c => c.1 == k) = true ∧ SMap.has s.tasks k = true then { s.taskAt k with answer := some 0 }
          else s.taskAt k
      else t.group g = v' ∧ t.tasks = s.tasks) ∧
      ∃ s0, SameMemorySystem s s0 ∧ ∀ view pa, t.readView view pa =
        if view = m.view ∧ view ≠ 0 then t.readView 0 pa
        else (s0.putMem' v.ctx (v.va.toNat + 0x40) (v'.hwBytes s.ptc)).readView view pa) ∧
  (s.nextCancel v = none → exec (.groupCancelApply g) s = .next s) ∧
  (∀ c, s.nextCancel v = some c → ∃ t, exec (.groupCancelApply g) s = .next t ∧ c ∉ (t.group g).cancels ∧
    ((∀ i, i < v.members.length ∨ c.2.1 = some i → (recField (s.recordAt v.queue (v.firstSub + i)) 0x0E 1).testBit 1 = false) →
      DeviceWrites s t v.ctx [(v.va.toNat + 0x40, (t.group g).hwBytes s.ptc)]) ∧
    (SMap.has s.tasks c.1 = true → ∃ n, (t.taskAt c.1).answer = some n ∧
      n ≤ match c.2.1 with | none => v.members.length | some _ => 1) ∧
    ∀ i k u, c.2.1 = some i → s.tasks.find? (fun p => p.2.group == some (g, i) && !p.2.cancelling && p.2.lives) = some (k, u) →
      s.taskAt k = u → EndsCancelled (t.taskAt k) u ∧ (SMap.has s.tasks c.1 = true → (t.taskAt c.1).answer = some 1) ∧
      (v.state = 1 → i < v.members.length → (v.member i).status = 0 → ((t.group g).member i).status = 4)) ∧
  (∃ t, exec (.gwaitRelease g) s = .next t ∧ t = { s with tasks := t.tasks } ∧
    ∀ i, t.taskAt i = if (s.taskAt i).wait = .group g false then { s.taskAt i with wait := .none } else s.taskAt i)

/-- 12 R324 to R327, R329, R330: SNAP opens a level of a range, ACCEPT closes its innermost level, leaves memory as it is and gives the
shadows that the level below has not got to that level, REJECT brings every saved line back and leaves the others, SNAPQ reads a range
slot; a handle that names none of the view's open levels is a snapshot error. A failed store is observed behind these checks
(notes/assumptions/38.md). -/
def Obligations.Snapshots : Prop := ∀ s, s.timed = false →
  (∀ d a b, ∃ t, exec (.snap d a b) s = .next t ∧
    let B := s.rx a
    let n := (s.rx b).toNat
    if B.toNat % 0x10000 ≠ 0 ∨ n % 0x10000 ≠ 0 ∨ n = 0 ∨ 2 ^ 40 < n ∨ 2 ^ 56 < B.toNat + n then Traps s t 0x0F 1 B
    else match s.snapSlot B.toNat n with
      | .error e => Traps s t e.cause e.sub e.tval
      | .ok (k, r) =>
        r.base = B.toNat ∧ r.length = n ∧ r.view = s.task.viewId ∧ r.depth ≠ 8 ∧
        AfterDone s t s.pkgDone (
          SameMemory s t ∧ Leveled s t d (BitVec.ofNat 64 (k + 16 * (r.depth + 1))) k (r.depth + 1) ∧ t.versions = s.versions ∧
          let r' := (t.ctx s.task.ctx).range k
          r'.base = r.base ∧ r'.length = r.length ∧ r'.view = r.view ∧ r'.extent = r.extent ∧ SMap.get 0 r'.lines (r.depth + 1) = 0)) ∧
  (∀ i d a back, (i = .accept d a ∧ back = false) ∨ (i = .reject d a ∧ back = true) → ∃ t, exec i s = .next t ∧
    let h := s.rx a
    let k := h.toNat % 16
    let r := (s.ctx s.task.ctx).range k
    if h.toNat / 256 ≠ 0 ∨ r.depth = 0 ∨ h.toNat / 16 % 16 ≠ r.depth then Traps s t 0x0F 6 h
    else if r.view ≠ s.task.viewId then Traps s t 0x0F 7 h
    else AfterDone s t s.pkgDone (
      Leveled s t d (BitVec.ofNat 64 (r.depth - 1)) k (r.depth - 1) ∧ t.shadowsAt r r.depth = [] ∧
      (back = false → SameMemory s t ∧
        (∀ w ∈ s.shadowsAt r r.depth, s.version w.line w.view r.depth = some w →
          t.version w.line w.view (r.depth - 1) =
            if r.depth = 1 ∨ (s.version w.line w.view (r.depth - 1)).isSome = true then s.version w.line w.view (r.depth - 1)
            else some { w with level := r.depth - 1 }) ∧
        (1 < r.depth → SMap.get 0 ((t.ctx s.task.ctx).range k).lines (r.depth - 1) = SMap.get 0 r.lines (r.depth - 1) +
          ((s.shadowsAt r r.depth).filter fun w => w.content.isSome && (s.version w.line w.view (r.depth - 1)).isNone).length)) ∧
      (back = true →
        (s.shadowsAt r r.depth = [] → SameMemory s t) ∧
        (r.view = 0 → ∀ w m, s.shadowsAt r r.depth = [w] → w.content = some m → StoresBytes s t 0 (w.line * 128) (takeBytes m 0 128)) ∧
        ((∀ d ∈ s.dies, d.2.remaps = []) →
          (∀ view pa, view < 0x10000 → (∀ w ∈ s.shadowsAt r r.depth, w.line ≠ pa / 128) → t.readView view pa = s.readView view pa) ∧
          ∀ w ∈ s.shadowsAt r r.depth, (∀ x ∈ s.shadowsAt r r.depth, x.line = w.line → x = w) →
            ∀ j < 128, t.readView r.view (w.line * 128 + j) =
              match w.content with
              | some m => SMap.get 0 m j
              | none => if r.view = 0 then 0 else t.readView 0 (w.line * 128 + j))))) ∧
  (∀ d a (sel : BitVec 7), ∃ t, exec (.snapq d a sel) s = .next t ∧
    let h := s.rx a
    let x := s.ctx s.task.ctx
    let r := x.range (h.toNat % 16)
    let gives := fun (n : Nat) => Delivers s t d (BitVec.ofNat 64 n) 1 ∧ Passes s t 1 []
    if sel = 0 then gives r.depth
    else if sel = 3 then gives (s.usage s.task.ctx)
    else if sel = 4 then gives x.quota
    else if h.toNat / 256 ≠ 0 ∨ r.depth = 0 then Traps s t 0x0F 6 h
    else if r.view ≠ s.task.viewId then Traps s t 0x0F 7 h
    else gives (if sel = 1 then r.base else if sel = 2 then r.length else SMap.get 0 r.lines r.depth))

/-! ### Translation, storage and retirement (11, 14, 17) -/

/-- 11 R313 to R315, 05 R177, 12 R322, R334: a flush discards a context's kept translations at once, gives what has not been sent the
translation of the page table as it is now, and is complete when no access holds another one and every store has performed at system
agent scope (notes/assumptions/16.md); a resolution edits the page table, where a write of firmware waits like any other, and flushes; an
unresolvable fault aborts a frozen region with the fault of its late item, and waits for the item's cycle in another one
(notes/assumptions/28.md). A migration copies a granule line by line from where it stands to storage that nothing reads through yet; when
every line is copied it flips, and the granule is read from its target; the clean-up frees the entry at one tick: every TLB is empty, and
what goes by the old address goes by the new one (notes/assumptions/65.md). -/
def Obligations.TranslationAndMigration : Prop :=
  (∀ s,
    (∀ c, ∃ t, exec (.translationFlush c) s = .next t ∧ (t.ctx c).tlb = [] ∧
      let s1 := ((s.flush c).retranslateAll c).ownSealed c (sealedRanges s 9 (s.ctx c).ptroot)
      (if s1.staleHeld c = true ∨ ∃ x ∈ t.copies, x.dirty ≠ 0 then
        (t.ctx c).flushing = true ∧ ∃ n, s.ptc < n ∧ (n, .translationFlush c) ∈ t.inbox
      else (t.ctx c).flushing = false) ∧
      ((∀ x ∈ s.copies, x.dirty = 0) → SameMemory s t) ∧
      (∀ i, (t.taskAt i).region = (s.taskAt i).region ∨ ∃ z, (s.taskAt i).region.freeze = some z ∧
        (t.taskAt i).region = { (s.taskAt i).region with freeze := some { z with lastLand := s.ptc } }) ∧
      ∀ i k, (s.taskAt i).ctx = c → ∀ e ∈ (SMap.get {} (t.taskAt i).cores k).loads, e.value = none → e.sent = none → e.cls ≠ 4 →
        let u := { s.flush c with cur := { task := i, core := k } }
        ∀ p pa attr, e.tr = some p → translateAs u u.agent e.va.toNat .read = .ok pa attr → p = (pa, attr)) ∧
    (∀ c edit, ∃ t, exec (.translationFaultResolve c edit) s = .next t ∧
      if s.editLocked edit = true ∨ (s.editShort edit).isSome = true then
        SameMemory s t ∧ t.tasks = s.tasks ∧ ∃ n, s.ptc < n ∧ (n, .translationFaultResolve c edit) ∈ t.inbox
      else
        (t.ctx c).tlb = [] ∧ (edit = [] → exec (.translationFlush c) s = .next t) ∧
        ((∀ x ∈ s.copies, x.dirty = 0) → ∀ pa v, edit = [(pa, v)] → pa % 8 = 0 → s.foreign c pa = false →
          StoresBytes s t 0 pa (leBytes 8 v.toNat))) ∧
    (∀ i f, f = { s with cur := { task := i } } →
      (f.region.active = false → exec (.translationFaultUnresolvable i) s = .next s) ∧
      (f.region.active = true → ∃ t, exec (.translationFaultUnresolvable i) s = .next t ∧
        match f.region.freeze, f.stuckFault with
        | some _, some (x, k, pc) =>
          FaultsTask f t k ⟨BitVec.ofNat 64 (256 * x.cause + x.sub), pc, x.tval, some f.rt, k, true, false, (f.coreAt k).handler⟩
        | _, _ => t = { s with tasks := t.tasks } ∧ t.taskAt i = { s.taskAt i with region := { f.region with declared := true } } ∧
            ∀ j, j ≠ i → t.taskAt j = s.taskAt j))) ∧
  (∀ s g,
    (∀ target, ∀ r : Remap, r = (match s.remap (g * 0x10000) with
        | some x => if x.flipped = true then ⟨g, x.target, target, 0, false⟩ else x
        | none => ⟨g, g, target, 0, false⟩) →
      Config.deviceStorage (g * 0x10000) = true → Config.deviceStorage (target * 0x10000) = true →
      (512 ≤ r.copied → exec (.migrationCopy g target) s = .next s) ∧
      (r.copied < 512 →
        ((s.remap (g * 0x10000)).isSome = true ∨ (s.die (Config.paDie (g * 0x10000))).remaps.length < 4096) →
        s.hedgeOk 0 (r.target * 512 + r.copied) 0 = true → ∃ t, exec (.migrationCopy g target) s = .next t ∧ t.tasks = s.tasks ∧
          let to' := r.target * 0x10000 + 128 * r.copied
          t.remap (g * 0x10000) = some { r with copied := r.copied + 1 } ∧ (∀ x, t.storage x = s.storage x) ∧
          ∀ x, SMap.get 0 t.mem x =
            if to' ≤ x ∧ x < to' + 128 then s.readPa (g * 0x10000 + 128 * r.copied + (x - to')) else SMap.get 0 s.mem x)) ∧
    (s.remap (g * 0x10000) = none → exec (.migrationFlip g) s = .next s ∧ ∀ edit, exec (.migrationCleanup g edit) s = .next s) ∧
    (∀ r, s.remap (g * 0x10000) = some r →
      (r.copied < 512 → exec (.migrationFlip g) s = .next s) ∧
      (512 ≤ r.copied → ∃ t, exec (.migrationFlip g) s = .next t ∧ t = { s with dies := t.dies } ∧
        (∀ x < 0x10000, t.storage (g * 0x10000 + x) = r.target * 0x10000 + x) ∧
        ∀ x, x / 0x10000 ≠ g → t.storage x = s.storage x) ∧
      (r.flipped = false → ∀ edit, exec (.migrationCleanup g edit) s = .next s) ∧
      (r.flipped = true → ∀ edit, ∃ t, exec (.migrationCleanup g edit) s = .next t ∧
        if (s.evictWaits g (Config.paDie (r.target * 0x10000))).isSome = true ∨ s.editLocked edit = true ∨
            (s.editShort edit).isSome = true then
          SameMemory s t ∧ t.tasks = s.tasks ∧ t.remap (g * 0x10000) = some r ∧
          ∃ n, s.ptc < n ∧ (n, .migrationCleanup g edit) ∈ t.inbox
        else
          t.remap (g * 0x10000) = none ∧ (∀ c, (t.ctx c).tlb = []) ∧
          (r.target ≠ g →
            (∀ p ∈ t.groups, p.2.pa / 0x10000 ≠ g) ∧ (∀ v ∈ t.versions, v.line / 512 ≠ g) ∧ (∀ l ∈ t.poison, l / 512 ≠ g) ∧
            ∀ p ∈ t.tasks, ∀ k ∈ p.2.cores, (∀ e ∈ k.2.loads, ∀ x, e.tr = some x → x.1 / 0x10000 ≠ g) ∧
              (∀ e ∈ k.2.stores, ∀ x, e.tr = some x → x.1 / 0x10000 ≠ g) ∧ ∀ e ∈ k.2.ranges, ∀ x ∈ e.pages, x.2.1 / 0x10000 ≠ g) ∧
          (edit = [] → (∀ k ∈ s.copies, k.die = Config.paDie (r.target * 0x10000) → k.line / 512 = g → k.dirty = 0) →
            t.mem = s.mem ∧ (s.remap (r.target * 0x10000) = none →
              ∀ x < 0x10000, t.readPa (r.target * 0x10000 + x) = s.readPa (g * 0x10000 + x))))))

/-- 14 R353 to R355, R357, R358, 17 R382 to R386, 12 R334: a retired slice serves no bucket any more, a spare takes all of its buckets
while one is left, and the retirement is logged; a request that meets an old map is sent again to the place that it hashes to now, a
range's too; an evicted copy brings its dirty bytes home, unless a write holds its line there or the write-back finds no Hedgerow line;
errors are logged (notes/assumptions/26.md) and poison their place, or freeze the chain whose link slot they strike; retirements are
logged (notes/assumptions/46.md), and one without a spare asks for a replacement. -/
def Obligations.SlicesAndErrors : Prop := ∀ s,
  (∀ d k, let spares := resetSpares d (s.die d).fusedSlices
    (k ∈ (s.die d).retiredSlices ∨ k ∈ fuseRetired d ∨ Config.slices d + 2 ≤ k → exec (.sliceRetire d k) s = .next s) ∧
    (k ∉ (s.die d).retiredSlices → k ∉ fuseRetired d → k < Config.slices d + 2 → ∃ t, exec (.sliceRetire d k) s = .next t ∧
      SameMemory s t ∧ t.tasks = s.tasks ∧ k ∈ (t.die d).retiredSlices ∧ (t.die d).smgen = ((s.die d).smgen + 1) % 2 ^ 32 ∧
      (∀ b < 4096, (s.sliceOf d b ≠ k → t.sliceOf d b = s.sliceOf d b) ∧
        (s.sliceOf d b = k → (∃ c < 4096, s.sliceOf d c ≠ k) → t.sliceOf d b ≠ k)) ∧
      ((∃ i ∈ spares, i ≠ k ∧ i ∉ (s.die d).retiredSlices ∧ ∀ b < 4096, s.sliceOf d b ≠ i) →
        RasLogged s t { type := 6, unit := 2, flags := 4, die := d, index := k } ∧ t.replReq = s.replReq ∧
        ∃ j ∈ spares, ∀ b < 4096, s.sliceOf d b = k → t.sliceOf d b = j) ∧
      ((∀ i ∈ spares, i ≠ k → i ∉ (s.die d).retiredSlices → ∃ b < 4096, s.sliceOf d b = i) → t.replReq = true))) ∧
  (∀ i k seq, ∃ t again, exec (.remapResponse i k seq) s = .next t ∧ SameMemory s t ∧ s.ptc < again ∧ t.cur = s.cur ∧
    (∀ j, j ≠ i → t.taskAt j = s.taskAt j) ∧
    let u := { s with cur := { task := i, core := k } }
    let c := SMap.get {} (s.taskAt i).cores k
    t.taskAt i = { s.taskAt i with cores := SMap.put (s.taskAt i).cores k { c with
      loads := c.loads.map fun e => if e.seq = seq ∧ e.value = none ∧ u.hashStale e.tr e.hash = true then
        { e with at' := again, hash := u.hashNow e.tr } else e
      stores := c.stores.map fun e => if e.seq = seq ∧ u.hashStale e.tr e.hash = true then
        { e with at' := again, hash := u.hashNow e.tr } else e
      ranges := c.ranges.map fun e => if e.seq = seq ∧ u.rangeStale e = true then { e with at' := again, hash := u.hashRange e } else e } }) ∧
  (∀ d line, ∃ t, exec (.copyEviction d line) s = .next t ∧ t.tasks = s.tasks ∧
    if s.locked line (0, 2 ^ 32, 0) = true then t = s
    else if s.writeBackOk d line = true then
      t.copyOf d line = none ∧ (s.copyOf d line = none → SameMemory s t) ∧
      ∀ c, s.copyOf d line = some c → (c.dirty = 0 → SameMemory s t) ∧
        ∀ j < 128, t.readView 0 (line * 128 + j) = if c.dirty.getLsbD j then SMap.get 0 c.bytes j else s.readView 0 (line * 128 + j)
    else SameMemory s t ∧ t.copies = s.copies ∧ ∀ x, s.hedgeShort 0 line 0 = some x → (t.ctx x).asked = true) ∧
  (∀ p, ∃ t, exec (.correctableError p) s = .next t ∧ SameMemory s t ∧ t.tasks = s.tasks ∧
    RasLogged s t { s.rasOf p with type := 1 }) ∧
  (∀ p consumed, ∃ t, exec (.uncorrectableError p consumed) s = .next t ∧ SameMemory s t ∧
    RasLogged s t { s.rasOf p with type := 2, flags := if s.fetchedAhead p consumed then 1 else if consumed then 2 else 3 } ∧
    (∀ pa, p = .line pa → t.poisoned 0 pa = true) ∧
    (∀ d pa c, p = .copy d pa → s.copyOf d (pa / 128) = some c → t.copyOf d (pa / 128) = some { c with poison := true }) ∧
    (∀ i k n q, p = .pending i k n → SMap.has s.tasks i = true → ((s.taskAt i).region.agenda.filter fun q => q.core == k)[n]? = some q →
      q.seq ∈ (t.taskAt i).region.badPend) ∧
    (∀ i k, SMap.has s.tasks i = true → SMap.has (s.taskAt i).cores k = true →
      let c0 := SMap.get {} (s.taskAt i).cores k
      let c := SMap.get {} (t.taskAt i).cores k
      (∀ a, p = .scratch i k a → a / 64 ∈ c.scratchPoison) ∧
      (∀ o, p = .code i k o → if (s.taskAt i).region.active = true then o / 4 ∈ c.codePoison
        else if consumed = true then 0x10000 + o / 4 ∈ c.codePoison else c = c0) ∧
      (∀ r, p = .reg i k r → r ≠ 0 → r.toNat ∈ c.regPoison) ∧ (∀ e r, p = .gridReg i k e r → 64 * e + r ∈ c.gridPoison) ∧
      (∀ n e, p = .loadEntry i k n → c0.loads[n]? = some e → e.seq ∈ c.queuePoison) ∧
      (∀ n e, p = .storeEntry i k n → (c0.stores.filter fun e => !e.isMark)[n]? = some e → e.seq ∈ c.storePoison) ∧
      ∀ u n, p = .formatEntry i k u n → n < (c0.arr u).fq.length → n ∈ (c.arr u).fqBad) ∧
    (∀ i k n, p = .link i k n ∨ p = .incoming i k n ∨ p = .residual i k n →
      let l := (SMap.get {} (s.taskAt i).cores k).link n
      t.turn = (match l.role with
        | .unbuilt => []
        | .hop => [({ task := i, core := k }, .event (.chainFreeze l.chain l.hop 1))]
        | .residual => [({ task := i, core := k }, .event (.chainFreeze l.chain l.hop 3))]) ++ s.turn)) ∧
  (∀ r, ∃ t, exec (.resourceRetire r) s = .next t ∧ SameMemory s t ∧ t.tasks = s.tasks ∧
    match r with
    | .core d c =>
      if c ∈ (s.die d).retiredCores then t = s
      else
        (t.die d).retiredCores = c :: (s.die d).retiredCores ∧
        (∀ p ∈ s.tasks, (∃ x ∈ p.2.places, SMap.get x.2.1 p.2.dies x.2.1 = d ∧ x.2.2 = c) → (s.ptc, .preemptionRequest p.1) ∈ t.inbox) ∧
        if (s.die d).retiredCores.length < Config.spareCores d then
          RasLogged s t { type := 6, unit := 9, flags := 4, die := d, index := c } ∧ t.replReq = s.replReq
        else t.replReq = true
    | .linkSlot d c i =>
      let n := SMap.get 0 (s.die d).retiredLinks c
      if n < 16 then
        SMap.get 0 (t.die d).retiredLinks c = n + 1 ∧ RasLogged s t { type := 6, unit := 4, flags := 4, die := d, index := i }
      else exec (.resourceRetire (.core d c)) s = .next t
    | .slice d k => if s.sliceGone d k = true then t = s else t.turn = (s.cur, .event (.sliceRetire d k)) :: s.turn
    | .hbmChannel d k =>
      if k ∈ (s.die d).retiredMemory then t = s
      else (t.die d).retiredMemory = k :: (s.die d).retiredMemory ∧
        if Config.channelSpare d k (s.die d).retiredMemory = true then RasLogged s t { type := 6, unit := 1, flags := 4, die := d, index := k }
        else t.replReq = true
    | .gddrRegion d k =>
      if k ∈ (s.die d).retiredMemory then t = s else (t.die d).retiredMemory = k :: (s.die d).retiredMemory ∧ t.replReq = true)

/-! ### The host, trust, links and the package (18) -/

/-- 11 R317, 18 R387, R388, R390, R391, R399, 12 R334, 14 R354, 17 R382: the memory window ends at 2^48; a host read waits behind writes of
its function and for lines that are locked, and gives the bytes of view 0, or all ones and an entry in the log
where the page is sealed, the granule is another context's, or the line is poisoned; a host or peer write performs in view 0, behind
those of its origin that wait; an MSI-X message, with its vector's address and data, leaves once per 2^12 ticks, and not while its
vector is masked. -/
def Obligations.HostAccess : Prop := ∀ s,
  (∀ fn va n, ∃ t, exec (.hostMemoryRead fn va n) s = .next t ∧ SameMemory s t ∧ t.tasks = s.tasks ∧
    (64 ≤ fn ∨ 2 ^ 48 < va + n → t = { s with outbox := s.outbox ++ [.hostError fn] }) ∧
    (fn < 64 → va + n ≤ 2 ^ 48 → s.hostWaits fn va n = true →
      ∃ k, s.ptc < k ∧ t = { s with inbox := s.inbox ++ [(k, .hostMemoryRead fn va n)], fresh := s.fresh + 1 }) ∧
    (fn < 64 → va + n ≤ 2 ^ 48 → s.hostWaits fn va n = false → 0 < n → va % 128 + n ≤ 128 →
      match translate s fn va .read with
      | .ok pa attr =>
        let gives := fun (bytes : List Byte) => t.outbox = s.outbox ++ [.hostData bytes]
        let ones := List.replicate n 0xFF
        if (attr.testBit 9 = true ∧ s.trusted fn = false) ∨ s.foreign fn pa = true then
          gives ones ∧ RasLogged s t { type := 4, unit := 1, die := Config.paDie pa, pa := pa, va := va, ctx := fn, fn := fn }
        else if inRanges s.deadKey pa = true then gives ones ∧ t.dies = s.dies
        else if s.poisoned 0 pa = true then
          gives ones ∧ RasLogged s t { type := 3, unit := 1, die := Config.paDie pa, pa := pa, va := va, ctx := fn, fn := fn }
        else gives ((List.range n).map fun i => s.readView 0 (pa + i)) ∧ t.dies = s.dies
      | _ => t.outbox = s.outbox ++ [.hostError fn] ∧
          RasLogged s t { type := 4, unit := 1, die := 0, va := va, ctx := fn, fn := fn })) ∧
  (∀ fn va bytes, ∃ t, exec (.hostMemoryWrite fn va bytes) s = .next t ∧ t.tasks = s.tasks ∧
    if 64 ≤ fn ∨ 2 ^ 48 < va + bytes.length then t = s
    else match s.sealedIn fn va bytes.length with
    | some a => SameMemory s t ∧ RasLogged s t { type := 4, unit := 1, die := 0, va := a, ctx := fn, fn := fn }
    | none => OutsideWritten s t ⟨fn, fn, va, bytes, false⟩) ∧
  (∀ c va bytes, ∃ t, exec (.peerTransfer c va bytes) s = .next t ∧ t.tasks = s.tasks ∧ OutsideWritten s t ⟨c, 256, va, bytes, false⟩) ∧
  (∀ fn vec, ∃ t, exec (.msixMessage fn vec) s = .next t ∧
    let f := s.fn fn
    if vec ∈ f.msixPending ∧ vec ∉ f.masked ∧ ((f.lastMsg.find? fun p => p.1 == vec).all fun p => decide (p.2 + 4096 ≤ s.ptc)) = true then
      t = { s with fns := t.fns, outbox := s.outbox ++ [.msix fn vec (SMap.get (0, 0) f.msgs vec)] } ∧ (∀ x, x ∈ (t.fn fn).msixPending ↔ x ∈ f.msixPending ∧ x ≠ vec) ∧
      SMap.get 0 (t.fn fn).lastMsg vec = s.ptc ∧ (∀ g, g ≠ fn → t.fn g = s.fn g)
    else t = s)

/-- 18 R392, R395, R396: the responder of a transport. A request of another version than 1.3 is answered with an error. A connection is
negotiated in three requests; then digests, certificates, measurements and challenges are answered; a session is keyed, finished, and
ended, and only an established one programs or ends an IDE stream, of which a port has at most 64. Codes and layouts are the model's
(notes/assumptions/13.md). -/
def Obligations.Attestation : Prop := ∀ s rq, ∀ tr r, tr = rq.tr → r = s.responder tr →
  (∃ t, exec (.getVersion rq) s = .next t ∧
    if rq.version = 0x10 then SpdmAnswers s t tr 4 [0x00, 0x13] ∧ t.responder tr = { versioned := true }
    else SpdmAnswers s t tr 0x7F [0x41] ∧ t.spdm = s.spdm) ∧
  (rq.version ≠ 0x13 → ∀ i, (i = .getCapabilities rq ∨ (∃ a b c d, i = .negotiateAlgorithms rq a b c d) ∨ i = .getDigests rq ∨
      (∃ slot off len, i = .getCertificate rq slot off len) ∨ (∃ slot n, i = .challenge rq slot n) ∨ (∃ n, i = .getMeasurements rq n) ∨
      (∃ slot, i = .keyExchange rq slot) ∨ (∃ id, i = .finish rq id) ∨ (∃ id, i = .heartbeat rq id) ∨ (∃ id, i = .endSession rq id) ∨
      (∃ id fn op, i = .ideKm rq id fn op) ∨ ∃ id fn to', i = .tdispRequest ⟨rq, id, fn⟩ to') →
    ∃ t, exec i s = .next t ∧ SpdmAnswers s t tr 0x7F [0x41] ∧ t.spdm = s.spdm ∧ t.fns = s.fns) ∧
  (rq.version = 0x13 →
  (∃ t, exec (.getCapabilities rq) s = .next t ∧
    if r.versioned = true then SpdmAnswers s t tr 0x61 [] ∧ t.responder tr = { r with capable := true }
    else SpdmAnswers s t tr 0x7F [4] ∧ t.spdm = s.spdm) ∧
  (∀ a b c d, ∃ t, exec (.negotiateAlgorithms rq a b c d) s = .next t ∧
    if r.capable = true ∧ a = true ∧ b = true ∧ c = true ∧ d = true then
      SpdmAnswers s t tr 0x63 [] ∧ t.responder tr = { r with negotiated := true }
    else SpdmAnswers s t tr 0x7F [if r.capable = true then 1 else 4] ∧ t.spdm = s.spdm) ∧
  (r.negotiated = false → ∀ i, (i = .getDigests rq ∨ (∃ slot off len, i = .getCertificate rq slot off len) ∨
      (∃ slot n, i = .challenge rq slot n) ∨ (∃ n, i = .getMeasurements rq n) ∨ ∃ slot, i = .keyExchange rq slot) →
    ∃ t, exec i s = .next t ∧ SpdmAnswers s t tr 0x7F [4] ∧ t.spdm = s.spdm) ∧
  (r.negotiated = true →
    (∃ t, exec (.getDigests rq) s = .next t ∧ t.spdm = s.spdm ∧
      SpdmAnswers s t tr 1 (sha512 (Config.certChain 0) ++ sha512 (Config.certChain 1))) ∧
    (∀ slot off len, ∃ t, exec (.getCertificate rq slot off len) s = .next t ∧ t.spdm = s.spdm ∧
      if slot < 2 then SpdmAnswers s t tr 2 (((Config.certChain slot).drop off).take len) else SpdmAnswers s t tr 0x7F [1]) ∧
    (∀ slot nonce, ∃ t, exec (.challenge rq slot nonce) s = .next t ∧ t.spdm = s.spdm ∧
      let digest := sha512 ((List.range 6).flatMap fun i => s.measurement (i + 1))
      if slot < 2 then
        SpdmAnswers s t tr 3 (sha512 (Config.certChain slot) ++ digest ++
          leBytes 132 (Config.sign slot (leNat (sha512 (leBytes 32 nonce.toNat ++ digest)))).toNat)
      else SpdmAnswers s t tr 0x7F [1]) ∧
    (∀ n, ∃ t, exec (.getMeasurements rq n) s = .next t ∧ t.spdm = s.spdm ∧
      if n = 0 then SpdmAnswers s t tr 0x60 [6]
      else if n = 0xFF then SpdmAnswers s t tr 0x60 ((List.range 6).flatMap fun i => s.measurement (i + 1))
      else if n ≤ 6 then SpdmAnswers s t tr 0x60 (s.measurement n)
      else SpdmAnswers s t tr 0x7F [1]) ∧
    (∀ slot, ∃ t, exec (.keyExchange rq slot) s = .next t ∧
      if 2 ≤ slot then SpdmAnswers s t tr 0x7F [1] ∧ t.spdm = s.spdm
      else if 8 ≤ r.sessions.length then SpdmAnswers s t tr 0x7F [0x0A] ∧ t.spdm = s.spdm
      else ∃ id key, SpdmAnswers s t tr 0x64 (leBytes 4 id ++ key) ∧
        t.responder tr = { r with sessions := (id, false, slot) :: r.sessions })) ∧
  (∀ id, ∃ t, exec (.finish rq id) s = .next t ∧
    if (r.session id).isSome = true then SpdmAnswers s t tr 0x65 [] ∧ ∃ x, (t.responder tr).session id = some x ∧ x.2.1 = true
    else SpdmAnswers s t tr 0x7F [2] ∧ t.spdm = s.spdm) ∧
  (∀ id, ∃ t, exec (.heartbeat rq id) s = .next t ∧ t.spdm = s.spdm ∧
    if ((r.session id).any fun x => x.2.1) = true then SpdmAnswers s t tr 0x68 [] else SpdmAnswers s t tr 0x7F [2]) ∧
  (∀ id, ∃ t, exec (.endSession rq id) s = .next t ∧
    if (r.session id).isSome = true then SpdmAnswers s t tr 0x6C [] ∧ (t.responder tr).session id = none
    else SpdmAnswers s t tr 0x7F [2] ∧ t.spdm = s.spdm) ∧
  (∀ id fn op, ∃ t, exec (.ideKm rq id fn op) s = .next t ∧ t.spdm = s.spdm ∧
    let f := s.fn fn
    let streams : Nat := ((s.fns.filter fun p => Config.portOfFn p.1 == Config.portOfFn fn).map fun p => p.2.ide.length).foldl (· + ·) 0
    if ((r.session id).any fun x => x.2.1) = false then SpdmAnswers s t tr 0x7F [2] ∧ t.fns = s.fns
    else if 67 ≤ fn ∨ (op.bind = true ∧ SMap.has f.ide op.stream = false ∧ 64 ≤ streams) then SpdmAnswers s t tr 0x7F [1] ∧ t.fns = s.fns
    else SpdmAnswers s t tr 0x7E [] ∧ (∀ g, g ≠ fn → t.fn g = s.fn g) ∧ t.fn fn = { f with ide := (t.fn fn).ide } ∧
      SMap.has (t.fn fn).ide op.stream = op.bind ∧
      ∀ k, k ≠ op.stream → SMap.has (t.fn fn).ide k = SMap.has f.ide k ∧ SMap.get 0 (t.fn fn).ide k = SMap.get 0 f.ide k))

/-- 18 R392 to R395, 11 R317, 13 R349: the states of a TDI, between which a request moves it within an established session. Sealing gives
the context's sealed pages an owner, whom alone they serve (notes/assumptions/33.md);
leaving CONFIG_LOCKED or RUN cancels the context's tasks and its queued records; when the last task has ended, its groups are
discarded, and its sealed bytes are gone, in the dies' copies too; a destroyed context leaves no task, group or queue, and what others
keep stays. -/
def Obligations.Trust : Prop := ∀ s c,
  (∀ rq id to', rq.version = 0x13 → ∃ t, exec (.tdispRequest ⟨rq, id, c⟩ to') s = .next t ∧
    let x := s.ctx c
    let answers := fun (code : Nat) (bytes : List Byte) (u : State) => t = { u with outbox := u.outbox ++ [.spdm rq.tr code bytes] }
    if (((s.responder rq.tr).session id).any fun x => x.2.1) = false then answers 0x7F [2] s
    else if c = 0 ∨ 64 ≤ c ∨ x.unlocking = true then answers 0x7F [1] s
    else if (x.tdi = .unlocked ∧ (to' = .locked ∨ to' = .error)) ∨ (x.tdi = .error ∧ to' = .unlocked) ∨
        (x.tdi = .locked ∧ to' = .run ∧ x.isSealed = true ∧ (s.fn c).ide ≠ []) then answers 0x7E [] (s.setCtx c { x with tdi := to' })
    else if (x.tdi = .locked ∨ x.tdi = .run) ∧ (to' = .unlocked ∨ to' = .error) then
      ∃ u, exec (.tdiUnlock c (decide (to' = .error))) s = .next u ∧ answers 0x7E [] u
    else answers 0x7F [1] s) ∧
  (∃ t, exec (.sealContext c) s = .next t ∧
    if c = 0 ∨ 64 ≤ c ∨ (s.ctx c).tdi ≠ .locked ∨ (s.ctx c).isSealed = true then t = s
    else t = { s.setCtx c { s.ctx c with isSealed := true, key := Config.wrappedKey s.fresh } with owners := t.owners, fresh := s.fresh + 1 } ∧
      ∀ k pa, t.foreign k pa = (s.foreign k pa || (decide (k ≠ c) && inRanges (sealedRanges s 9 (s.ctx c).ptroot) pa))) ∧
  (∀ error, ∃ t, exec (.tdiUnlock c error) s = .next t ∧
    let x := s.ctx c
    if x.unlocking = false ∧ x.tdi ≠ .run ∧ x.tdi ≠ .locked then t = s
    else
      (x.unlocking = false →
        (t.ctx c).tdi = (if error then .error else .unlocked) ∧
        (∀ i, SMap.has s.tasks i = true → (s.taskAt i).ctx = c → (s.taskAt i).lives = true → EndsCancelled (t.taskAt i) (s.taskAt i)) ∧
        ∀ p ∈ s.queues, p.2.ctx = c → s.queue p.1 = p.2 → ∀ n, p.2.claimcount < n → n ≤ p.2.subcount →
          n ≤ (t.queue p.1).claimcount ∨ n ∈ (t.queue p.1).cancelled) ∧
      (x.unlocking = true → t.tasks = s.tasks) ∧
      (if (t.tasks.any fun p => p.2.ctx == c) = true then
        (t.ctx c).unlocking = true ∧ ∃ n, s.ptc < n ∧ (n, .tdiUnlock c error) ∈ t.inbox
      else
        (t.ctx c).unlocking = false ∧ (t.ctx c).isSealed = false ∧ (∀ p ∈ t.groups, p.2.ctx ≠ c) ∧ (∀ p ∈ t.owners, p.2.2 ≠ c) ∧
        ∀ pa, (s.owners.any fun o => decide (o.1 ≤ pa) && decide (pa < o.1 + o.2.1) && o.2.2 == c) = true →
          t.readPa pa = 0 ∧ (pa % 128 = 0 → ∀ k ∈ t.copies, k.line * 128 ≠ pa)) ∧
      ((∀ o ∈ s.owners, o.2.2 ≠ c) → (∀ p ∈ s.groups, p.2.ctx ≠ c) →
        (∀ p ∈ s.queues, p.2.ctx = c → ∀ n, (recField (s.recordAt p.1 n) 0x0E 1).testBit 1 = false) → SameMemory s t)) ∧
  (∃ t, exec (.contextDestroy c) s = .next t ∧ t.ctx c = {} ∧ (∀ k, k ≠ c → t.ctx k = s.ctx k) ∧ (∀ p ∈ t.tasks, p.2.ctx ≠ c) ∧
    (∀ p ∈ t.groups, p.2.ctx ≠ c) ∧ (∀ p ∈ t.owners, p.2.2 ≠ c) ∧ (∀ p ∈ t.hostHeld, p.ctx ≠ c) ∧ t.mem = s.mem ∧
    (∀ v ∈ s.versions, v.ctx ≠ c → v.view ∉ s.viewsOf c → v ∈ t.versions) ∧
    ∀ q, t.queue q = if (s.queue q).ctx = c then {} else s.queue q)

/-- 00 R3, 18 R398, R400, R401, 07 R243: a flit is taken if its CRC holds and its number is the next, and is refused with a nak
otherwise; what it carries takes effect by its kind (the kinds' numbers and layouts: notes/assumptions/40.md); a nak sends again, and
after 16 in a row the link fails; the hops in transfer on a failed link, and no others, are declared failed, and
freeze their chains (73.md); training a link anew marks joined regions under way that use it, which end with the slide timeout at the
cycle of the first hop over it that is due, the fault naming the hop's command and core; a counter flit
carries the sender's counter, and says whether a port is aligned (40.md). There are 16 ports. -/
def Obligations.Links : Prop := ∀ s p, ∀ v, v = s.port p →
  (∀ f, ∃ t, exec (.flitReceive p f) s = .next t ∧
    if v.failed = true ∨ 16 ≤ p then t = s
    else if crcBytes f.bytes 0 = f.crc ∧ flitSeq f = v.expectSeq then
      let kind := flitField f 24 4
      t = { s with ports := t.ports, turn := t.turn, inbox := t.inbox } ∧ (∀ q, q ≠ p → t.port q = s.port q) ∧
      t.port p = { v with expectSeq := (v.expectSeq + 1) % 4096, replay := (t.port p).replay, resends := (t.port p).resends } ∧
      (∀ g, g ∈ (t.port p).replay ↔ g ∈ v.replay ∧ 2048 ≤ (flitField f 12 12 + 4096 - flitSeq g) % 4096) ∧
      (t.port p).resends = (if (t.port p).replay.length < v.replay.length then 0 else v.resends) ∧
      t.inbox = s.inbox ++ (if kind = 4 ∨ kind = 5 then [] else
        match flitEvent kind (f.bytes.drop 16) with
        | some i => if linkEvent kind i = true then [(s.ptc, i)] else []
        | none => []) ∧
      t.turn = (if flitField f 24 4 = 4 then [(s.cur, .event (.counterFlitReceive p (leNat ((f.bytes.drop 16).take 8))))]
        else if flitField f 24 4 = 5 then [(s.cur, .event (.nak p (leNat ((f.bytes.drop 16).take 2) % 4096)))] else []) ++ s.turn
    else t = { s with outbox := s.outbox ++ [.nak p v.expectSeq] }) ∧
  (∀ n, ∃ t, exec (.nak p n) s = .next t ∧
    if v.failed = true ∨ 16 ≤ p then t = s
    else if 16 ≤ v.resends then t = { s with turn := (s.cur, .event (.linkFail p)) :: s.turn }
    else t = { s.setPort p { v with resends := v.resends + 1 } with
      outbox := s.outbox ++ (v.replay.filter fun g => decide ((flitSeq g + 4096 - n) % 4096 < 2048)).map (.flit p) }) ∧
  (16 ≤ p → exec (.linkFail p) s = .next s) ∧
  (p < 16 → ∃ t, exec (.linkFail p) s = .next t ∧ (t.port p).failed = true ∧ (∀ q, q ≠ p → t.port q = s.port q) ∧
    ∃ l, t = { s with ports := t.ports, tasks := t.tasks, turn := l ++ s.turn } ∧
      (∀ x ∈ l, ∃ i uid k, x = ({ task := i }, .event (.chainFreeze uid k 2))) ∧
      ∀ i u pre post, s.tasks = pre ++ (i, u) :: post → (∀ x ∈ pre ++ post, x.1 ≠ i) →
        let f : State := { s with cur := { task := i } }
        if f.usesPort p = true then
          (∀ q ∈ u.region.agenda, q.landed = false → ∀ uid k, f.farHop q = some (uid, k, p) →
            ({ task := i }, .event (.chainFreeze uid k 2)) ∈ l ∧ ∀ x ∈ (t.taskAt i).region.agenda, x.seq ≠ q.seq) ∧
          ∀ x ∈ u.region.agenda, (∀ q ∈ u.region.agenda, q.landed = false → (∃ uid k, f.farHop q = some (uid, k, p)) → q.seq ≠ x.seq) →
            x ∈ (t.taskAt i).region.agenda
        else t.taskAt i = u) ∧
  (∀ n, ∃ t, exec (.linkRetrain p n) s = .next t ∧
    if n = 0 ∨ 4095 < n ∨ 16 ≤ p then t = s
    else
      t = { s with ports := t.ports, tasks := t.tasks, fresh := s.fresh + 1 } ∧
      t.port p = { die := v.die, latency := n, slew := v.slew, peer := (t.port p).peer } ∧
      (∀ q, q ≠ p → t.port q = s.port q) ∧
      ∀ i, let u := s.taskAt i
        t.taskAt i = if u.region.active = true ∧ u.region.total ≠ 0 ∧ ((s.ctx u.ctx).join.any fun j => j.ports.contains p) = true then
          { u with region := { u.region with cut := p :: u.region.cut } } else u) ∧
  (∀ x, s.cutHop = some x → s.region.budgetAt.any (fun f => decide (f ≤ s.rt)) = false →
    FaultsTask s (runPhase .cycleOpen s) x.by'
      ⟨0x800, x.pc, BitVec.ofNat 64 s.rt, some s.rt, x.by', true, false, (s.coreAt x.by').handler⟩) ∧
  (match s.cutHop with
    | some x => x ∈ s.region.agenda ∧ x.due = s.rt ∧ ∃ uid k q, s.farHop x = some (uid, k, q) ∧ q ∈ s.region.cut
    | none => ∀ x ∈ s.region.agenda, x.due = s.rt → ∀ uid k q, s.farHop x = some (uid, k, q) → q ∉ s.region.cut) ∧
  (∀ x uid k q, s.farHop x = some (uid, k, q) ↔ ∃ b by' c h h', x.act = .event (.hopPerform uid (k + 1) b by') ∧
    s.region.chain uid = some c ∧ c.hop k = some h ∧ c.hop (k + 1) = some h' ∧
    ((farCore ≤ h.core ∧ h'.core < farCore ∧ (s.linkTo h.core).map (·.port) = some q) ∨
     (h.core < farCore ∧ farCore ≤ h'.core ∧ (s.linkTo h'.core).map (·.port) = some q))) ∧
  (∃ t, exec (.counterFlitSend p) s = .next t ∧ FlitSent s t p 4 (leBytes 8 s.ptc)) ∧
  (∀ n, ∃ t, exec (.counterFlitReceive p n) s = .next t ∧
    let d : Int := n + v.latency - s.ptc
    t = if 16 ≤ p then s else s.setPort p { v with
      aligned := decide (-1 ≤ d ∧ d ≤ 1), slew := if s.upstream = some p ∧ -2 ^ 27 ≤ d ∧ d ≤ 2 ^ 27 then d else 0 })

/-- 05 R159, 12 R336, 18 R404 to R407, 17 R385, R386, 14 R353: a checkpoint opens the system level at one instant, that of a full
checkpoint once every task is saved, drains the memory of that instant through the four host ports, ends with its manifest
(notes/assumptions/39.md), and closes the level; a restore is whole or has no effect, and waits where firmware's writes must; a full
checkpoint pre-empts every task first; a power-on reset keeps what is persistent, and spares take the places of retired slices
(21.md); bring-up goes on step by step, and a failing step has its outcome (7.md); a throttle freezes the regions that run, holds loose
issue and the end of slides, is over when the limits have been kept for 2^16 ticks, and its ticks count as event 0x04 and not against
slidemax; a trip removes the power. -/
def Obligations.CheckpointsAndPower : Prop := ∀ s,
  (∃ t, exec .memoryCheckpoint s = .next t ∧
    if s.checkpoint.isOpen = true ∨ (s.checkpoint.full = true ∧ s.allSaved = false) then t = s
    else ∃ n, s.ptc < n ∧ t = { s with checkpoint := { isOpen := true }, inbox := s.inbox ++ [(n, .checkpointDrainComplete)], fresh := t.fresh }) ∧
  (s.allSaved = true ↔ ∀ p ∈ s.tasks, p.2.state = .saved ∨ p.2.state = .gone ∨ p.2.state = .bound) ∧
  (∃ t, exec .fullCheckpoint s = .next t ∧
    if s.checkpoint.isOpen = true then t = s
    else SameMemory s t ∧ t.checkpoint = { isOpen := false, full := true } ∧
      ∀ i, SMap.has s.tasks i = true → (s.taskAt i).state = .running → (s.taskAt i).region.entering = false →
        let r := (s.taskAt i).region
        if r.active = false then (t.taskAt i).state = .freezing
        else
          let f := if r.freeze.isSome = true then r.rt else r.rt + r.ahead
          (t.taskAt i).region.stopAt = match r.stopAt with
            | none => some (f, .preempt)
            | some (n, why) => some (min n f, if why = .cancel then .cancel else .preempt)) ∧
  (∃ t, exec .checkpointDrainComplete s = .next t ∧
    if s.checkpoint.isOpen = false then t = s
    else t.checkpoint = {} ∧ (∀ view pa, view ≠ systemView → t.readView view pa = s.readView view pa) ∧
      (∀ w ∈ t.versions, w.view ≠ systemView) ∧ t.tasks = s.tasks ∧
      ∃ drained : Nat → List GranuleRecord,
        (∀ p ∈ Config.hostPorts, ∀ r, r ∈ drained p.1 ↔ ∃ g ∈ s.usedGranules, Config.paDie (g * 0x10000) ∈ p.2 ∧ r = s.granuleRecord g) ∧
        let l := Config.hostPorts.flatMap fun p => drained p.1
        t.outbox = s.outbox ++ (Config.hostPorts.map fun p => .drain p.1 (drained p.1)) ++ [.manifest (l.map fun r => (r.granule, r.digest))
          s.retiredUnits s.wrappedKeys (Config.sign 1 (manifestDigest l s.retiredUnits s.wrappedKeys))]) ∧
  ((∀ d ∈ s.dies, d.2.remaps = []) → ∀ g,
    (∀ i < 0x10000, Config.deviceStorage (g * 0x10000 + i) = true → s.readPa (g * 0x10000 + i) ≠ 0 → g ∈ s.usedGranules) ∧
    ∀ o ∈ s.owners, o.1 / 0x10000 ≤ g → g < o.1 / 0x10000 + o.2.1 / 0x10000 → g ∈ s.usedGranules) ∧
  (∀ g i, i < 0x10000 → s.ownerOf (g * 0x10000) = 0xFF → SMap.get 0 (s.granuleRecord g).content i =
    match s.version (g * 512 + i / 128) systemView 0 with
    | some w => SMap.get 0 (w.content.getD []) (i % 128)
    | none => s.readPa (g * 0x10000 + i)) ∧
  (∀ image signature, ∃ t, exec (.checkpointRestore image signature) s = .next t ∧
    let signed := Config.verify signature (manifestDigest image.granules image.retired image.keys)
    let whole := fun (r : GranuleRecord) => imageOpens image r = true ∧ Config.deviceStorage (r.granule * 0x10000) = true ∧
      r.digest = BitVec.ofNat 512 (leNat (sha512 (takeBytes r.content 0 0x10000)))
    let lines := s.imageLines image
    (signed = false ∨ (∃ p ∈ s.tasks, p.2.places ≠ []) ∨ (∃ r ∈ image.granules, ¬ whole r) → t = s) ∧
    (signed = true → (∀ p ∈ s.tasks, p.2.places = []) → (∀ r ∈ image.granules, whole r) →
      if (∃ a ∈ lines, s.locked (a / 128) (0, 2 ^ 32, 0) = true) ∨ (hedgeRun 0 (lines.map fun a => (a, 0, 0)) s).isSome = true then
        SameMemory s t ∧ t.tasks = s.tasks ∧ ∃ n, s.ptc < n ∧ (n, .checkpointRestore image signature) ∈ t.inbox
      else
        t.tasks = s.tasks ∧ t.poison = [] ∧ t.copies = [] ∧
        (∀ k, image.keys = [k] → (t.ctx k.1).key = k.2 ∧ (t.ctx k.1).isSealed = true) ∧
        ((∀ d ∈ s.dies, d.2.remaps = []) → ∀ pa, Config.deviceStorage pa = true →
          (∀ r ∈ image.granules, pa / 0x10000 ≠ r.granule) → t.readPa pa = 0) ∧
        ∀ pre r post, image.granules = pre ++ r :: post → (∀ x ∈ pre ++ post, x.granule ≠ r.granule) →
          (r.owner < 64 → t.ownerOf (r.granule * 0x10000) = r.owner) ∧
          ((∀ d ∈ s.dies, d.2.remaps = []) → ∀ i < 0x10000, t.readPa (r.granule * 0x10000 + i) =
            if r.owner = 0xFF then SMap.get 0 r.content i
            else Config.decipherByte (imageKey image r.owner) (r.granule * 0x10000 + i) (SMap.get 0 r.content i)))) ∧
  (∃ t, exec .powerOnReset s = .next t ∧
    t = { State.reset with replReq := t.replReq, dies := t.dies, firmware := t.firmware, fresh := s.fresh + 1 } ∧
    (t.firmware = s.firmware ∨ t.firmware = s.firmware + 1) ∧ (s.replReq = true → t.replReq = true) ∧
    (∀ d e, (∃ x, (d, x) ∈ t.dies ∧ e ∈ x.ras) ↔ ∃ x, (d, x) ∈ s.dies ∧ e ∈ x.ras ∧ leNat (e.take 2) = 0x902) ∧
    ∀ d, (t.die d).retiredCores = (s.die d).retiredCores ∧ (t.die d).retiredSlices = (s.die d).retiredSlices ∧
      (t.die d).retiredLinks = (s.die d).retiredLinks ∧ (t.die d).retiredMemory = (s.die d).retiredMemory ∧
      let l := resetSlices d (s.die d).retiredSlices
      ∀ b, t.sliceOf d b = l.getD (b % max 1 l.length) 0) ∧
  (∀ d gone, (resetSlices d gone).Pairwise (· < ·) ∧ ∀ k, k ∈ resetSlices d gone ↔
    k < Config.slices d + 2 ∧ k ∉ gone ∧ k ∉ fuseRetired d ∧ k ∉ resetSpares d gone) ∧
  (∀ ok, ∃ t, exec (.bringUp ok) s = .next t ∧
    if 7 ≤ s.bringUp then t = s
    else if ok = true then t = { s with bringUp := s.bringUp + 1 }
    else match s.bringUp with
      | 0 | 1 => t = { s with power := .held }
      | 2 => t.bringUp = 3 ∧ t.power = s.power ∧ ∃ d < 12, ∃ k, k ∈ (t.die d).retiredMemory ∧ (k ∉ (s.die d).retiredMemory →
          if Config.isBX d = false ∧ Config.channelSpare d k (s.die d).retiredMemory = true then
            RasLogged s t { type := 6, unit := 1, flags := 4, die := d, index := k } ∧ t.replReq = s.replReq
          else t.replReq = true)
      | 3 => t.bringUp = 3 ∧ t.power = .held ∧ ∃ d < 12, RasLogged s t { type := 2, unit := 7, die := d }
      | 4 => t.bringUp = 5 ∧ t.power = s.power ∧ ∃ p < 16, t.port p = { s.port p with failed := true, aligned := false } ∧
          ∀ q, q ≠ p → t.port q = s.port q
      | n => t.bringUp = n + 1 ∧ t.power = s.power ∧ ∀ x ∈ t.ports, x.2.aligned = false) ∧
  (∃ t, exec .throttle s = .next t ∧ t = { s with throttle := { active := true } }) ∧
  (∃ t, exec .throttleResume s = .next t ∧
    if s.throttle.active = false then t = s
    else match s.throttle.below with
      | none => t = { s with throttle := { active := true, below := some s.ptc } }
      | some n => if s.ptc < n + 2 ^ 16 then t = s
        else t = { s with throttle := {}, tasks := t.tasks, outbox := t.outbox } ∧ ∀ i, t.taskAt i = { s.taskAt i with
          region := { (s.taskAt i).region with ready := (t.taskAt i).region.ready, othersReady := (t.taskAt i).region.othersReady } }) ∧
  (s.throttleMove = match s.throttle.below with
    | some n => if s.throttle.active = true ∧ n + 2 ^ 16 ≤ s.ptc then some { s with turn := [({}, .event .throttleResume)] } else none
    | none => none) ∧
  (s.throttle.active = true → s.task.state = .running →
    let runs := fun (i : Instr) => some { s with turn := [({ s.cur with core := 0 }, .event i)] }
    let r := s.region
    (r.active = true → r.entering = false → r.traps = [] → s.landing = none → r.freeze = none → s.heldStore = none →
      (r.total = 0 → s.regionMove = runs (.regionFreeze ⟨.throttle, s.rt, none⟩)) ∧
      (r.total ≠ 0 → r.stopAt = none → s.regionMove = runs (.regionFreeze ⟨.throttle, s.rt + r.ahead, none⟩))) ∧
    (∀ f, f.why = .throttle → r.budgetAt = none → s.cutHop = none → s.queueFaults = [] → r.stopAt = none → s.frozenMove f = none) ∧
    (r.active = false → r.entering = false → s.task.noted = s.task.stateCode → s.queuesMove = none → s.budgetMet = false → s.taskMove = none)) ∧
  (s.throttle.active = false → s.task.state = .running → s.region.budgetAt = none → s.cutHop = none → s.queueFaults = [] →
    s.region.stopAt = none → ∀ f, f.why = .throttle → f.peer = false →
      s.frozenMove f = some { s with turn := [({ s.cur with core := 0 }, .event .regionResume)] }) ∧
  (∀ (u : Task) tick b, (u.countTick tick b).region.freeze =
      u.region.freeze.map (fun f => { f with throttled := f.throttled + if b then 1 else 0 }) ∧
    ∀ k c, u.region.active = true → u.region.freeze.isSome = true → u.state = .running → u.paused tick = false → k < u.region.ncores →
      u.tickCounts tick k c = ((c.count true 2 1).foldCounts.count true 4 1).foldCounts) ∧
  (∀ d, ∃ t, exec (.thermalTrip d) s = .next t ∧ t.power = .removed ∧ SameMemory s t ∧ t.tasks = s.tasks ∧
    RasLogged s t { type := 2, unit := 9, die := d })

/-! ### Words, the step and what every step keeps -/

/-- 02 R45 to R47, R60: the word of a well-formed instruction decodes to it, in the CP's decoder, or in the slot that its operation is
assigned to. -/
def Obligations.RoundTrip : Prop := ∀ i w, wellFormed i = true → slotWordOk i = true → encode i = some w →
  (if gridSlot i = 3 then decode w else decodeGrid (gridSlot i) w) = some i

/-- 02 R45, R46, R61: no other word decodes to an instruction: what decodes is well-formed and is the word of what it decodes to,
so that no reserved field and no unassigned value goes unseen. -/
def Obligations.NoOtherWord : Prop := ∀ w i, decode w = some i → wellFormed i = true ∧ gridSlot i = 3 ∧ encode i = some w

/-- 02 R45, R46, R47, R54 to R60: words written out from the encoding tables, and what they decode to; words with a nonzero reserved
field, an unassigned number or a loop level 3 decode to nothing. -/
def Obligations.DecodeWords : Prop :=
  decode 0x0D453504 = some (.div 40 41 42) ∧ decode 0x1F000020 = some (.lui 32 32) ∧
  decode 0x11041FFF = some (.addi 32 32 (-1)) ∧ decode 0x3E080010 = some (.jal 1 16) ∧ decode 0x480D0003 = some (.loop 1 40 3) ∧
  decode 0x81415A00 = some (.ldq 40 10 3 1 0) ∧ decode 0x8D04314F = some (.amoCas 32 33 34 1 1 1) ∧
  decode 0x8E052828 = some (.csrw 0 41 0x28) ∧ decode 0x96000000 = some .retire ∧ decode 0xD9453500 = some (.launch 40 41 42) ∧
  decode 0xF7452003 = some (.snapq 40 41 3) ∧
  decodeGrid 0 0x80108800 = some (.fadd ⟨1, 1, 2, 0, 0⟩) ∧ decodeGrid 1 0x80108800 = none ∧
  decode 0x96000001 = none ∧ decode 0x8F400005 = none ∧ decode 0x481D0003 = none ∧ decode 0x49800003 = none

/-- 02 R44, R61, 17 R382, R383: the step runs what stands first on the turn, in its focus. A core that issues fetches the word at its
pc, from the code buffer in timed code and with the execute permission in loose code, where it waits for queued writes to the word
(03 R71); the word's instruction runs, or, where it is none, the illegal instruction; a failing fetch, a poisoned word and, behind the
checks of mode and encoding (notes/assumptions/36.md), a poisoned register trap. With nothing on the turn the schedule says what comes
next: the open cycle of a region, else in this order what a group, the inbox, the throttle, a task, the distributor, a message and a
group's close have to do, else the tick passes (5.md). -/
def Obligations.StepRunsDecoded : Prop := ∀ s,
  (∀ f tn rest u, s.power = .on → s.turn = (f, tn) :: rest → u = { s with cur := f, turn := rest } →
    (tn = .issue → u.fetchWaits = true → ∃ t, step s = .next t ∧ TriesLater u t .stores) ∧
    (tn = .issue → u.fetchWaits = false → ∀ w s1, u.fetchWord = .ok (w, s1) →
      (decode w = none → step s = exec (.illegalInstruction w) s1) ∧
      ∀ i, decode w = some i →
        ((∀ r ∈ sources i, r.toNat ∉ s1.core.regPoison) ∨ s1.engineRefused i = true ∨ s1.modeRefused i = true → step s = exec i s1) ∧
        ∀ r, s1.engineRefused i = false → s1.modeRefused i = false → (sources i).find? (fun r => s1.core.regPoison.contains r.toNat) = some r →
          ∃ t, step s = .next t ∧ Traps s1 t 0x0C 7 (r.setWidth 64)) ∧
    (tn = .issue → u.fetchWaits = false → ∀ e, u.fetchWord = .error e → ∃ t, step s = .next t ∧
      if u.timed then Traps u t e.cause e.sub e.tval else TrapsWalked u t e.cause e.sub e.tval) ∧
    (∀ i, tn = .event i → u.core.gridPoison = [] → step s = exec i u) ∧
    (∀ p, tn = .phase p → step s = .next (runPhase p u))) ∧
  (s.power = .on → s.turn = [] → step s = .next s.schedule) ∧
  (let onTask := fun (i : Nat) => ({ s with cur := { task := i } } : State);
    (∀ p, s.tasks.find? (fun p => p.2.region.opened) = some p → s.schedule = (onTask p.1).cycleNext) ∧
    ((∀ p ∈ s.tasks, p.2.region.opened = false) →
      (∀ m, s.groupMove = some m → s.schedule = m) ∧
      (s.groupMove = none → (∀ m, s.inboxMove = some m → s.schedule = m) ∧
        (s.inboxMove = none → (∀ m, s.throttleMove = some m → s.schedule = m) ∧
          (s.throttleMove = none →
            (∀ pre i u post m, s.tasks = pre ++ (i, u) :: post → (∀ x ∈ pre, (onTask x.1).taskMove = none) →
              (onTask i).taskMove = some m → s.schedule = m) ∧
            ((∀ x ∈ s.tasks, (onTask x.1).taskMove = none) →
              (∀ m, s.distributorMove = some m → s.schedule = m) ∧
              (s.distributorMove = none → (∀ m, s.messageMove = some m → s.schedule = m) ∧
                (s.messageMove = none → (∀ m, s.groupClose = some m → s.schedule = m) ∧
                  (s.groupClose = none → s.schedule = { s with turn := [(s.cur, .phase .tick)] }))))))))) ∧
  (s.power ≠ .on → s.resetWaits = true → step s = exec .powerOnReset s) ∧
  (s.power = .held → s.resetWaits = false → step s = .fault .heldInReset) ∧
  (s.power = .removed → s.resetWaits = false → step s = .fault .powerRemoved) ∧
  (s.timed = true → s.fetchWord =
    if 0x10000 ≤ s.core.pc.toNat then .error ⟨5, 5, s.core.pc⟩
    else if s.core.pc.toNat / 4 ∈ s.core.codePoison then .error ⟨0x0C, 2, s.core.pc⟩
    else .ok (BitVec.ofNat 32 (leNat (takeBytes s.core.code s.core.pc.toNat 4)), s)) ∧
  (s.timed = false → ∀ x, translateAs s s.agent s.core.pc.toNat .fetch = x →
    match x with
    | .ok pa attr =>
      let view := fun i => s.agent.target (s.core.pc.toNat + i) attr
      s.core.pc.toNat % 128 + 4 ≤ 128 → s.agent.remote pa attr = false → (∀ i < 4, s.foreign s.task.ctx (pa + i) = false) →
      if s.poisoned (view 0) pa = true ∨ 0x10000 + s.core.pc.toNat / 4 ∈ s.core.codePoison then s.fetchWord = .error ⟨0x0C, 2, s.core.pc⟩
      else ∃ s1, s.fetchWord = .ok (BitVec.ofNat 32 (leNat ((List.range 4).map fun i => s.readView (view i) (pa + i))), s1) ∧
        SameMemory s s1 ∧ s1.cur = s.cur ∧ s1.turn = s.turn ∧ CountsOnly s s1 [0x0B, 0x0C] ∧
        s1.core = { s.core with hpc := s1.core.hpc, hpcNow := s1.core.hpcNow }
    | x => s.fetchWord = .error ⟨(trCause x).1, (trCause x).2, s.core.pc⟩)

/-- 05 R177: every step keeps memory's canonical form, also of what a trap takes back, and slidemax within its bounds. -/
def Obligations.StepKeepsInv : Prop := ∀ s t : State, s.Inv → step s = .next t → t.Inv

/-- 05 R159, 10 R286, 02 R50: the part after power-on reset meets the invariant; the package time counter and the distributor's pointer
are 0, slidemax is 2^24, no task, group or queue exists, and a core's cause, epc, tval, tvec, psig, counters and selectors are 0.
What the spec leaves without a reset value is the model's choice (notes/assumptions/1.md, 2.md). -/
def Obligations.ResetHolds : Prop :=
  State.reset.Inv ∧ State.reset.ptc = 0 ∧ State.reset.pointer = 0 ∧ State.reset.slidemax = 2 ^ 24 ∧ State.reset.power = .on ∧
  State.reset.tasks = [] ∧ State.reset.groups = [] ∧ (∀ q, (State.reset.queue q).enabled = false) ∧
  (∀ r : Reg, ({} : Core).rx r = 0) ∧
  ∀ n ∈ [0x10, 0x11, 0x12, 0x13, 0x18, 0x20, 0x21, 0x22, 0x23, 0x28, 0x29, 0x2A, 0x2B], State.reset.csrRead n = 0

end
end

