-- ==== Sys2Proof/Laws/Map.lean ====
section
/-!
SUPPORT. The laws of sparse maps: a read after a write, the canonical form, and that every update keeps it.
-/

namespace Sys2Proof

@[simp] theorem SMap.get_put_self {α : Type} (d : α) (m : SMap α) (i : Nat) (v : α) : SMap.get d (SMap.put m i v) i = v := by
  induction m with
  | nil => simp [SMap.put, SMap.get]
  | cons p m ih =>
    obtain ⟨k, w⟩ := p
    simp only [SMap.put]
    split
    · simp [SMap.get]
    · split
      · simp [SMap.get]
      · simp_all [SMap.get]

theorem SMap.get_put_of_ne {α : Type} (d : α) (m : SMap α) {i j : Nat} (v : α) (h : j ≠ i) :
    SMap.get d (SMap.put m i v) j = SMap.get d m j := by
  induction m with
  | nil => simp [SMap.put, SMap.get, h]
  | cons p m ih =>
    obtain ⟨k, w⟩ := p
    simp only [SMap.put]
    split
    · simp [SMap.get, h]
    · split
      · next h2 => subst h2; simp [SMap.get, h]
      · simp [SMap.get, ih]

/-- Reading after taking a key off. -/
theorem SMap.get_del {α : Type} (d : α) (m : SMap α) (i j : Nat) :
    SMap.get d (SMap.del m i) j = if j = i then d else SMap.get d m j := by
  induction m with
  | nil => simp [SMap.del, SMap.get]
  | cons p m ih =>
    obtain ⟨k, w⟩ := p
    by_cases hk : i = k
    · subst hk
      rw [SMap.del, if_pos rfl, ih]
      by_cases hj : j = i <;> simp [SMap.get, hj]
    · rw [SMap.del, if_neg hk, SMap.get, ih, SMap.get]
      by_cases hj : j = k
      · subst hj; simp [Ne.symm hk]
      · simp [hj]

/-- Reading after setting a key. -/
theorem SMap.get_set {α : Type} [DecidableEq α] (d : α) (m : SMap α) (i j : Nat) (v : α) :
    SMap.get d (SMap.set d m i v) j = if j = i then v else SMap.get d m j := by
  unfold SMap.set
  split
  · next h => rw [SMap.get_del, h]
  · by_cases hj : j = i
    · subst hj; simp
    · simp [SMap.get_put_of_ne d m v hj, hj]

/-- Keys rise exactly when the first lies below all others and the others rise. -/
theorem SMap.rising_cons {α : Type} (k : Nat) (v : α) (m : SMap α) :
    SMap.rising ((k, v) :: m) = true ↔ (∀ p ∈ m, k < p.1) ∧ SMap.rising m = true := by
  induction m generalizing k v with
  | nil => simp [SMap.rising]
  | cons p m ih =>
    obtain ⟨b, w⟩ := p
    simp only [SMap.rising, Bool.and_eq_true, decide_eq_true_eq, ih, List.mem_cons, forall_eq_or_imp]
    constructor
    · rintro ⟨h1, h2, h3⟩
      exact ⟨⟨h1, fun p hp => lt_trans h1 (h2 p hp)⟩, h2, h3⟩
    · rintro ⟨⟨h1, _⟩, h2, h3⟩
      exact ⟨h1, h2, h3⟩

theorem SMap.mem_put {α : Type} {m : SMap α} {i : Nat} {v : α} {p : Nat × α} (h : p ∈ SMap.put m i v) : p = (i, v) ∨ p ∈ m := by
  induction m with
  | nil => simpa [SMap.put] using h
  | cons q m ih =>
    obtain ⟨k, w⟩ := q
    simp only [SMap.put] at h
    split at h
    · simpa using h
    · split at h
      · rcases List.mem_cons.1 h with h | h
        · exact .inl h
        · exact .inr (List.mem_cons_of_mem _ h)
      · rcases List.mem_cons.1 h with h | h
        · exact .inr (h ▸ List.mem_cons_self)
        · rcases ih h with h | h
          · exact .inl h
          · exact .inr (List.mem_cons_of_mem _ h)

theorem SMap.mem_del {α : Type} {m : SMap α} {i : Nat} {p : Nat × α} (h : p ∈ SMap.del m i) : p ∈ m := by
  induction m with
  | nil => simp [SMap.del] at h
  | cons q m ih =>
    obtain ⟨k, w⟩ := q
    simp only [SMap.del] at h
    split at h
    · exact List.mem_cons_of_mem _ (ih h)
    · rcases List.mem_cons.1 h with h | h
      · exact h ▸ List.mem_cons_self
      · exact List.mem_cons_of_mem _ (ih h)

theorem SMap.rising_put {α : Type} (m : SMap α) (i : Nat) (v : α) (h : SMap.rising m = true) :
    SMap.rising (SMap.put m i v) = true := by
  induction m with
  | nil => rfl
  | cons q m ih =>
    obtain ⟨k, w⟩ := q
    have hk := (SMap.rising_cons k w m).1 h
    simp only [SMap.put]
    split
    · next hi => exact (SMap.rising_cons i v _).2 ⟨fun p hp => by
        rcases List.mem_cons.1 hp with rfl | hp
        · exact hi
        · exact lt_trans hi (hk.1 p hp), h⟩
    · split
      · next hi => subst hi; exact (SMap.rising_cons i v m).2 hk
      · refine (SMap.rising_cons k w _).2 ⟨fun p hp => ?_, ih hk.2⟩
        rcases SMap.mem_put hp with rfl | hp
        · simp only; omega
        · exact hk.1 p hp

theorem SMap.rising_filter {α : Type} (f : Nat × α → Bool) (m : SMap α) (h : SMap.rising m = true) :
    SMap.rising (m.filter f) = true := by
  induction m with
  | nil => rfl
  | cons q m ih =>
    obtain ⟨k, w⟩ := q
    have hk := (SMap.rising_cons k w m).1 h
    simp only [List.filter_cons]
    split
    · exact (SMap.rising_cons k w _).2 ⟨fun p hp => hk.1 p (List.mem_of_mem_filter hp), ih hk.2⟩
    · exact ih hk.2

theorem SMap.rising_del {α : Type} (m : SMap α) (i : Nat) (h : SMap.rising m = true) : SMap.rising (SMap.del m i) = true := by
  induction m with
  | nil => rfl
  | cons q m ih =>
    obtain ⟨k, w⟩ := q
    have hk := (SMap.rising_cons k w m).1 h
    simp only [SMap.del]
    split
    · exact ih hk.2
    · exact (SMap.rising_cons k w _).2 ⟨fun p hp => hk.1 p (SMap.mem_del hp), ih hk.2⟩

/-- Setting a key keeps the canonical form. -/
theorem SMap.wf_set {α : Type} [DecidableEq α] (d : α) (m : SMap α) (i : Nat) (v : α) (h : SMap.wf d m = true) :
    SMap.wf d (SMap.set d m i v) = true := by
  simp only [SMap.wf, Bool.and_eq_true, List.all_eq_true, decide_eq_true_eq] at h ⊢
  unfold SMap.set
  split
  · exact ⟨SMap.rising_del m i h.1, fun p hp => h.2 p (SMap.mem_del hp)⟩
  · next hv => exact ⟨SMap.rising_put m i v h.1, fun p hp => by
      rcases SMap.mem_put hp with rfl | hp
      · exact hv
      · exact h.2 p hp⟩

/-- Dropping entries keeps the canonical form. -/
theorem SMap.wf_filter {α : Type} [DecidableEq α] (d : α) (f : Nat × α → Bool) (m : SMap α) (h : SMap.wf d m = true) :
    SMap.wf d (m.filter f) = true := by
  simp only [SMap.wf, Bool.and_eq_true, List.all_eq_true, decide_eq_true_eq] at h ⊢
  exact ⟨SMap.rising_filter f m h.1, fun p hp => h.2 p (List.mem_of_mem_filter hp)⟩

/-- Putting twice at one key keeps the second value. -/
@[simp] theorem SMap.put_put {α : Type} (m : SMap α) (i : Nat) (v w : α) : SMap.put (SMap.put m i v) i w = SMap.put m i w := by
  induction m with
  | nil => simp [SMap.put]
  | cons p m ih =>
    obtain ⟨k, x⟩ := p
    by_cases h1 : i < k
    · simp [SMap.put, h1]
    · by_cases h2 : i = k
      · subst h2; simp [SMap.put]
      · simp [SMap.put, h1, h2, ih]

end Sys2Proof
end

