-- ==== Sys2Proof/Laws/State.lean ====
section
/-!
SUPPORT. What each named update of the state leaves and sets, field by field; no later proof unfolds a record update.
-/

namespace Sys2Proof.Machine

/-! ### setTask -/

@[simp] theorem State.setTask_ptc (s : State) (t : Task) : (s.setTask t).ptc = s.ptc := rfl
@[simp] theorem State.setTask_slidemax (s : State) (t : Task) : (s.setTask t).slidemax = s.slidemax := rfl
@[simp] theorem State.setTask_aging (s : State) (t : Task) : (s.setTask t).aging = s.aging := rfl
@[simp] theorem State.setTask_pointer (s : State) (t : Task) : (s.setTask t).pointer = s.pointer := rfl
@[simp] theorem State.setTask_nextSelect (s : State) (t : Task) : (s.setTask t).nextSelect = s.nextSelect := rfl
@[simp] theorem State.setTask_bringUp (s : State) (t : Task) : (s.setTask t).bringUp = s.bringUp := rfl
@[simp] theorem State.setTask_power (s : State) (t : Task) : (s.setTask t).power = s.power := rfl
@[simp] theorem State.setTask_throttle (s : State) (t : Task) : (s.setTask t).throttle = s.throttle := rfl
@[simp] theorem State.setTask_powerTarget (s : State) (t : Task) : (s.setTask t).powerTarget = s.powerTarget := rfl
@[simp] theorem State.setTask_firmware (s : State) (t : Task) : (s.setTask t).firmware = s.firmware := rfl
@[simp] theorem State.setTask_replReq (s : State) (t : Task) : (s.setTask t).replReq = s.replReq := rfl
@[simp] theorem State.setTask_upstream (s : State) (t : Task) : (s.setTask t).upstream = s.upstream := rfl
@[simp] theorem State.setTask_mem (s : State) (t : Task) : (s.setTask t).mem = s.mem := rfl
@[simp] theorem State.setTask_poison (s : State) (t : Task) : (s.setTask t).poison = s.poison := rfl
@[simp] theorem State.setTask_versions (s : State) (t : Task) : (s.setTask t).versions = s.versions := rfl
@[simp] theorem State.setTask_copies (s : State) (t : Task) : (s.setTask t).copies = s.copies := rfl
@[simp] theorem State.setTask_owners (s : State) (t : Task) : (s.setTask t).owners = s.owners := rfl
@[simp] theorem State.setTask_allocated (s : State) (t : Task) : (s.setTask t).allocated = s.allocated := rfl
@[simp] theorem State.setTask_deadKey (s : State) (t : Task) : (s.setTask t).deadKey = s.deadKey := rfl
@[simp] theorem State.setTask_history (s : State) (t : Task) : (s.setTask t).history = s.history := rfl
@[simp] theorem State.setTask_dies (s : State) (t : Task) : (s.setTask t).dies = s.dies := rfl
@[simp] theorem State.setTask_ports (s : State) (t : Task) : (s.setTask t).ports = s.ports := rfl
@[simp] theorem State.setTask_contexts (s : State) (t : Task) : (s.setTask t).contexts = s.contexts := rfl
@[simp] theorem State.setTask_queues (s : State) (t : Task) : (s.setTask t).queues = s.queues := rfl
@[simp] theorem State.setTask_fns (s : State) (t : Task) : (s.setTask t).fns = s.fns := rfl
@[simp] theorem State.setTask_spdm (s : State) (t : Task) : (s.setTask t).spdm = s.spdm := rfl
@[simp] theorem State.setTask_checkpoint (s : State) (t : Task) : (s.setTask t).checkpoint = s.checkpoint := rfl
@[simp] theorem State.setTask_hedgePool (s : State) (t : Task) : (s.setTask t).hedgePool = s.hedgePool := rfl
@[simp] theorem State.setTask_reserve (s : State) (t : Task) : (s.setTask t).reserve = s.reserve := rfl
@[simp] theorem State.setTask_groups (s : State) (t : Task) : (s.setTask t).groups = s.groups := rfl
@[simp] theorem State.setTask_nextTask (s : State) (t : Task) : (s.setTask t).nextTask = s.nextTask := rfl
@[simp] theorem State.setTask_nextGroup (s : State) (t : Task) : (s.setTask t).nextGroup = s.nextGroup := rfl
@[simp] theorem State.setTask_inbox (s : State) (t : Task) : (s.setTask t).inbox = s.inbox := rfl
@[simp] theorem State.setTask_outbox (s : State) (t : Task) : (s.setTask t).outbox = s.outbox := rfl
@[simp] theorem State.setTask_hostHeld (s : State) (t : Task) : (s.setTask t).hostHeld = s.hostHeld := rfl
@[simp] theorem State.setTask_cur (s : State) (t : Task) : (s.setTask t).cur = s.cur := rfl
@[simp] theorem State.setTask_turn (s : State) (t : Task) : (s.setTask t).turn = s.turn := rfl
@[simp] theorem State.setTask_pre (s : State) (t : Task) : (s.setTask t).pre = s.pre := rfl
@[simp] theorem State.setTask_fresh (s : State) (t : Task) : (s.setTask t).fresh = s.fresh := rfl
@[simp] theorem State.setTask_sendSeq (s : State) (t : Task) : (s.setTask t).sendSeq = s.sendSeq := rfl

@[simp] theorem State.setTask_task (s : State) (t : Task) : (s.setTask t).task = t := by simp [State.task, State.setTask]
@[simp] theorem State.setTask_core (s : State) (t : Task) : (s.setTask t).core = SMap.get {} t.cores s.cur.core := by
  simp [State.core]
@[simp] theorem State.setTask_region (s : State) (t : Task) : (s.setTask t).region = t.region := by simp [State.region]
@[simp] theorem State.setTask_timed (s : State) (t : Task) : (s.setTask t).timed = t.region.active := by simp [State.timed]
@[simp] theorem State.setTask_rt (s : State) (t : Task) : (s.setTask t).rt = t.region.rt := by simp [State.rt]

/-! ### setCore -/

@[simp] theorem State.setCore_ptc (s : State) (c : Core) : (s.setCore c).ptc = s.ptc := rfl
@[simp] theorem State.setCore_slidemax (s : State) (c : Core) : (s.setCore c).slidemax = s.slidemax := rfl
@[simp] theorem State.setCore_aging (s : State) (c : Core) : (s.setCore c).aging = s.aging := rfl
@[simp] theorem State.setCore_pointer (s : State) (c : Core) : (s.setCore c).pointer = s.pointer := rfl
@[simp] theorem State.setCore_nextSelect (s : State) (c : Core) : (s.setCore c).nextSelect = s.nextSelect := rfl
@[simp] theorem State.setCore_bringUp (s : State) (c : Core) : (s.setCore c).bringUp = s.bringUp := rfl
@[simp] theorem State.setCore_power (s : State) (c : Core) : (s.setCore c).power = s.power := rfl
@[simp] theorem State.setCore_throttle (s : State) (c : Core) : (s.setCore c).throttle = s.throttle := rfl
@[simp] theorem State.setCore_powerTarget (s : State) (c : Core) : (s.setCore c).powerTarget = s.powerTarget := rfl
@[simp] theorem State.setCore_firmware (s : State) (c : Core) : (s.setCore c).firmware = s.firmware := rfl
@[simp] theorem State.setCore_replReq (s : State) (c : Core) : (s.setCore c).replReq = s.replReq := rfl
@[simp] theorem State.setCore_upstream (s : State) (c : Core) : (s.setCore c).upstream = s.upstream := rfl
@[simp] theorem State.setCore_mem (s : State) (c : Core) : (s.setCore c).mem = s.mem := rfl
@[simp] theorem State.setCore_poison (s : State) (c : Core) : (s.setCore c).poison = s.poison := rfl
@[simp] theorem State.setCore_versions (s : State) (c : Core) : (s.setCore c).versions = s.versions := rfl
@[simp] theorem State.setCore_copies (s : State) (c : Core) : (s.setCore c).copies = s.copies := rfl
@[simp] theorem State.setCore_owners (s : State) (c : Core) : (s.setCore c).owners = s.owners := rfl
@[simp] theorem State.setCore_allocated (s : State) (c : Core) : (s.setCore c).allocated = s.allocated := rfl
@[simp] theorem State.setCore_deadKey (s : State) (c : Core) : (s.setCore c).deadKey = s.deadKey := rfl
@[simp] theorem State.setCore_history (s : State) (c : Core) : (s.setCore c).history = s.history := rfl
@[simp] theorem State.setCore_dies (s : State) (c : Core) : (s.setCore c).dies = s.dies := rfl
@[simp] theorem State.setCore_ports (s : State) (c : Core) : (s.setCore c).ports = s.ports := rfl
@[simp] theorem State.setCore_contexts (s : State) (c : Core) : (s.setCore c).contexts = s.contexts := rfl
@[simp] theorem State.setCore_queues (s : State) (c : Core) : (s.setCore c).queues = s.queues := rfl
@[simp] theorem State.setCore_fns (s : State) (c : Core) : (s.setCore c).fns = s.fns := rfl
@[simp] theorem State.setCore_spdm (s : State) (c : Core) : (s.setCore c).spdm = s.spdm := rfl
@[simp] theorem State.setCore_checkpoint (s : State) (c : Core) : (s.setCore c).checkpoint = s.checkpoint := rfl
@[simp] theorem State.setCore_hedgePool (s : State) (c : Core) : (s.setCore c).hedgePool = s.hedgePool := rfl
@[simp] theorem State.setCore_reserve (s : State) (c : Core) : (s.setCore c).reserve = s.reserve := rfl
@[simp] theorem State.setCore_groups (s : State) (c : Core) : (s.setCore c).groups = s.groups := rfl
@[simp] theorem State.setCore_nextTask (s : State) (c : Core) : (s.setCore c).nextTask = s.nextTask := rfl
@[simp] theorem State.setCore_nextGroup (s : State) (c : Core) : (s.setCore c).nextGroup = s.nextGroup := rfl
@[simp] theorem State.setCore_inbox (s : State) (c : Core) : (s.setCore c).inbox = s.inbox := rfl
@[simp] theorem State.setCore_outbox (s : State) (c : Core) : (s.setCore c).outbox = s.outbox := rfl
@[simp] theorem State.setCore_hostHeld (s : State) (c : Core) : (s.setCore c).hostHeld = s.hostHeld := rfl
@[simp] theorem State.setCore_cur (s : State) (c : Core) : (s.setCore c).cur = s.cur := rfl
@[simp] theorem State.setCore_turn (s : State) (c : Core) : (s.setCore c).turn = s.turn := rfl
@[simp] theorem State.setCore_pre (s : State) (c : Core) : (s.setCore c).pre = s.pre := rfl
@[simp] theorem State.setCore_fresh (s : State) (c : Core) : (s.setCore c).fresh = s.fresh := rfl
@[simp] theorem State.setCore_sendSeq (s : State) (c : Core) : (s.setCore c).sendSeq = s.sendSeq := rfl

@[simp] theorem State.setCore_core (s : State) (c : Core) : (s.setCore c).core = c := by simp [State.setCore]
@[simp] theorem State.setCore_task (s : State) (c : Core) :
    (s.setCore c).task = { s.task with cores := SMap.put s.task.cores s.cur.core c } := by simp [State.setCore]
@[simp] theorem State.setCore_region (s : State) (c : Core) : (s.setCore c).region = s.region := by simp [State.region]
@[simp] theorem State.setCore_timed (s : State) (c : Core) : (s.setCore c).timed = s.timed := by simp [State.timed]
@[simp] theorem State.setCore_rt (s : State) (c : Core) : (s.setCore c).rt = s.rt := by simp [State.rt]

/-! ### setRegion -/

@[simp] theorem State.setRegion_ptc (s : State) (r : Region) : (s.setRegion r).ptc = s.ptc := rfl
@[simp] theorem State.setRegion_slidemax (s : State) (r : Region) : (s.setRegion r).slidemax = s.slidemax := rfl
@[simp] theorem State.setRegion_aging (s : State) (r : Region) : (s.setRegion r).aging = s.aging := rfl
@[simp] theorem State.setRegion_pointer (s : State) (r : Region) : (s.setRegion r).pointer = s.pointer := rfl
@[simp] theorem State.setRegion_nextSelect (s : State) (r : Region) : (s.setRegion r).nextSelect = s.nextSelect := rfl
@[simp] theorem State.setRegion_bringUp (s : State) (r : Region) : (s.setRegion r).bringUp = s.bringUp := rfl
@[simp] theorem State.setRegion_power (s : State) (r : Region) : (s.setRegion r).power = s.power := rfl
@[simp] theorem State.setRegion_throttle (s : State) (r : Region) : (s.setRegion r).throttle = s.throttle := rfl
@[simp] theorem State.setRegion_powerTarget (s : State) (r : Region) : (s.setRegion r).powerTarget = s.powerTarget := rfl
@[simp] theorem State.setRegion_firmware (s : State) (r : Region) : (s.setRegion r).firmware = s.firmware := rfl
@[simp] theorem State.setRegion_replReq (s : State) (r : Region) : (s.setRegion r).replReq = s.replReq := rfl
@[simp] theorem State.setRegion_upstream (s : State) (r : Region) : (s.setRegion r).upstream = s.upstream := rfl
@[simp] theorem State.setRegion_mem (s : State) (r : Region) : (s.setRegion r).mem = s.mem := rfl
@[simp] theorem State.setRegion_poison (s : State) (r : Region) : (s.setRegion r).poison = s.poison := rfl
@[simp] theorem State.setRegion_versions (s : State) (r : Region) : (s.setRegion r).versions = s.versions := rfl
@[simp] theorem State.setRegion_copies (s : State) (r : Region) : (s.setRegion r).copies = s.copies := rfl
@[simp] theorem State.setRegion_owners (s : State) (r : Region) : (s.setRegion r).owners = s.owners := rfl
@[simp] theorem State.setRegion_allocated (s : State) (r : Region) : (s.setRegion r).allocated = s.allocated := rfl
@[simp] theorem State.setRegion_deadKey (s : State) (r : Region) : (s.setRegion r).deadKey = s.deadKey := rfl
@[simp] theorem State.setRegion_history (s : State) (r : Region) : (s.setRegion r).history = s.history := rfl
@[simp] theorem State.setRegion_dies (s : State) (r : Region) : (s.setRegion r).dies = s.dies := rfl
@[simp] theorem State.setRegion_ports (s : State) (r : Region) : (s.setRegion r).ports = s.ports := rfl
@[simp] theorem State.setRegion_contexts (s : State) (r : Region) : (s.setRegion r).contexts = s.contexts := rfl
@[simp] theorem State.setRegion_queues (s : State) (r : Region) : (s.setRegion r).queues = s.queues := rfl
@[simp] theorem State.setRegion_fns (s : State) (r : Region) : (s.setRegion r).fns = s.fns := rfl
@[simp] theorem State.setRegion_spdm (s : State) (r : Region) : (s.setRegion r).spdm = s.spdm := rfl
@[simp] theorem State.setRegion_checkpoint (s : State) (r : Region) : (s.setRegion r).checkpoint = s.checkpoint := rfl
@[simp] theorem State.setRegion_hedgePool (s : State) (r : Region) : (s.setRegion r).hedgePool = s.hedgePool := rfl
@[simp] theorem State.setRegion_reserve (s : State) (r : Region) : (s.setRegion r).reserve = s.reserve := rfl
@[simp] theorem State.setRegion_groups (s : State) (r : Region) : (s.setRegion r).groups = s.groups := rfl
@[simp] theorem State.setRegion_nextTask (s : State) (r : Region) : (s.setRegion r).nextTask = s.nextTask := rfl
@[simp] theorem State.setRegion_nextGroup (s : State) (r : Region) : (s.setRegion r).nextGroup = s.nextGroup := rfl
@[simp] theorem State.setRegion_inbox (s : State) (r : Region) : (s.setRegion r).inbox = s.inbox := rfl
@[simp] theorem State.setRegion_outbox (s : State) (r : Region) : (s.setRegion r).outbox = s.outbox := rfl
@[simp] theorem State.setRegion_hostHeld (s : State) (r : Region) : (s.setRegion r).hostHeld = s.hostHeld := rfl
@[simp] theorem State.setRegion_cur (s : State) (r : Region) : (s.setRegion r).cur = s.cur := rfl
@[simp] theorem State.setRegion_turn (s : State) (r : Region) : (s.setRegion r).turn = s.turn := rfl
@[simp] theorem State.setRegion_pre (s : State) (r : Region) : (s.setRegion r).pre = s.pre := rfl
@[simp] theorem State.setRegion_fresh (s : State) (r : Region) : (s.setRegion r).fresh = s.fresh := rfl
@[simp] theorem State.setRegion_sendSeq (s : State) (r : Region) : (s.setRegion r).sendSeq = s.sendSeq := rfl

@[simp] theorem State.setRegion_region (s : State) (r : Region) : (s.setRegion r).region = r := by simp [State.setRegion]
@[simp] theorem State.setRegion_task (s : State) (r : Region) : (s.setRegion r).task = { s.task with region := r } := by
  simp [State.setRegion]
@[simp] theorem State.setRegion_core (s : State) (r : Region) : (s.setRegion r).core = s.core := by simp [State.core]
@[simp] theorem State.setRegion_timed (s : State) (r : Region) : (s.setRegion r).timed = r.active := by simp [State.timed]
@[simp] theorem State.setRegion_rt (s : State) (r : Region) : (s.setRegion r).rt = r.rt := by simp [State.rt]

/-! ### setCoreAt -/

@[simp] theorem State.setCoreAt_ptc (s : State) (k : Nat) (c : Core) : (s.setCoreAt k c).ptc = s.ptc := rfl
@[simp] theorem State.setCoreAt_slidemax (s : State) (k : Nat) (c : Core) : (s.setCoreAt k c).slidemax = s.slidemax := rfl
@[simp] theorem State.setCoreAt_aging (s : State) (k : Nat) (c : Core) : (s.setCoreAt k c).aging = s.aging := rfl
@[simp] theorem State.setCoreAt_pointer (s : State) (k : Nat) (c : Core) : (s.setCoreAt k c).pointer = s.pointer := rfl
@[simp] theorem State.setCoreAt_nextSelect (s : State) (k : Nat) (c : Core) : (s.setCoreAt k c).nextSelect = s.nextSelect := rfl
@[simp] theorem State.setCoreAt_bringUp (s : State) (k : Nat) (c : Core) : (s.setCoreAt k c).bringUp = s.bringUp := rfl
@[simp] theorem State.setCoreAt_power (s : State) (k : Nat) (c : Core) : (s.setCoreAt k c).power = s.power := rfl
@[simp] theorem State.setCoreAt_throttle (s : State) (k : Nat) (c : Core) : (s.setCoreAt k c).throttle = s.throttle := rfl
@[simp] theorem State.setCoreAt_powerTarget (s : State) (k : Nat) (c : Core) : (s.setCoreAt k c).powerTarget = s.powerTarget := rfl
@[simp] theorem State.setCoreAt_firmware (s : State) (k : Nat) (c : Core) : (s.setCoreAt k c).firmware = s.firmware := rfl
@[simp] theorem State.setCoreAt_replReq (s : State) (k : Nat) (c : Core) : (s.setCoreAt k c).replReq = s.replReq := rfl
@[simp] theorem State.setCoreAt_upstream (s : State) (k : Nat) (c : Core) : (s.setCoreAt k c).upstream = s.upstream := rfl
@[simp] theorem State.setCoreAt_mem (s : State) (k : Nat) (c : Core) : (s.setCoreAt k c).mem = s.mem := rfl
@[simp] theorem State.setCoreAt_poison (s : State) (k : Nat) (c : Core) : (s.setCoreAt k c).poison = s.poison := rfl
@[simp] theorem State.setCoreAt_versions (s : State) (k : Nat) (c : Core) : (s.setCoreAt k c).versions = s.versions := rfl
@[simp] theorem State.setCoreAt_copies (s : State) (k : Nat) (c : Core) : (s.setCoreAt k c).copies = s.copies := rfl
@[simp] theorem State.setCoreAt_owners (s : State) (k : Nat) (c : Core) : (s.setCoreAt k c).owners = s.owners := rfl
@[simp] theorem State.setCoreAt_allocated (s : State) (k : Nat) (c : Core) : (s.setCoreAt k c).allocated = s.allocated := rfl
@[simp] theorem State.setCoreAt_deadKey (s : State) (k : Nat) (c : Core) : (s.setCoreAt k c).deadKey = s.deadKey := rfl
@[simp] theorem State.setCoreAt_history (s : State) (k : Nat) (c : Core) : (s.setCoreAt k c).history = s.history := rfl
@[simp] theorem State.setCoreAt_dies (s : State) (k : Nat) (c : Core) : (s.setCoreAt k c).dies = s.dies := rfl
@[simp] theorem State.setCoreAt_ports (s : State) (k : Nat) (c : Core) : (s.setCoreAt k c).ports = s.ports := rfl
@[simp] theorem State.setCoreAt_contexts (s : State) (k : Nat) (c : Core) : (s.setCoreAt k c).contexts = s.contexts := rfl
@[simp] theorem State.setCoreAt_queues (s : State) (k : Nat) (c : Core) : (s.setCoreAt k c).queues = s.queues := rfl
@[simp] theorem State.setCoreAt_fns (s : State) (k : Nat) (c : Core) : (s.setCoreAt k c).fns = s.fns := rfl
@[simp] theorem State.setCoreAt_spdm (s : State) (k : Nat) (c : Core) : (s.setCoreAt k c).spdm = s.spdm := rfl
@[simp] theorem State.setCoreAt_checkpoint (s : State) (k : Nat) (c : Core) : (s.setCoreAt k c).checkpoint = s.checkpoint := rfl
@[simp] theorem State.setCoreAt_hedgePool (s : State) (k : Nat) (c : Core) : (s.setCoreAt k c).hedgePool = s.hedgePool := rfl
@[simp] theorem State.setCoreAt_reserve (s : State) (k : Nat) (c : Core) : (s.setCoreAt k c).reserve = s.reserve := rfl
@[simp] theorem State.setCoreAt_groups (s : State) (k : Nat) (c : Core) : (s.setCoreAt k c).groups = s.groups := rfl
@[simp] theorem State.setCoreAt_nextTask (s : State) (k : Nat) (c : Core) : (s.setCoreAt k c).nextTask = s.nextTask := rfl
@[simp] theorem State.setCoreAt_nextGroup (s : State) (k : Nat) (c : Core) : (s.setCoreAt k c).nextGroup = s.nextGroup := rfl
@[simp] theorem State.setCoreAt_inbox (s : State) (k : Nat) (c : Core) : (s.setCoreAt k c).inbox = s.inbox := rfl
@[simp] theorem State.setCoreAt_outbox (s : State) (k : Nat) (c : Core) : (s.setCoreAt k c).outbox = s.outbox := rfl
@[simp] theorem State.setCoreAt_hostHeld (s : State) (k : Nat) (c : Core) : (s.setCoreAt k c).hostHeld = s.hostHeld := rfl
@[simp] theorem State.setCoreAt_cur (s : State) (k : Nat) (c : Core) : (s.setCoreAt k c).cur = s.cur := rfl
@[simp] theorem State.setCoreAt_turn (s : State) (k : Nat) (c : Core) : (s.setCoreAt k c).turn = s.turn := rfl
@[simp] theorem State.setCoreAt_pre (s : State) (k : Nat) (c : Core) : (s.setCoreAt k c).pre = s.pre := rfl
@[simp] theorem State.setCoreAt_fresh (s : State) (k : Nat) (c : Core) : (s.setCoreAt k c).fresh = s.fresh := rfl
@[simp] theorem State.setCoreAt_sendSeq (s : State) (k : Nat) (c : Core) : (s.setCoreAt k c).sendSeq = s.sendSeq := rfl

@[simp] theorem State.setCoreAt_task (s : State) (k : Nat) (c : Core) :
    (s.setCoreAt k c).task = { s.task with cores := SMap.put s.task.cores k c } := by simp [State.setCoreAt]
@[simp] theorem State.setCoreAt_region (s : State) (k : Nat) (c : Core) : (s.setCoreAt k c).region = s.region := by simp [State.region]

/-! ### at' -/

@[simp] theorem State.at'_ptc (s : State) (k : Nat) : (s.at' k).ptc = s.ptc := rfl
@[simp] theorem State.at'_slidemax (s : State) (k : Nat) : (s.at' k).slidemax = s.slidemax := rfl
@[simp] theorem State.at'_aging (s : State) (k : Nat) : (s.at' k).aging = s.aging := rfl
@[simp] theorem State.at'_pointer (s : State) (k : Nat) : (s.at' k).pointer = s.pointer := rfl
@[simp] theorem State.at'_nextSelect (s : State) (k : Nat) : (s.at' k).nextSelect = s.nextSelect := rfl
@[simp] theorem State.at'_bringUp (s : State) (k : Nat) : (s.at' k).bringUp = s.bringUp := rfl
@[simp] theorem State.at'_power (s : State) (k : Nat) : (s.at' k).power = s.power := rfl
@[simp] theorem State.at'_throttle (s : State) (k : Nat) : (s.at' k).throttle = s.throttle := rfl
@[simp] theorem State.at'_powerTarget (s : State) (k : Nat) : (s.at' k).powerTarget = s.powerTarget := rfl
@[simp] theorem State.at'_firmware (s : State) (k : Nat) : (s.at' k).firmware = s.firmware := rfl
@[simp] theorem State.at'_replReq (s : State) (k : Nat) : (s.at' k).replReq = s.replReq := rfl
@[simp] theorem State.at'_upstream (s : State) (k : Nat) : (s.at' k).upstream = s.upstream := rfl
@[simp] theorem State.at'_mem (s : State) (k : Nat) : (s.at' k).mem = s.mem := rfl
@[simp] theorem State.at'_poison (s : State) (k : Nat) : (s.at' k).poison = s.poison := rfl
@[simp] theorem State.at'_versions (s : State) (k : Nat) : (s.at' k).versions = s.versions := rfl
@[simp] theorem State.at'_copies (s : State) (k : Nat) : (s.at' k).copies = s.copies := rfl
@[simp] theorem State.at'_owners (s : State) (k : Nat) : (s.at' k).owners = s.owners := rfl
@[simp] theorem State.at'_allocated (s : State) (k : Nat) : (s.at' k).allocated = s.allocated := rfl
@[simp] theorem State.at'_deadKey (s : State) (k : Nat) : (s.at' k).deadKey = s.deadKey := rfl
@[simp] theorem State.at'_history (s : State) (k : Nat) : (s.at' k).history = s.history := rfl
@[simp] theorem State.at'_dies (s : State) (k : Nat) : (s.at' k).dies = s.dies := rfl
@[simp] theorem State.at'_ports (s : State) (k : Nat) : (s.at' k).ports = s.ports := rfl
@[simp] theorem State.at'_contexts (s : State) (k : Nat) : (s.at' k).contexts = s.contexts := rfl
@[simp] theorem State.at'_queues (s : State) (k : Nat) : (s.at' k).queues = s.queues := rfl
@[simp] theorem State.at'_fns (s : State) (k : Nat) : (s.at' k).fns = s.fns := rfl
@[simp] theorem State.at'_spdm (s : State) (k : Nat) : (s.at' k).spdm = s.spdm := rfl
@[simp] theorem State.at'_checkpoint (s : State) (k : Nat) : (s.at' k).checkpoint = s.checkpoint := rfl
@[simp] theorem State.at'_hedgePool (s : State) (k : Nat) : (s.at' k).hedgePool = s.hedgePool := rfl
@[simp] theorem State.at'_reserve (s : State) (k : Nat) : (s.at' k).reserve = s.reserve := rfl
@[simp] theorem State.at'_groups (s : State) (k : Nat) : (s.at' k).groups = s.groups := rfl
@[simp] theorem State.at'_tasks (s : State) (k : Nat) : (s.at' k).tasks = s.tasks := rfl
@[simp] theorem State.at'_nextTask (s : State) (k : Nat) : (s.at' k).nextTask = s.nextTask := rfl
@[simp] theorem State.at'_nextGroup (s : State) (k : Nat) : (s.at' k).nextGroup = s.nextGroup := rfl
@[simp] theorem State.at'_inbox (s : State) (k : Nat) : (s.at' k).inbox = s.inbox := rfl
@[simp] theorem State.at'_outbox (s : State) (k : Nat) : (s.at' k).outbox = s.outbox := rfl
@[simp] theorem State.at'_hostHeld (s : State) (k : Nat) : (s.at' k).hostHeld = s.hostHeld := rfl
@[simp] theorem State.at'_turn (s : State) (k : Nat) : (s.at' k).turn = s.turn := rfl
@[simp] theorem State.at'_pre (s : State) (k : Nat) : (s.at' k).pre = s.pre := rfl
@[simp] theorem State.at'_fresh (s : State) (k : Nat) : (s.at' k).fresh = s.fresh := rfl
@[simp] theorem State.at'_sendSeq (s : State) (k : Nat) : (s.at' k).sendSeq = s.sendSeq := rfl

@[simp] theorem State.at'_task (s : State) (k : Nat) : (s.at' k).task = s.task := rfl
@[simp] theorem State.at'_region (s : State) (k : Nat) : (s.at' k).region = s.region := rfl

/-! ### setCtx -/

@[simp] theorem State.setCtx_ptc (s : State) (c : Nat) (x : Context) : (s.setCtx c x).ptc = s.ptc := rfl
@[simp] theorem State.setCtx_slidemax (s : State) (c : Nat) (x : Context) : (s.setCtx c x).slidemax = s.slidemax := rfl
@[simp] theorem State.setCtx_aging (s : State) (c : Nat) (x : Context) : (s.setCtx c x).aging = s.aging := rfl
@[simp] theorem State.setCtx_pointer (s : State) (c : Nat) (x : Context) : (s.setCtx c x).pointer = s.pointer := rfl
@[simp] theorem State.setCtx_nextSelect (s : State) (c : Nat) (x : Context) : (s.setCtx c x).nextSelect = s.nextSelect := rfl
@[simp] theorem State.setCtx_bringUp (s : State) (c : Nat) (x : Context) : (s.setCtx c x).bringUp = s.bringUp := rfl
@[simp] theorem State.setCtx_power (s : State) (c : Nat) (x : Context) : (s.setCtx c x).power = s.power := rfl
@[simp] theorem State.setCtx_throttle (s : State) (c : Nat) (x : Context) : (s.setCtx c x).throttle = s.throttle := rfl
@[simp] theorem State.setCtx_powerTarget (s : State) (c : Nat) (x : Context) : (s.setCtx c x).powerTarget = s.powerTarget := rfl
@[simp] theorem State.setCtx_firmware (s : State) (c : Nat) (x : Context) : (s.setCtx c x).firmware = s.firmware := rfl
@[simp] theorem State.setCtx_replReq (s : State) (c : Nat) (x : Context) : (s.setCtx c x).replReq = s.replReq := rfl
@[simp] theorem State.setCtx_upstream (s : State) (c : Nat) (x : Context) : (s.setCtx c x).upstream = s.upstream := rfl
@[simp] theorem State.setCtx_mem (s : State) (c : Nat) (x : Context) : (s.setCtx c x).mem = s.mem := rfl
@[simp] theorem State.setCtx_poison (s : State) (c : Nat) (x : Context) : (s.setCtx c x).poison = s.poison := rfl
@[simp] theorem State.setCtx_versions (s : State) (c : Nat) (x : Context) : (s.setCtx c x).versions = s.versions := rfl
@[simp] theorem State.setCtx_copies (s : State) (c : Nat) (x : Context) : (s.setCtx c x).copies = s.copies := rfl
@[simp] theorem State.setCtx_owners (s : State) (c : Nat) (x : Context) : (s.setCtx c x).owners = s.owners := rfl
@[simp] theorem State.setCtx_allocated (s : State) (c : Nat) (x : Context) : (s.setCtx c x).allocated = s.allocated := rfl
@[simp] theorem State.setCtx_deadKey (s : State) (c : Nat) (x : Context) : (s.setCtx c x).deadKey = s.deadKey := rfl
@[simp] theorem State.setCtx_history (s : State) (c : Nat) (x : Context) : (s.setCtx c x).history = s.history := rfl
@[simp] theorem State.setCtx_dies (s : State) (c : Nat) (x : Context) : (s.setCtx c x).dies = s.dies := rfl
@[simp] theorem State.setCtx_ports (s : State) (c : Nat) (x : Context) : (s.setCtx c x).ports = s.ports := rfl
@[simp] theorem State.setCtx_queues (s : State) (c : Nat) (x : Context) : (s.setCtx c x).queues = s.queues := rfl
@[simp] theorem State.setCtx_fns (s : State) (c : Nat) (x : Context) : (s.setCtx c x).fns = s.fns := rfl
@[simp] theorem State.setCtx_spdm (s : State) (c : Nat) (x : Context) : (s.setCtx c x).spdm = s.spdm := rfl
@[simp] theorem State.setCtx_checkpoint (s : State) (c : Nat) (x : Context) : (s.setCtx c x).checkpoint = s.checkpoint := rfl
@[simp] theorem State.setCtx_hedgePool (s : State) (c : Nat) (x : Context) : (s.setCtx c x).hedgePool = s.hedgePool := rfl
@[simp] theorem State.setCtx_reserve (s : State) (c : Nat) (x : Context) : (s.setCtx c x).reserve = s.reserve := rfl
@[simp] theorem State.setCtx_groups (s : State) (c : Nat) (x : Context) : (s.setCtx c x).groups = s.groups := rfl
@[simp] theorem State.setCtx_tasks (s : State) (c : Nat) (x : Context) : (s.setCtx c x).tasks = s.tasks := rfl
@[simp] theorem State.setCtx_nextTask (s : State) (c : Nat) (x : Context) : (s.setCtx c x).nextTask = s.nextTask := rfl
@[simp] theorem State.setCtx_nextGroup (s : State) (c : Nat) (x : Context) : (s.setCtx c x).nextGroup = s.nextGroup := rfl
@[simp] theorem State.setCtx_inbox (s : State) (c : Nat) (x : Context) : (s.setCtx c x).inbox = s.inbox := rfl
@[simp] theorem State.setCtx_outbox (s : State) (c : Nat) (x : Context) : (s.setCtx c x).outbox = s.outbox := rfl
@[simp] theorem State.setCtx_hostHeld (s : State) (c : Nat) (x : Context) : (s.setCtx c x).hostHeld = s.hostHeld := rfl
@[simp] theorem State.setCtx_cur (s : State) (c : Nat) (x : Context) : (s.setCtx c x).cur = s.cur := rfl
@[simp] theorem State.setCtx_turn (s : State) (c : Nat) (x : Context) : (s.setCtx c x).turn = s.turn := rfl
@[simp] theorem State.setCtx_pre (s : State) (c : Nat) (x : Context) : (s.setCtx c x).pre = s.pre := rfl
@[simp] theorem State.setCtx_fresh (s : State) (c : Nat) (x : Context) : (s.setCtx c x).fresh = s.fresh := rfl
@[simp] theorem State.setCtx_sendSeq (s : State) (c : Nat) (x : Context) : (s.setCtx c x).sendSeq = s.sendSeq := rfl

@[simp] theorem State.setCtx_ctx (s : State) (c : Nat) (x : Context) : (s.setCtx c x).ctx c = x := by
  simp [State.ctx, State.setCtx]
@[simp] theorem State.setCtx_task (s : State) (c : Nat) (x : Context) : (s.setCtx c x).task = s.task := rfl

/-! ### setDie -/

@[simp] theorem State.setDie_ptc (s : State) (d : Nat) (v : Die) : (s.setDie d v).ptc = s.ptc := rfl
@[simp] theorem State.setDie_slidemax (s : State) (d : Nat) (v : Die) : (s.setDie d v).slidemax = s.slidemax := rfl
@[simp] theorem State.setDie_aging (s : State) (d : Nat) (v : Die) : (s.setDie d v).aging = s.aging := rfl
@[simp] theorem State.setDie_pointer (s : State) (d : Nat) (v : Die) : (s.setDie d v).pointer = s.pointer := rfl
@[simp] theorem State.setDie_nextSelect (s : State) (d : Nat) (v : Die) : (s.setDie d v).nextSelect = s.nextSelect := rfl
@[simp] theorem State.setDie_bringUp (s : State) (d : Nat) (v : Die) : (s.setDie d v).bringUp = s.bringUp := rfl
@[simp] theorem State.setDie_power (s : State) (d : Nat) (v : Die) : (s.setDie d v).power = s.power := rfl
@[simp] theorem State.setDie_throttle (s : State) (d : Nat) (v : Die) : (s.setDie d v).throttle = s.throttle := rfl
@[simp] theorem State.setDie_powerTarget (s : State) (d : Nat) (v : Die) : (s.setDie d v).powerTarget = s.powerTarget := rfl
@[simp] theorem State.setDie_firmware (s : State) (d : Nat) (v : Die) : (s.setDie d v).firmware = s.firmware := rfl
@[simp] theorem State.setDie_replReq (s : State) (d : Nat) (v : Die) : (s.setDie d v).replReq = s.replReq := rfl
@[simp] theorem State.setDie_upstream (s : State) (d : Nat) (v : Die) : (s.setDie d v).upstream = s.upstream := rfl
@[simp] theorem State.setDie_mem (s : State) (d : Nat) (v : Die) : (s.setDie d v).mem = s.mem := rfl
@[simp] theorem State.setDie_poison (s : State) (d : Nat) (v : Die) : (s.setDie d v).poison = s.poison := rfl
@[simp] theorem State.setDie_versions (s : State) (d : Nat) (v : Die) : (s.setDie d v).versions = s.versions := rfl
@[simp] theorem State.setDie_copies (s : State) (d : Nat) (v : Die) : (s.setDie d v).copies = s.copies := rfl
@[simp] theorem State.setDie_owners (s : State) (d : Nat) (v : Die) : (s.setDie d v).owners = s.owners := rfl
@[simp] theorem State.setDie_allocated (s : State) (d : Nat) (v : Die) : (s.setDie d v).allocated = s.allocated := rfl
@[simp] theorem State.setDie_deadKey (s : State) (d : Nat) (v : Die) : (s.setDie d v).deadKey = s.deadKey := rfl
@[simp] theorem State.setDie_history (s : State) (d : Nat) (v : Die) : (s.setDie d v).history = s.history := rfl
@[simp] theorem State.setDie_ports (s : State) (d : Nat) (v : Die) : (s.setDie d v).ports = s.ports := rfl
@[simp] theorem State.setDie_contexts (s : State) (d : Nat) (v : Die) : (s.setDie d v).contexts = s.contexts := rfl
@[simp] theorem State.setDie_queues (s : State) (d : Nat) (v : Die) : (s.setDie d v).queues = s.queues := rfl
@[simp] theorem State.setDie_fns (s : State) (d : Nat) (v : Die) : (s.setDie d v).fns = s.fns := rfl
@[simp] theorem State.setDie_spdm (s : State) (d : Nat) (v : Die) : (s.setDie d v).spdm = s.spdm := rfl
@[simp] theorem State.setDie_checkpoint (s : State) (d : Nat) (v : Die) : (s.setDie d v).checkpoint = s.checkpoint := rfl
@[simp] theorem State.setDie_hedgePool (s : State) (d : Nat) (v : Die) : (s.setDie d v).hedgePool = s.hedgePool := rfl
@[simp] theorem State.setDie_reserve (s : State) (d : Nat) (v : Die) : (s.setDie d v).reserve = s.reserve := rfl
@[simp] theorem State.setDie_groups (s : State) (d : Nat) (v : Die) : (s.setDie d v).groups = s.groups := rfl
@[simp] theorem State.setDie_tasks (s : State) (d : Nat) (v : Die) : (s.setDie d v).tasks = s.tasks := rfl
@[simp] theorem State.setDie_nextTask (s : State) (d : Nat) (v : Die) : (s.setDie d v).nextTask = s.nextTask := rfl
@[simp] theorem State.setDie_nextGroup (s : State) (d : Nat) (v : Die) : (s.setDie d v).nextGroup = s.nextGroup := rfl
@[simp] theorem State.setDie_inbox (s : State) (d : Nat) (v : Die) : (s.setDie d v).inbox = s.inbox := rfl
@[simp] theorem State.setDie_outbox (s : State) (d : Nat) (v : Die) : (s.setDie d v).outbox = s.outbox := rfl
@[simp] theorem State.setDie_hostHeld (s : State) (d : Nat) (v : Die) : (s.setDie d v).hostHeld = s.hostHeld := rfl
@[simp] theorem State.setDie_cur (s : State) (d : Nat) (v : Die) : (s.setDie d v).cur = s.cur := rfl
@[simp] theorem State.setDie_turn (s : State) (d : Nat) (v : Die) : (s.setDie d v).turn = s.turn := rfl
@[simp] theorem State.setDie_pre (s : State) (d : Nat) (v : Die) : (s.setDie d v).pre = s.pre := rfl
@[simp] theorem State.setDie_fresh (s : State) (d : Nat) (v : Die) : (s.setDie d v).fresh = s.fresh := rfl
@[simp] theorem State.setDie_sendSeq (s : State) (d : Nat) (v : Die) : (s.setDie d v).sendSeq = s.sendSeq := rfl

@[simp] theorem State.setDie_die (s : State) (d : Nat) (v : Die) : (s.setDie d v).die d = v := by simp [State.die, State.setDie]
@[simp] theorem State.setDie_task (s : State) (d : Nat) (v : Die) : (s.setDie d v).task = s.task := rfl

/-! ### setQueue -/

@[simp] theorem State.setQueue_ptc (s : State) (q : Nat) (v : Queue) : (s.setQueue q v).ptc = s.ptc := rfl
@[simp] theorem State.setQueue_slidemax (s : State) (q : Nat) (v : Queue) : (s.setQueue q v).slidemax = s.slidemax := rfl
@[simp] theorem State.setQueue_aging (s : State) (q : Nat) (v : Queue) : (s.setQueue q v).aging = s.aging := rfl
@[simp] theorem State.setQueue_pointer (s : State) (q : Nat) (v : Queue) : (s.setQueue q v).pointer = s.pointer := rfl
@[simp] theorem State.setQueue_nextSelect (s : State) (q : Nat) (v : Queue) : (s.setQueue q v).nextSelect = s.nextSelect := rfl
@[simp] theorem State.setQueue_bringUp (s : State) (q : Nat) (v : Queue) : (s.setQueue q v).bringUp = s.bringUp := rfl
@[simp] theorem State.setQueue_power (s : State) (q : Nat) (v : Queue) : (s.setQueue q v).power = s.power := rfl
@[simp] theorem State.setQueue_throttle (s : State) (q : Nat) (v : Queue) : (s.setQueue q v).throttle = s.throttle := rfl
@[simp] theorem State.setQueue_powerTarget (s : State) (q : Nat) (v : Queue) : (s.setQueue q v).powerTarget = s.powerTarget := rfl
@[simp] theorem State.setQueue_firmware (s : State) (q : Nat) (v : Queue) : (s.setQueue q v).firmware = s.firmware := rfl
@[simp] theorem State.setQueue_replReq (s : State) (q : Nat) (v : Queue) : (s.setQueue q v).replReq = s.replReq := rfl
@[simp] theorem State.setQueue_upstream (s : State) (q : Nat) (v : Queue) : (s.setQueue q v).upstream = s.upstream := rfl
@[simp] theorem State.setQueue_mem (s : State) (q : Nat) (v : Queue) : (s.setQueue q v).mem = s.mem := rfl
@[simp] theorem State.setQueue_poison (s : State) (q : Nat) (v : Queue) : (s.setQueue q v).poison = s.poison := rfl
@[simp] theorem State.setQueue_versions (s : State) (q : Nat) (v : Queue) : (s.setQueue q v).versions = s.versions := rfl
@[simp] theorem State.setQueue_copies (s : State) (q : Nat) (v : Queue) : (s.setQueue q v).copies = s.copies := rfl
@[simp] theorem State.setQueue_owners (s : State) (q : Nat) (v : Queue) : (s.setQueue q v).owners = s.owners := rfl
@[simp] theorem State.setQueue_allocated (s : State) (q : Nat) (v : Queue) : (s.setQueue q v).allocated = s.allocated := rfl
@[simp] theorem State.setQueue_deadKey (s : State) (q : Nat) (v : Queue) : (s.setQueue q v).deadKey = s.deadKey := rfl
@[simp] theorem State.setQueue_history (s : State) (q : Nat) (v : Queue) : (s.setQueue q v).history = s.history := rfl
@[simp] theorem State.setQueue_dies (s : State) (q : Nat) (v : Queue) : (s.setQueue q v).dies = s.dies := rfl
@[simp] theorem State.setQueue_ports (s : State) (q : Nat) (v : Queue) : (s.setQueue q v).ports = s.ports := rfl
@[simp] theorem State.setQueue_contexts (s : State) (q : Nat) (v : Queue) : (s.setQueue q v).contexts = s.contexts := rfl
@[simp] theorem State.setQueue_fns (s : State) (q : Nat) (v : Queue) : (s.setQueue q v).fns = s.fns := rfl
@[simp] theorem State.setQueue_spdm (s : State) (q : Nat) (v : Queue) : (s.setQueue q v).spdm = s.spdm := rfl
@[simp] theorem State.setQueue_checkpoint (s : State) (q : Nat) (v : Queue) : (s.setQueue q v).checkpoint = s.checkpoint := rfl
@[simp] theorem State.setQueue_hedgePool (s : State) (q : Nat) (v : Queue) : (s.setQueue q v).hedgePool = s.hedgePool := rfl
@[simp] theorem State.setQueue_reserve (s : State) (q : Nat) (v : Queue) : (s.setQueue q v).reserve = s.reserve := rfl
@[simp] theorem State.setQueue_groups (s : State) (q : Nat) (v : Queue) : (s.setQueue q v).groups = s.groups := rfl
@[simp] theorem State.setQueue_tasks (s : State) (q : Nat) (v : Queue) : (s.setQueue q v).tasks = s.tasks := rfl
@[simp] theorem State.setQueue_nextTask (s : State) (q : Nat) (v : Queue) : (s.setQueue q v).nextTask = s.nextTask := rfl
@[simp] theorem State.setQueue_nextGroup (s : State) (q : Nat) (v : Queue) : (s.setQueue q v).nextGroup = s.nextGroup := rfl
@[simp] theorem State.setQueue_inbox (s : State) (q : Nat) (v : Queue) : (s.setQueue q v).inbox = s.inbox := rfl
@[simp] theorem State.setQueue_outbox (s : State) (q : Nat) (v : Queue) : (s.setQueue q v).outbox = s.outbox := rfl
@[simp] theorem State.setQueue_hostHeld (s : State) (q : Nat) (v : Queue) : (s.setQueue q v).hostHeld = s.hostHeld := rfl
@[simp] theorem State.setQueue_cur (s : State) (q : Nat) (v : Queue) : (s.setQueue q v).cur = s.cur := rfl
@[simp] theorem State.setQueue_turn (s : State) (q : Nat) (v : Queue) : (s.setQueue q v).turn = s.turn := rfl
@[simp] theorem State.setQueue_pre (s : State) (q : Nat) (v : Queue) : (s.setQueue q v).pre = s.pre := rfl
@[simp] theorem State.setQueue_fresh (s : State) (q : Nat) (v : Queue) : (s.setQueue q v).fresh = s.fresh := rfl
@[simp] theorem State.setQueue_sendSeq (s : State) (q : Nat) (v : Queue) : (s.setQueue q v).sendSeq = s.sendSeq := rfl

/-! ### setGroup -/

@[simp] theorem State.setGroup_ptc (s : State) (g : Nat) (v : Group) : (s.setGroup g v).ptc = s.ptc := rfl
@[simp] theorem State.setGroup_slidemax (s : State) (g : Nat) (v : Group) : (s.setGroup g v).slidemax = s.slidemax := rfl
@[simp] theorem State.setGroup_aging (s : State) (g : Nat) (v : Group) : (s.setGroup g v).aging = s.aging := rfl
@[simp] theorem State.setGroup_pointer (s : State) (g : Nat) (v : Group) : (s.setGroup g v).pointer = s.pointer := rfl
@[simp] theorem State.setGroup_nextSelect (s : State) (g : Nat) (v : Group) : (s.setGroup g v).nextSelect = s.nextSelect := rfl
@[simp] theorem State.setGroup_bringUp (s : State) (g : Nat) (v : Group) : (s.setGroup g v).bringUp = s.bringUp := rfl
@[simp] theorem State.setGroup_power (s : State) (g : Nat) (v : Group) : (s.setGroup g v).power = s.power := rfl
@[simp] theorem State.setGroup_throttle (s : State) (g : Nat) (v : Group) : (s.setGroup g v).throttle = s.throttle := rfl
@[simp] theorem State.setGroup_powerTarget (s : State) (g : Nat) (v : Group) : (s.setGroup g v).powerTarget = s.powerTarget := rfl
@[simp] theorem State.setGroup_firmware (s : State) (g : Nat) (v : Group) : (s.setGroup g v).firmware = s.firmware := rfl
@[simp] theorem State.setGroup_replReq (s : State) (g : Nat) (v : Group) : (s.setGroup g v).replReq = s.replReq := rfl
@[simp] theorem State.setGroup_upstream (s : State) (g : Nat) (v : Group) : (s.setGroup g v).upstream = s.upstream := rfl
@[simp] theorem State.setGroup_mem (s : State) (g : Nat) (v : Group) : (s.setGroup g v).mem = s.mem := rfl
@[simp] theorem State.setGroup_poison (s : State) (g : Nat) (v : Group) : (s.setGroup g v).poison = s.poison := rfl
@[simp] theorem State.setGroup_versions (s : State) (g : Nat) (v : Group) : (s.setGroup g v).versions = s.versions := rfl
@[simp] theorem State.setGroup_copies (s : State) (g : Nat) (v : Group) : (s.setGroup g v).copies = s.copies := rfl
@[simp] theorem State.setGroup_owners (s : State) (g : Nat) (v : Group) : (s.setGroup g v).owners = s.owners := rfl
@[simp] theorem State.setGroup_allocated (s : State) (g : Nat) (v : Group) : (s.setGroup g v).allocated = s.allocated := rfl
@[simp] theorem State.setGroup_deadKey (s : State) (g : Nat) (v : Group) : (s.setGroup g v).deadKey = s.deadKey := rfl
@[simp] theorem State.setGroup_history (s : State) (g : Nat) (v : Group) : (s.setGroup g v).history = s.history := rfl
@[simp] theorem State.setGroup_dies (s : State) (g : Nat) (v : Group) : (s.setGroup g v).dies = s.dies := rfl
@[simp] theorem State.setGroup_ports (s : State) (g : Nat) (v : Group) : (s.setGroup g v).ports = s.ports := rfl
@[simp] theorem State.setGroup_contexts (s : State) (g : Nat) (v : Group) : (s.setGroup g v).contexts = s.contexts := rfl
@[simp] theorem State.setGroup_queues (s : State) (g : Nat) (v : Group) : (s.setGroup g v).queues = s.queues := rfl
@[simp] theorem State.setGroup_fns (s : State) (g : Nat) (v : Group) : (s.setGroup g v).fns = s.fns := rfl
@[simp] theorem State.setGroup_spdm (s : State) (g : Nat) (v : Group) : (s.setGroup g v).spdm = s.spdm := rfl
@[simp] theorem State.setGroup_checkpoint (s : State) (g : Nat) (v : Group) : (s.setGroup g v).checkpoint = s.checkpoint := rfl
@[simp] theorem State.setGroup_hedgePool (s : State) (g : Nat) (v : Group) : (s.setGroup g v).hedgePool = s.hedgePool := rfl
@[simp] theorem State.setGroup_reserve (s : State) (g : Nat) (v : Group) : (s.setGroup g v).reserve = s.reserve := rfl
@[simp] theorem State.setGroup_tasks (s : State) (g : Nat) (v : Group) : (s.setGroup g v).tasks = s.tasks := rfl
@[simp] theorem State.setGroup_nextTask (s : State) (g : Nat) (v : Group) : (s.setGroup g v).nextTask = s.nextTask := rfl
@[simp] theorem State.setGroup_nextGroup (s : State) (g : Nat) (v : Group) : (s.setGroup g v).nextGroup = s.nextGroup := rfl
@[simp] theorem State.setGroup_inbox (s : State) (g : Nat) (v : Group) : (s.setGroup g v).inbox = s.inbox := rfl
@[simp] theorem State.setGroup_outbox (s : State) (g : Nat) (v : Group) : (s.setGroup g v).outbox = s.outbox := rfl
@[simp] theorem State.setGroup_hostHeld (s : State) (g : Nat) (v : Group) : (s.setGroup g v).hostHeld = s.hostHeld := rfl
@[simp] theorem State.setGroup_cur (s : State) (g : Nat) (v : Group) : (s.setGroup g v).cur = s.cur := rfl
@[simp] theorem State.setGroup_turn (s : State) (g : Nat) (v : Group) : (s.setGroup g v).turn = s.turn := rfl
@[simp] theorem State.setGroup_pre (s : State) (g : Nat) (v : Group) : (s.setGroup g v).pre = s.pre := rfl
@[simp] theorem State.setGroup_fresh (s : State) (g : Nat) (v : Group) : (s.setGroup g v).fresh = s.fresh := rfl
@[simp] theorem State.setGroup_sendSeq (s : State) (g : Nat) (v : Group) : (s.setGroup g v).sendSeq = s.sendSeq := rfl

/-! ### setFn -/

@[simp] theorem State.setFn_ptc (s : State) (k : Nat) (f : HostFn) : (s.setFn k f).ptc = s.ptc := rfl
@[simp] theorem State.setFn_slidemax (s : State) (k : Nat) (f : HostFn) : (s.setFn k f).slidemax = s.slidemax := rfl
@[simp] theorem State.setFn_aging (s : State) (k : Nat) (f : HostFn) : (s.setFn k f).aging = s.aging := rfl
@[simp] theorem State.setFn_pointer (s : State) (k : Nat) (f : HostFn) : (s.setFn k f).pointer = s.pointer := rfl
@[simp] theorem State.setFn_nextSelect (s : State) (k : Nat) (f : HostFn) : (s.setFn k f).nextSelect = s.nextSelect := rfl
@[simp] theorem State.setFn_bringUp (s : State) (k : Nat) (f : HostFn) : (s.setFn k f).bringUp = s.bringUp := rfl
@[simp] theorem State.setFn_power (s : State) (k : Nat) (f : HostFn) : (s.setFn k f).power = s.power := rfl
@[simp] theorem State.setFn_throttle (s : State) (k : Nat) (f : HostFn) : (s.setFn k f).throttle = s.throttle := rfl
@[simp] theorem State.setFn_powerTarget (s : State) (k : Nat) (f : HostFn) : (s.setFn k f).powerTarget = s.powerTarget := rfl
@[simp] theorem State.setFn_firmware (s : State) (k : Nat) (f : HostFn) : (s.setFn k f).firmware = s.firmware := rfl
@[simp] theorem State.setFn_replReq (s : State) (k : Nat) (f : HostFn) : (s.setFn k f).replReq = s.replReq := rfl
@[simp] theorem State.setFn_upstream (s : State) (k : Nat) (f : HostFn) : (s.setFn k f).upstream = s.upstream := rfl
@[simp] theorem State.setFn_mem (s : State) (k : Nat) (f : HostFn) : (s.setFn k f).mem = s.mem := rfl
@[simp] theorem State.setFn_poison (s : State) (k : Nat) (f : HostFn) : (s.setFn k f).poison = s.poison := rfl
@[simp] theorem State.setFn_versions (s : State) (k : Nat) (f : HostFn) : (s.setFn k f).versions = s.versions := rfl
@[simp] theorem State.setFn_copies (s : State) (k : Nat) (f : HostFn) : (s.setFn k f).copies = s.copies := rfl
@[simp] theorem State.setFn_owners (s : State) (k : Nat) (f : HostFn) : (s.setFn k f).owners = s.owners := rfl
@[simp] theorem State.setFn_allocated (s : State) (k : Nat) (f : HostFn) : (s.setFn k f).allocated = s.allocated := rfl
@[simp] theorem State.setFn_deadKey (s : State) (k : Nat) (f : HostFn) : (s.setFn k f).deadKey = s.deadKey := rfl
@[simp] theorem State.setFn_history (s : State) (k : Nat) (f : HostFn) : (s.setFn k f).history = s.history := rfl
@[simp] theorem State.setFn_dies (s : State) (k : Nat) (f : HostFn) : (s.setFn k f).dies = s.dies := rfl
@[simp] theorem State.setFn_ports (s : State) (k : Nat) (f : HostFn) : (s.setFn k f).ports = s.ports := rfl
@[simp] theorem State.setFn_contexts (s : State) (k : Nat) (f : HostFn) : (s.setFn k f).contexts = s.contexts := rfl
@[simp] theorem State.setFn_queues (s : State) (k : Nat) (f : HostFn) : (s.setFn k f).queues = s.queues := rfl
@[simp] theorem State.setFn_spdm (s : State) (k : Nat) (f : HostFn) : (s.setFn k f).spdm = s.spdm := rfl
@[simp] theorem State.setFn_checkpoint (s : State) (k : Nat) (f : HostFn) : (s.setFn k f).checkpoint = s.checkpoint := rfl
@[simp] theorem State.setFn_hedgePool (s : State) (k : Nat) (f : HostFn) : (s.setFn k f).hedgePool = s.hedgePool := rfl
@[simp] theorem State.setFn_reserve (s : State) (k : Nat) (f : HostFn) : (s.setFn k f).reserve = s.reserve := rfl
@[simp] theorem State.setFn_groups (s : State) (k : Nat) (f : HostFn) : (s.setFn k f).groups = s.groups := rfl
@[simp] theorem State.setFn_tasks (s : State) (k : Nat) (f : HostFn) : (s.setFn k f).tasks = s.tasks := rfl
@[simp] theorem State.setFn_nextTask (s : State) (k : Nat) (f : HostFn) : (s.setFn k f).nextTask = s.nextTask := rfl
@[simp] theorem State.setFn_nextGroup (s : State) (k : Nat) (f : HostFn) : (s.setFn k f).nextGroup = s.nextGroup := rfl
@[simp] theorem State.setFn_inbox (s : State) (k : Nat) (f : HostFn) : (s.setFn k f).inbox = s.inbox := rfl
@[simp] theorem State.setFn_outbox (s : State) (k : Nat) (f : HostFn) : (s.setFn k f).outbox = s.outbox := rfl
@[simp] theorem State.setFn_hostHeld (s : State) (k : Nat) (f : HostFn) : (s.setFn k f).hostHeld = s.hostHeld := rfl
@[simp] theorem State.setFn_cur (s : State) (k : Nat) (f : HostFn) : (s.setFn k f).cur = s.cur := rfl
@[simp] theorem State.setFn_turn (s : State) (k : Nat) (f : HostFn) : (s.setFn k f).turn = s.turn := rfl
@[simp] theorem State.setFn_pre (s : State) (k : Nat) (f : HostFn) : (s.setFn k f).pre = s.pre := rfl
@[simp] theorem State.setFn_fresh (s : State) (k : Nat) (f : HostFn) : (s.setFn k f).fresh = s.fresh := rfl
@[simp] theorem State.setFn_sendSeq (s : State) (k : Nat) (f : HostFn) : (s.setFn k f).sendSeq = s.sendSeq := rfl

/-! ### setPort -/

@[simp] theorem State.setPort_ptc (s : State) (p : Nat) (v : Port) : (s.setPort p v).ptc = s.ptc := rfl
@[simp] theorem State.setPort_slidemax (s : State) (p : Nat) (v : Port) : (s.setPort p v).slidemax = s.slidemax := rfl
@[simp] theorem State.setPort_aging (s : State) (p : Nat) (v : Port) : (s.setPort p v).aging = s.aging := rfl
@[simp] theorem State.setPort_pointer (s : State) (p : Nat) (v : Port) : (s.setPort p v).pointer = s.pointer := rfl
@[simp] theorem State.setPort_nextSelect (s : State) (p : Nat) (v : Port) : (s.setPort p v).nextSelect = s.nextSelect := rfl
@[simp] theorem State.setPort_bringUp (s : State) (p : Nat) (v : Port) : (s.setPort p v).bringUp = s.bringUp := rfl
@[simp] theorem State.setPort_power (s : State) (p : Nat) (v : Port) : (s.setPort p v).power = s.power := rfl
@[simp] theorem State.setPort_throttle (s : State) (p : Nat) (v : Port) : (s.setPort p v).throttle = s.throttle := rfl
@[simp] theorem State.setPort_powerTarget (s : State) (p : Nat) (v : Port) : (s.setPort p v).powerTarget = s.powerTarget := rfl
@[simp] theorem State.setPort_firmware (s : State) (p : Nat) (v : Port) : (s.setPort p v).firmware = s.firmware := rfl
@[simp] theorem State.setPort_replReq (s : State) (p : Nat) (v : Port) : (s.setPort p v).replReq = s.replReq := rfl
@[simp] theorem State.setPort_upstream (s : State) (p : Nat) (v : Port) : (s.setPort p v).upstream = s.upstream := rfl
@[simp] theorem State.setPort_mem (s : State) (p : Nat) (v : Port) : (s.setPort p v).mem = s.mem := rfl
@[simp] theorem State.setPort_poison (s : State) (p : Nat) (v : Port) : (s.setPort p v).poison = s.poison := rfl
@[simp] theorem State.setPort_versions (s : State) (p : Nat) (v : Port) : (s.setPort p v).versions = s.versions := rfl
@[simp] theorem State.setPort_copies (s : State) (p : Nat) (v : Port) : (s.setPort p v).copies = s.copies := rfl
@[simp] theorem State.setPort_owners (s : State) (p : Nat) (v : Port) : (s.setPort p v).owners = s.owners := rfl
@[simp] theorem State.setPort_allocated (s : State) (p : Nat) (v : Port) : (s.setPort p v).allocated = s.allocated := rfl
@[simp] theorem State.setPort_deadKey (s : State) (p : Nat) (v : Port) : (s.setPort p v).deadKey = s.deadKey := rfl
@[simp] theorem State.setPort_history (s : State) (p : Nat) (v : Port) : (s.setPort p v).history = s.history := rfl
@[simp] theorem State.setPort_dies (s : State) (p : Nat) (v : Port) : (s.setPort p v).dies = s.dies := rfl
@[simp] theorem State.setPort_contexts (s : State) (p : Nat) (v : Port) : (s.setPort p v).contexts = s.contexts := rfl
@[simp] theorem State.setPort_queues (s : State) (p : Nat) (v : Port) : (s.setPort p v).queues = s.queues := rfl
@[simp] theorem State.setPort_fns (s : State) (p : Nat) (v : Port) : (s.setPort p v).fns = s.fns := rfl
@[simp] theorem State.setPort_spdm (s : State) (p : Nat) (v : Port) : (s.setPort p v).spdm = s.spdm := rfl
@[simp] theorem State.setPort_checkpoint (s : State) (p : Nat) (v : Port) : (s.setPort p v).checkpoint = s.checkpoint := rfl
@[simp] theorem State.setPort_hedgePool (s : State) (p : Nat) (v : Port) : (s.setPort p v).hedgePool = s.hedgePool := rfl
@[simp] theorem State.setPort_reserve (s : State) (p : Nat) (v : Port) : (s.setPort p v).reserve = s.reserve := rfl
@[simp] theorem State.setPort_groups (s : State) (p : Nat) (v : Port) : (s.setPort p v).groups = s.groups := rfl
@[simp] theorem State.setPort_tasks (s : State) (p : Nat) (v : Port) : (s.setPort p v).tasks = s.tasks := rfl
@[simp] theorem State.setPort_nextTask (s : State) (p : Nat) (v : Port) : (s.setPort p v).nextTask = s.nextTask := rfl
@[simp] theorem State.setPort_nextGroup (s : State) (p : Nat) (v : Port) : (s.setPort p v).nextGroup = s.nextGroup := rfl
@[simp] theorem State.setPort_inbox (s : State) (p : Nat) (v : Port) : (s.setPort p v).inbox = s.inbox := rfl
@[simp] theorem State.setPort_outbox (s : State) (p : Nat) (v : Port) : (s.setPort p v).outbox = s.outbox := rfl
@[simp] theorem State.setPort_hostHeld (s : State) (p : Nat) (v : Port) : (s.setPort p v).hostHeld = s.hostHeld := rfl
@[simp] theorem State.setPort_cur (s : State) (p : Nat) (v : Port) : (s.setPort p v).cur = s.cur := rfl
@[simp] theorem State.setPort_turn (s : State) (p : Nat) (v : Port) : (s.setPort p v).turn = s.turn := rfl
@[simp] theorem State.setPort_pre (s : State) (p : Nat) (v : Port) : (s.setPort p v).pre = s.pre := rfl
@[simp] theorem State.setPort_fresh (s : State) (p : Nat) (v : Port) : (s.setPort p v).fresh = s.fresh := rfl
@[simp] theorem State.setPort_sendSeq (s : State) (p : Nat) (v : Port) : (s.setPort p v).sendSeq = s.sendSeq := rfl

/-! ### setResponder -/

@[simp] theorem State.setResponder_ptc (s : State) (r : Nat) (v : Spdm) : (s.setResponder r v).ptc = s.ptc := rfl
@[simp] theorem State.setResponder_slidemax (s : State) (r : Nat) (v : Spdm) : (s.setResponder r v).slidemax = s.slidemax := rfl
@[simp] theorem State.setResponder_aging (s : State) (r : Nat) (v : Spdm) : (s.setResponder r v).aging = s.aging := rfl
@[simp] theorem State.setResponder_pointer (s : State) (r : Nat) (v : Spdm) : (s.setResponder r v).pointer = s.pointer := rfl
@[simp] theorem State.setResponder_nextSelect (s : State) (r : Nat) (v : Spdm) : (s.setResponder r v).nextSelect = s.nextSelect := rfl
@[simp] theorem State.setResponder_bringUp (s : State) (r : Nat) (v : Spdm) : (s.setResponder r v).bringUp = s.bringUp := rfl
@[simp] theorem State.setResponder_power (s : State) (r : Nat) (v : Spdm) : (s.setResponder r v).power = s.power := rfl
@[simp] theorem State.setResponder_throttle (s : State) (r : Nat) (v : Spdm) : (s.setResponder r v).throttle = s.throttle := rfl
@[simp] theorem State.setResponder_powerTarget (s : State) (r : Nat) (v : Spdm) : (s.setResponder r v).powerTarget = s.powerTarget := rfl
@[simp] theorem State.setResponder_firmware (s : State) (r : Nat) (v : Spdm) : (s.setResponder r v).firmware = s.firmware := rfl
@[simp] theorem State.setResponder_replReq (s : State) (r : Nat) (v : Spdm) : (s.setResponder r v).replReq = s.replReq := rfl
@[simp] theorem State.setResponder_upstream (s : State) (r : Nat) (v : Spdm) : (s.setResponder r v).upstream = s.upstream := rfl
@[simp] theorem State.setResponder_mem (s : State) (r : Nat) (v : Spdm) : (s.setResponder r v).mem = s.mem := rfl
@[simp] theorem State.setResponder_poison (s : State) (r : Nat) (v : Spdm) : (s.setResponder r v).poison = s.poison := rfl
@[simp] theorem State.setResponder_versions (s : State) (r : Nat) (v : Spdm) : (s.setResponder r v).versions = s.versions := rfl
@[simp] theorem State.setResponder_copies (s : State) (r : Nat) (v : Spdm) : (s.setResponder r v).copies = s.copies := rfl
@[simp] theorem State.setResponder_owners (s : State) (r : Nat) (v : Spdm) : (s.setResponder r v).owners = s.owners := rfl
@[simp] theorem State.setResponder_allocated (s : State) (r : Nat) (v : Spdm) : (s.setResponder r v).allocated = s.allocated := rfl
@[simp] theorem State.setResponder_deadKey (s : State) (r : Nat) (v : Spdm) : (s.setResponder r v).deadKey = s.deadKey := rfl
@[simp] theorem State.setResponder_history (s : State) (r : Nat) (v : Spdm) : (s.setResponder r v).history = s.history := rfl
@[simp] theorem State.setResponder_dies (s : State) (r : Nat) (v : Spdm) : (s.setResponder r v).dies = s.dies := rfl
@[simp] theorem State.setResponder_ports (s : State) (r : Nat) (v : Spdm) : (s.setResponder r v).ports = s.ports := rfl
@[simp] theorem State.setResponder_contexts (s : State) (r : Nat) (v : Spdm) : (s.setResponder r v).contexts = s.contexts := rfl
@[simp] theorem State.setResponder_queues (s : State) (r : Nat) (v : Spdm) : (s.setResponder r v).queues = s.queues := rfl
@[simp] theorem State.setResponder_fns (s : State) (r : Nat) (v : Spdm) : (s.setResponder r v).fns = s.fns := rfl
@[simp] theorem State.setResponder_checkpoint (s : State) (r : Nat) (v : Spdm) : (s.setResponder r v).checkpoint = s.checkpoint := rfl
@[simp] theorem State.setResponder_hedgePool (s : State) (r : Nat) (v : Spdm) : (s.setResponder r v).hedgePool = s.hedgePool := rfl
@[simp] theorem State.setResponder_reserve (s : State) (r : Nat) (v : Spdm) : (s.setResponder r v).reserve = s.reserve := rfl
@[simp] theorem State.setResponder_groups (s : State) (r : Nat) (v : Spdm) : (s.setResponder r v).groups = s.groups := rfl
@[simp] theorem State.setResponder_tasks (s : State) (r : Nat) (v : Spdm) : (s.setResponder r v).tasks = s.tasks := rfl
@[simp] theorem State.setResponder_nextTask (s : State) (r : Nat) (v : Spdm) : (s.setResponder r v).nextTask = s.nextTask := rfl
@[simp] theorem State.setResponder_nextGroup (s : State) (r : Nat) (v : Spdm) : (s.setResponder r v).nextGroup = s.nextGroup := rfl
@[simp] theorem State.setResponder_inbox (s : State) (r : Nat) (v : Spdm) : (s.setResponder r v).inbox = s.inbox := rfl
@[simp] theorem State.setResponder_outbox (s : State) (r : Nat) (v : Spdm) : (s.setResponder r v).outbox = s.outbox := rfl
@[simp] theorem State.setResponder_hostHeld (s : State) (r : Nat) (v : Spdm) : (s.setResponder r v).hostHeld = s.hostHeld := rfl
@[simp] theorem State.setResponder_cur (s : State) (r : Nat) (v : Spdm) : (s.setResponder r v).cur = s.cur := rfl
@[simp] theorem State.setResponder_turn (s : State) (r : Nat) (v : Spdm) : (s.setResponder r v).turn = s.turn := rfl
@[simp] theorem State.setResponder_pre (s : State) (r : Nat) (v : Spdm) : (s.setResponder r v).pre = s.pre := rfl
@[simp] theorem State.setResponder_fresh (s : State) (r : Nat) (v : Spdm) : (s.setResponder r v).fresh = s.fresh := rfl
@[simp] theorem State.setResponder_sendSeq (s : State) (r : Nat) (v : Spdm) : (s.setResponder r v).sendSeq = s.sendSeq := rfl

/-! ### emit -/

@[simp] theorem State.emit_ptc (s : State) (o : Output) : (s.emit o).ptc = s.ptc := rfl
@[simp] theorem State.emit_slidemax (s : State) (o : Output) : (s.emit o).slidemax = s.slidemax := rfl
@[simp] theorem State.emit_aging (s : State) (o : Output) : (s.emit o).aging = s.aging := rfl
@[simp] theorem State.emit_pointer (s : State) (o : Output) : (s.emit o).pointer = s.pointer := rfl
@[simp] theorem State.emit_nextSelect (s : State) (o : Output) : (s.emit o).nextSelect = s.nextSelect := rfl
@[simp] theorem State.emit_bringUp (s : State) (o : Output) : (s.emit o).bringUp = s.bringUp := rfl
@[simp] theorem State.emit_power (s : State) (o : Output) : (s.emit o).power = s.power := rfl
@[simp] theorem State.emit_throttle (s : State) (o : Output) : (s.emit o).throttle = s.throttle := rfl
@[simp] theorem State.emit_powerTarget (s : State) (o : Output) : (s.emit o).powerTarget = s.powerTarget := rfl
@[simp] theorem State.emit_firmware (s : State) (o : Output) : (s.emit o).firmware = s.firmware := rfl
@[simp] theorem State.emit_replReq (s : State) (o : Output) : (s.emit o).replReq = s.replReq := rfl
@[simp] theorem State.emit_upstream (s : State) (o : Output) : (s.emit o).upstream = s.upstream := rfl
@[simp] theorem State.emit_mem (s : State) (o : Output) : (s.emit o).mem = s.mem := rfl
@[simp] theorem State.emit_poison (s : State) (o : Output) : (s.emit o).poison = s.poison := rfl
@[simp] theorem State.emit_versions (s : State) (o : Output) : (s.emit o).versions = s.versions := rfl
@[simp] theorem State.emit_copies (s : State) (o : Output) : (s.emit o).copies = s.copies := rfl
@[simp] theorem State.emit_owners (s : State) (o : Output) : (s.emit o).owners = s.owners := rfl
@[simp] theorem State.emit_allocated (s : State) (o : Output) : (s.emit o).allocated = s.allocated := rfl
@[simp] theorem State.emit_deadKey (s : State) (o : Output) : (s.emit o).deadKey = s.deadKey := rfl
@[simp] theorem State.emit_history (s : State) (o : Output) : (s.emit o).history = s.history := rfl
@[simp] theorem State.emit_dies (s : State) (o : Output) : (s.emit o).dies = s.dies := rfl
@[simp] theorem State.emit_ports (s : State) (o : Output) : (s.emit o).ports = s.ports := rfl
@[simp] theorem State.emit_contexts (s : State) (o : Output) : (s.emit o).contexts = s.contexts := rfl
@[simp] theorem State.emit_queues (s : State) (o : Output) : (s.emit o).queues = s.queues := rfl
@[simp] theorem State.emit_fns (s : State) (o : Output) : (s.emit o).fns = s.fns := rfl
@[simp] theorem State.emit_spdm (s : State) (o : Output) : (s.emit o).spdm = s.spdm := rfl
@[simp] theorem State.emit_checkpoint (s : State) (o : Output) : (s.emit o).checkpoint = s.checkpoint := rfl
@[simp] theorem State.emit_hedgePool (s : State) (o : Output) : (s.emit o).hedgePool = s.hedgePool := rfl
@[simp] theorem State.emit_reserve (s : State) (o : Output) : (s.emit o).reserve = s.reserve := rfl
@[simp] theorem State.emit_groups (s : State) (o : Output) : (s.emit o).groups = s.groups := rfl
@[simp] theorem State.emit_tasks (s : State) (o : Output) : (s.emit o).tasks = s.tasks := rfl
@[simp] theorem State.emit_nextTask (s : State) (o : Output) : (s.emit o).nextTask = s.nextTask := rfl
@[simp] theorem State.emit_nextGroup (s : State) (o : Output) : (s.emit o).nextGroup = s.nextGroup := rfl
@[simp] theorem State.emit_inbox (s : State) (o : Output) : (s.emit o).inbox = s.inbox := rfl
@[simp] theorem State.emit_hostHeld (s : State) (o : Output) : (s.emit o).hostHeld = s.hostHeld := rfl
@[simp] theorem State.emit_cur (s : State) (o : Output) : (s.emit o).cur = s.cur := rfl
@[simp] theorem State.emit_turn (s : State) (o : Output) : (s.emit o).turn = s.turn := rfl
@[simp] theorem State.emit_pre (s : State) (o : Output) : (s.emit o).pre = s.pre := rfl
@[simp] theorem State.emit_fresh (s : State) (o : Output) : (s.emit o).fresh = s.fresh := rfl
@[simp] theorem State.emit_sendSeq (s : State) (o : Output) : (s.emit o).sendSeq = s.sendSeq := rfl

@[simp] theorem State.setQueue_queue (s : State) (q : Nat) (v : Queue) : (s.setQueue q v).queue q = v := by
  simp [State.queue, State.setQueue]
@[simp] theorem State.setGroup_group (s : State) (g : Nat) (v : Group) : (s.setGroup g v).group g = v := by
  simp [State.group, State.setGroup]
@[simp] theorem State.setFn_fn (s : State) (k : Nat) (f : HostFn) : (s.setFn k f).fn k = f := by simp [State.fn, State.setFn]
@[simp] theorem State.setPort_port (s : State) (p : Nat) (v : Port) : (s.setPort p v).port p = v := by simp [State.port, State.setPort]
@[simp] theorem State.setResponder_responder (s : State) (r : Nat) (v : Spdm) : (s.setResponder r v).responder r = v := by
  simp [State.responder, State.setResponder]

/-! ### Registers and units of a core -/

@[simp] theorem Core.rx_zero (c : Core) : c.rx 0 = 0 := rfl
@[simp] theorem State.rx_zero (s : State) : s.rx 0 = 0 := rfl
@[simp] theorem Core.wx_zero (c : Core) (v : Word) : c.wx 0 v = c := rfl

/-- Reading a register after writing one: x0 reads zero, and a write changes one register (02 R48). -/
theorem Core.rx_wx (c : Core) (d r : Reg) (v : Word) : (c.wx d v).rx r = if r = d ∧ d ≠ 0 then v else c.rx r := by
  unfold Core.wx
  by_cases hd : d = 0
  · rw [if_pos hd, if_neg (fun h => h.2 hd)]
  · rw [if_neg hd]
    unfold Core.rx
    by_cases hr : r = 0
    · rw [if_pos hr, if_pos hr, if_neg (fun h => hd (h.1.symm.trans hr))]
    · rw [if_neg hr, if_neg hr]
      by_cases h : r = d
      · subst h; rw [if_pos ⟨rfl, hd⟩]; simp
      · have : d.toNat ≠ r.toNat := fun e => h (BitVec.eq_of_toNat_eq e.symm)
        simp [h, this]

@[simp] theorem Core.setRing_ring (c : Core) (n : Nat) (r : Ring) : (c.setRing n r).ring n = r := by simp [Core.ring, Core.setRing]
@[simp] theorem Core.setLink_link (c : Core) (n : Nat) (l : Link) : (c.setLink n l).link n = l := by simp [Core.link, Core.setLink]
@[simp] theorem Core.setArr_arr (c : Core) (n : Nat) (a : Arr) : (c.setArr n a).arr n = a := by simp [Core.arr, Core.setArr]
@[simp] theorem Core.setElem_elem (c : Core) (n : Nat) (e : Elem) : (c.setElem n e).elem n = e := by simp [Core.elem, Core.setElem]

end Sys2Proof.Machine
end

