-- ==== Sys2Proof/Laws/Cp.lean ====
section
/-!
SUPPORT. What the shared operations of the control processor do: one lemma for the delivery of a result, the passage to
the next instruction, a transfer of control and a trap.
-/

namespace Sys2Proof.Machine

/-- The state with the core in focus, the region and the counter of free values replaced. -/
def State.here (s : State) (c : Core) (r : Region) (n : Nat) : State :=
  { s.setTask { s.task with cores := SMap.put s.task.cores s.cur.core c, region := r } with fresh := n }

theorem State.setCore_eq (s : State) (c : Core) : s.setCore c = s.here c s.region s.fresh := rfl
@[simp] theorem State.here_setCore (s : State) (c d : Core) (r : Region) (n : Nat) : (s.here c r n).setCore d = s.here d r n := by
  simp [State.here, State.setCore, State.setTask, State.task]
@[simp] theorem State.here_setRegion (s : State) (c : Core) (r q : Region) (n : Nat) : (s.here c r n).setRegion q = s.here c q n := by
  simp [State.here, State.setRegion, State.setTask, State.task]
@[simp] theorem State.here_core (s : State) (c : Core) (r : Region) (n : Nat) : (s.here c r n).core = c := by
  simp [State.here, State.core, State.setTask, State.task]
@[simp] theorem State.here_region (s : State) (c : Core) (r : Region) (n : Nat) : (s.here c r n).region = r := by
  simp [State.here, State.region, State.setTask, State.task]
@[simp] theorem State.here_task (s : State) (c : Core) (r : Region) (n : Nat) :
    (s.here c r n).task = { s.task with cores := SMap.put s.task.cores s.cur.core c, region := r } := by
  simp [State.here, State.setTask, State.task]
@[simp] theorem State.here_timed (s : State) (c : Core) (r : Region) (n : Nat) : (s.here c r n).timed = r.active := by
  simp [State.timed]
@[simp] theorem State.here_rt (s : State) (c : Core) (r : Region) (n : Nat) : (s.here c r n).rt = r.rt := by simp [State.rt]
@[simp] theorem State.here_ptc (s : State) (c : Core) (r : Region) (n : Nat) : (s.here c r n).ptc = s.ptc := rfl
@[simp] theorem State.here_cur (s : State) (c : Core) (r : Region) (n : Nat) : (s.here c r n).cur = s.cur := rfl
@[simp] theorem State.here_fresh (s : State) (c : Core) (r : Region) (n : Nat) : (s.here c r n).fresh = n := rfl
@[simp] theorem State.here_with_fresh (s : State) (c : Core) (r : Region) (n m : Nat) :
    { s.here c r n with fresh := m } = s.here c r m := rfl

theorem State.onlyHere_here (s : State) (c : Core) (r : Region) (n : Nat) : OnlyHere s (s.here c r n) := by
  refine ⟨?_, by simp⟩
  simp [OnlyTask, State.here, State.setTask, State.task]
theorem State.sameMemory_here (s : State) (c : Core) (r : Region) (n : Nat) : SameMemory s (s.here c r n) := fun _ _ _ => rfl

/-! ### Counting, signing and the end-of-body tests -/

@[simp] theorem Core.count_control (c : Core) (m : Bool) (ev n : Nat) :
    (c.count m ev n).pc = c.pc ∧ (c.count m ev n).loops = c.loops ∧ (c.count m ev n).active = c.active ∧
    (c.count m ev n).psig = c.psig ∧ (c.count m ev n).handler = c.handler ∧ (c.count m ev n).x = c.x ∧
    (c.count m ev n).hpe = c.hpe ∧ (c.count m ev n).nextIssue = c.nextIssue := by
  cases m <;> simp [Core.count]

/-- Counting an event that a selector does not select leaves the counter. -/
theorem Core.count_hpc (c : Core) (m : Bool) (ev n : Nat) (i : Fin 4) (h : selects c.hpe[i] m ev = false) :
    (c.count m ev n).hpc[i] = c.hpc[i] ∧ (c.count m ev n).hpcNow[i] = c.hpcNow[i] := by
  cases m <;> simp_all [Core.count]

/-- Counting changes nothing but the counters. -/
theorem Core.count_eq (c : Core) (m : Bool) (ev n : Nat) :
    c.count m ev n = { c with hpc := (c.count m ev n).hpc, hpcNow := (c.count m ev n).hpcNow } := by
  cases m <;> simp [Core.count]

/-- A core that agrees on control passes the end-of-body tests the same way. -/
theorem endTests_control (m : Bool) (e : Word) (ls : List Nat) (c d : Core) (h : c.Control d) :
    (endTests m e ls c).1.loops = (endTests m e ls d).1.loops ∧ (endTests m e ls c).1.active = (endTests m e ls d).1.active ∧
    (endTests m e ls c).1.psig = (endTests m e ls d).1.psig ∧ (endTests m e ls c).2 = (endTests m e ls d).2 := by
  induction ls generalizing c d with
  | nil => obtain ⟨h1, h2, h3, h4⟩ := h; simp [endTests, h2, h3, h4]
  | cons l ls ih =>
    obtain ⟨h1, h2, h3, h4⟩ := h
    have hl : ∀ k, d.loopAt k = c.loopAt k := fun k => by simp [Core.loopAt, h2]
    simp only [endTests, hl]
    split
    · exact ih c d ⟨h1, h2, h3, h4⟩
    · split
      · simp only [Core.setLoop, Core.sign]
        split <;> simp [h2, h3, h4]
      · apply ih
        refine ⟨?_, ?_, ?_, ?_⟩ <;> simp only [Core.setLoop, Core.sign] <;> (try split) <;> simp [h1, h2, h3, h4]

/-- The end-of-body tests change loops, active levels, the path signature and counters alone. -/
theorem endTests_eq (m : Bool) (e : Word) (ls : List Nat) (c : Core) :
    (endTests m e ls c).1 = { c with loops := (endTests m e ls c).1.loops, active := (endTests m e ls c).1.active,
                                     psig := (endTests m e ls c).1.psig, hpc := (endTests m e ls c).1.hpc,
                                     hpcNow := (endTests m e ls c).1.hpcNow } := by
  induction ls generalizing c with
  | nil => rfl
  | cons l ls ih =>
    simp only [endTests]
    split
    · exact ih c
    · split
      · rw [Core.count_eq]; simp only [Core.setLoop, Core.sign]; split <;> rfl
      · rw [ih]; simp only [Core.setLoop, Core.sign]; split <;> rfl

/-- Counters after the end-of-body tests: only those that select loop-backs (event 0x0E) change. -/
theorem endTests_hpc (m : Bool) (e : Word) (ls : List Nat) (c : Core) (i : Fin 4) (h : selects c.hpe[i] m 0x0E = false) :
    (endTests m e ls c).1.hpc[i] = c.hpc[i] ∧ (endTests m e ls c).1.hpcNow[i] = c.hpcNow[i] := by
  induction ls generalizing c with
  | nil => exact ⟨rfl, rfl⟩
  | cons l ls ih =>
    simp only [endTests]
    split
    · exact ih c h
    · split
      · have := Core.count_hpc ((c.setLoop l { c.loopAt l with count := (c.loopAt l).count - 1 }).sign e true) m 0x0E 1 i
        simp only [Core.setLoop, Core.sign] at this ⊢
        split <;> simp_all
      · have := ih ({ c.setLoop l { c.loopAt l with count := 0 } with active := c.active.filter (· != l) }.sign e false)
        simp only [Core.setLoop, Core.sign] at this ⊢
        split <;> simp_all

/-! ### Passing on -/

/-- The core after the instruction has issued and control has passed on (03 R74, R89). -/
def Core.passed (c : Core) (m : Bool) : Core := (c.count m 1 1).sequential m

/-- What passing on changes. -/
theorem Core.passed_eq (c : Core) (m : Bool) :
    c.passed m = { c with pc := (c.passed m).pc, loops := (c.passed m).loops, active := (c.passed m).active,
                          psig := (c.passed m).psig, hpc := (c.passed m).hpc, hpcNow := (c.passed m).hpcNow } := by
  unfold Core.passed Core.sequential
  split
  · cases m <;> rfl
  · have h := endTests_eq m (c.count m 1 1).pc (c.count m 1 1).active (c.count m 1 1)
    dsimp only
    generalize endTests m (c.count m 1 1).pc (c.count m 1 1).active (c.count m 1 1) = q at h ⊢
    obtain ⟨d, w⟩ := q
    dsimp only at h ⊢
    rw [h]
    cases m <;> rfl

/-- Control after passing on is that of the end-of-body tests, whatever was counted before. -/
theorem Core.passed_control (c d : Core) (m : Bool) (h : c.Control d) (hh : d.handler = c.handler) :
    (c.sequential m).Control (d.passed m) := by
  unfold Core.passed Core.sequential
  have hc : c.Control (d.count m 1 1) := by simpa [Core.Control] using h
  have hd : (d.count m 1 1).handler = c.handler := by simp [hh]
  rw [hd]
  split
  · obtain ⟨h1, h2, h3, h4⟩ := hc; exact ⟨by simp [h.1], h2, h3, h4⟩
  · obtain ⟨e1, e2, e3, e4⟩ := endTests_control m c.pc c.active c (d.count m 1 1) hc
    have h1 := hc.1; have h3 := hc.2.2.1
    rw [h1, h3]
    exact ⟨e4.symm, e1.symm, e2.symm, e3.symm⟩

/-- Counters after passing on. -/
theorem Core.passed_hpc (c : Core) (m : Bool) (i : Fin 4) (h1 : selects c.hpe[i] m 1 = false) (h2 : selects c.hpe[i] m 0x0E = false) :
    (c.passed m).hpc[i] = c.hpc[i] ∧ (c.passed m).hpcNow[i] = c.hpcNow[i] := by
  have h3 := Core.count_hpc c m 1 1 i h1
  unfold Core.passed Core.sequential
  split
  · exact h3
  · have h4 := endTests_hpc m (c.count m 1 1).pc (c.count m 1 1).active (c.count m 1 1) i (by simpa using h2)
    exact ⟨h4.1.trans h3.1, h4.2.trans h3.2⟩

/-- `finish` on a state near s. -/
theorem State.here_finish (s : State) (c : Core) (r : Region) (n k : Nat) :
    ∃ ni fr, (s.here c r n).finish k = s.here { (c.passed r.active) with nextIssue := ni } r fr ∧
      (if r.active then ni = r.rt + k else s.ptc + k ≤ ni) := by
  unfold State.finish State.issueAfter
  simp only [State.here_core, State.here_timed, State.here_setCore, State.here_rt, State.here_ptc, State.here_fresh]
  cases r.active
  · exact ⟨_, _, rfl, by simp⟩
  · exact ⟨_, _, rfl, by simp⟩

/-- Passing on from a state near s whose control is that of s, after further events were counted. -/
theorem State.passes_finish (s : State) (c : Core) (r : Region) (n k : Nat) (evs : List Nat) (hr : r.active = s.timed)
    (ht : r.rt = s.rt) (hc : s.core.Control c) (hh : c.handler = s.core.handler) (he : c.hpe = s.core.hpe)
    (hn : ∀ i : Fin 4, (∀ ev ∈ evs, selects s.core.hpe[i] s.timed ev = false) → c.hpc[i] = s.core.hpc[i] ∧ c.hpcNow[i] = s.core.hpcNow[i]) :
    Passes s ((s.here c r n).finish k) k evs := by
  obtain ⟨ni, fr, e, hi⟩ := s.here_finish c r n k
  rw [e, hr] at *
  refine ⟨?_, ?_, ?_⟩
  · simpa [Core.Control] using Core.passed_control s.core c s.timed hc hh
  · intro i h
    have h1 := Core.passed_hpc c s.timed i (by rw [he]; exact h 1 (by simp)) (by rw [he]; exact h 0x0E (by simp))
    have h2 := hn i (fun ev hev => h ev (by simp [hev]))
    simp only [State.here_core]
    exact ⟨h1.1.trans h2.1, h1.2.trans h2.2⟩
  · simpa [IssuesAfter, ht] using hi

/-- Where `finish` leads from a state near s. -/
theorem State.finish_near (s : State) (c : Core) (r : Region) (n k : Nat) :
    OnlyHere s ((s.here c r n).finish k) ∧ SameMemory s ((s.here c r n).finish k) ∧ ((s.here c r n).finish k).region = r ∧
    c.SameUnits ((s.here c r n).finish k).core ∧ (∀ d, ((s.here c r n).finish k).core.rx d = c.rx d) := by
  obtain ⟨ni, fr, e, -⟩ := s.here_finish c r n k
  rw [e]
  refine ⟨s.onlyHere_here _ _ _, s.sameMemory_here _ _ _, by simp, ?_, ?_⟩
  · have h := c.passed_eq r.active
    simp only [State.here_core, Core.SameUnits]
    generalize c.passed r.active = q at h ⊢
    rw [h]
  · intro d
    have h := c.passed_eq r.active
    simp only [State.here_core]
    generalize c.passed r.active = q at h ⊢
    rw [h]; rfl

/-- Writing a register changes the registers alone. -/
theorem Core.wx_eq (c : Core) (d : Reg) (v : Word) : c.wx d v = { c with x := (c.wx d v).x, regPoison := (c.wx d v).regPoison } := by
  unfold Core.wx; split <;> rfl

@[simp] theorem State.setCore_setCore (s : State) (c d : Core) : (s.setCore c).setCore d = s.setCore d := by
  rw [State.setCore_eq s c, State.here_setCore]; rfl
theorem State.setRegion_setCore (s : State) (r : Region) (c : Core) : (s.setRegion r).setCore c = s.here c r s.fresh := by
  simp [State.here, State.setCore, State.setRegion, State.setTask, State.task]
/-- Writing the core in focus back changes nothing that passing on does. -/
theorem State.finish_setCore (s : State) (k : Nat) : (s.setCore s.core).finish k = s.finish k := by
  simp only [State.finish, State.issueAfter, State.setCore_core, State.setCore_timed, State.setCore_setCore]

/-- What a delivered result does. -/
theorem State.result_spec (s : State) (d : Reg) (v : Word) (n : Nat) :
    ∃ t, s.result d v n = .next t ∧ Delivers s t d v n ∧ Passes s t 1 [] := by
  refine ⟨_, rfl, ?_⟩
  unfold State.deliver
  by_cases hd : d = 0
  · subst hd
    rw [if_pos rfl]
    have h0 : s.finish 1 = (s.here s.core s.region s.fresh).finish 1 := by
      rw [← State.setCore_eq, State.finish_setCore]
    rw [h0]
    obtain ⟨h1, h2, h3, h4, h5⟩ := s.finish_near s.core s.region s.fresh 1
    refine ⟨⟨h1, h2, h4, ?_⟩, s.passes_finish _ _ _ _ [] rfl rfl ⟨rfl, rfl, rfl, rfl⟩ rfl rfl (fun _ _ => ⟨rfl, rfl⟩)⟩
    split
    · exact ⟨h5, by simpa using h3⟩
    · exact ⟨fun r => by rw [h5, if_neg (fun h => h.2 rfl)], h3⟩
  · rw [if_neg hd]
    by_cases ht : s.timed = true
    · rw [if_pos ht]
      have h0 : (s.post { due := s.rt + n, rank := 0, key := [s.rt], core := s.cur.core, act := .event (.cpResultPerform d v),
                          pc := s.core.pc, by' := s.cur.core }).finish 1 =
          (s.here s.core (s.region.with1 (cpItem s d v n)) s.fresh).finish 1 := by
        rw [← State.setRegion_setCore]
        conv => lhs; rw [← State.finish_setCore]
        simp [State.post, cpItem, Region.with1, State.rt]
      rw [h0]
      obtain ⟨h1, h2, h3, h4, h5⟩ := s.finish_near s.core (s.region.with1 (cpItem s d v n)) s.fresh 1
      refine ⟨⟨h1, h2, h4, ?_⟩, s.passes_finish _ _ _ _ [] rfl rfl ⟨rfl, rfl, rfl, rfl⟩ rfl rfl (fun _ _ => ⟨rfl, rfl⟩)⟩
      rw [if_pos ht, if_neg hd]
      exact ⟨h5, h3⟩
    · rw [if_neg ht]
      have h0 : s.wx d v = s.here (s.core.wx d v) s.region s.fresh := rfl
      rw [h0]
      obtain ⟨h1, h2, h3, h4, h5⟩ := s.finish_near (s.core.wx d v) s.region s.fresh 1
      have hw := s.core.wx_eq d v
      refine ⟨⟨h1, h2, ?_, ?_⟩, s.passes_finish _ _ _ _ [] rfl rfl ?_ (by rw [hw]) (by rw [hw]) (fun _ _ => ⟨by rw [hw], by rw [hw]⟩)⟩
      · unfold Core.SameUnits at h4 ⊢
        rw [hw] at h4
        rw [hw]; exact h4
      · rw [if_neg ht]
        exact ⟨fun r => by rw [h5, Core.rx_wx], h3⟩
      · rw [hw]; exact ⟨rfl, rfl, rfl, rfl⟩

/-! ### Traps -/

theorem causeWord_eq (cause sub : Nat) : causeWord cause sub = BitVec.ofNat 64 (256 * cause + sub) := by
  rw [causeWord, Nat.mul_comm]

@[simp] theorem State.rasLog_tasks (s : State) (r : Ras) : (s.rasLog r).tasks = s.tasks := by
  simp [State.rasLog, State.raiseVector]
@[simp] theorem State.rasLog_cur (s : State) (r : Ras) : (s.rasLog r).cur = s.cur := by
  simp [State.rasLog, State.raiseVector]
@[simp] theorem State.rasLog_turn (s : State) (r : Ras) : (s.rasLog r).turn = s.turn := by
  simp [State.rasLog, State.raiseVector]

/-- Logging poison writes one entry. -/
theorem State.logPoison_eq (s : State) (sub : Nat) (tval : Word) : ∃ r, s.logPoison sub tval = s.rasLog r := by
  unfold State.logPoison
  dsimp only
  repeat' split
  all_goals exact ⟨_, rfl⟩

/-- Logging poison leaves the tasks and every byte of memory. -/
theorem State.logPoison_spec (s : State) (sub : Nat) (tval : Word) :
    (s.logPoison sub tval).tasks = s.tasks ∧ (s.logPoison sub tval).cur = s.cur ∧ (s.logPoison sub tval).turn = s.turn := by
  obtain ⟨r, h⟩ := s.logPoison_eq sub tval
  simp [h]

/-- The remap tables that memory is read through are no part of a RAS entry. -/
theorem State.rasLog_remap (s : State) (r : Ras) (pa : Nat) : (s.rasLog r).remap pa = s.remap pa := by
  unfold State.rasLog State.raiseVector State.remap State.setDie State.die
  dsimp only
  split
  · by_cases h : Config.paDie pa = r.die
    · rw [h, SMap.get_put_self]
    · rw [SMap.get_put_of_ne _ _ _ h]
  · rfl
theorem State.rasLog_sameMemory (s : State) (r : Ras) : SameMemory s (s.rasLog r) := by
  intro view pa _
  have h : ∀ pa, (s.rasLog r).readPa pa = s.readPa pa := fun pa => by
    have hm : (s.rasLog r).mem = s.mem := by simp [State.rasLog, State.raiseVector]
    simp only [State.readPa, State.storage, s.rasLog_remap r, hm]
  have hv : (s.rasLog r).versions = s.versions := by simp [State.rasLog, State.raiseVector]
  simp only [State.readView, State.version, h, hv]

/-- What a trap of the instruction that issues does. -/
theorem State.raise_spec (s : State) (cause sub : Nat) (tval : Word) : Traps s (s.raise cause sub tval) cause sub tval := by
  unfold State.raise
  by_cases ht : s.timed = true
  · rw [if_pos ht]
    have h0 : (s.setCore { s.core with nextIssue := s.rt + 1 }).trapUnit 0 cause sub tval s.core.pc s.cur.core =
        s.here { s.core with nextIssue := s.rt + 1 }
          { s.region with traps := s.region.traps ++ [⟨s.cur.core, 0, cause, sub, tval, s.core.pc⟩] } s.fresh := by
      unfold State.trapUnit
      dsimp only
      rw [State.setCore_region, State.setCore_eq, State.here_setRegion]
    rw [h0]
    refine ⟨s.sameMemory_here _ _ _, fun r => by simp [Core.rx], fun _ => ?_, ?_⟩
    · exact (s.onlyHere_here _ _ _).1.trans rfl
    · rw [if_pos ht]
      exact ⟨s.onlyHere_here _ _ _, by simp, by simp⟩
  · rw [if_neg ht]
    unfold State.takeTrap State.takeTrapAt
    dsimp only
    generalize hu : (if cause = 0x0C then s.logPoison sub tval else s) = u
    have hm : SameMemory s u := by
      subst hu; split
      · obtain ⟨r, h⟩ := s.logPoison_eq sub tval
        rw [h]; exact s.rasLog_sameMemory r
      · exact fun _ _ _ => rfl
    have hn : cause ≠ 0x0C → u = s := fun h => by rw [← hu, if_neg h]
    obtain ⟨h1, h2, h3⟩ : u.tasks = s.tasks ∧ u.cur = s.cur ∧ u.turn = s.turn := by
      subst hu; split
      · exact s.logPoison_spec sub tval
      · exact ⟨rfl, rfl, rfl⟩
    have htask : u.task = s.task := by simp [State.task, h1, h2]
    have hcore : u.core = s.core := by simp [State.core, htask, h2]
    clear hu
    rw [hcore]
    split
    · rename_i hc
      refine ⟨hm, fun r => ?_, fun h => ?_, ?_⟩
      · simp [Core.rx, State.faultTask, State.core, State.setTask, State.task, State.setCore, h2]
      · rw [hn h]; simp [State.faultTask, State.setTask, State.setCore, State.task]
      · rw [if_neg ht, if_neg (by simpa [not_and_or, or_iff_not_imp_left] using hc)]
        simp [State.faultTask, State.setCore, State.setTask, State.core, State.task, State.region, causeWord_eq, h1, h2, h3]
    · rename_i hc
      have hc' : s.core.tvec ≠ 0 ∧ s.core.handler = false := by simpa [not_or] using hc
      refine ⟨hm, fun r => ?_, fun h => ?_, ?_⟩
      · simp [Core.rx]
      · rw [hn h]; simp [State.setCore, State.setTask, State.task]
      · rw [if_neg ht, if_pos hc']
        simp [State.setCore, State.setTask, State.core, State.task, State.region, causeWord_eq, h1, h2, h3]

/-! ### Transfers of control -/

/-- Ending levels changes the loop registers alone. -/
theorem foldl_endLevels_eq (l : List Nat) (c : Core) :
    l.foldl (fun c k => c.setLoop k { c.loopAt k with count := 0 }) c =
      { c with loops := (l.foldl (fun c k => c.setLoop k { c.loopAt k with count := 0 }) c).loops } := by
  induction l generalizing c with
  | nil => rfl
  | cons k l ih =>
    simp only [List.foldl_cons]
    rw [ih]
    simp only [Core.setLoop]; split <;> rfl
/-- Ending levels on cores with the same loop registers leaves the same ones. -/
theorem foldl_endLevels_loops (l : List Nat) (c d : Core) (h : d.loops = c.loops) :
    (l.foldl (fun c k => c.setLoop k { c.loopAt k with count := 0 }) d).loops =
      (l.foldl (fun c k => c.setLoop k { c.loopAt k with count := 0 }) c).loops := by
  induction l generalizing c d with
  | nil => exact h
  | cons k l ih =>
    simp only [List.foldl_cons]
    apply ih
    have hk : d.loopAt k = c.loopAt k := by simp [Core.loopAt, h]
    simp only [Core.setLoop, hk]; split <;> simp [h]

/-- A transfer changes pc, loops and active levels alone. -/
theorem Core.transfer_eq (c : Core) (m : Bool) (a : Word) :
    c.transfer m a = { c with pc := a, loops := (c.transfer m a).loops, active := (c.transfer m a).active } := by
  unfold Core.transfer
  split
  · rfl
  · dsimp only; rw [foldl_endLevels_eq]
/-- Cores that agree on control are taken the same way by a transfer. -/
theorem Core.transfer_control (c d : Core) (m : Bool) (a : Word) (h : c.Control d) (hh : d.handler = c.handler) :
    (c.transfer m a).Control (d.transfer m a) := by
  obtain ⟨h1, h2, h3, h4⟩ := h
  have hl : ∀ k, d.loopAt k = c.loopAt k := fun k => by simp [Core.loopAt, h2]
  unfold Core.transfer
  rw [hh]
  split
  · exact ⟨rfl, h2, h3, h4⟩
  · dsimp only
    simp only [hl, h3]
    refine ⟨rfl, foldl_endLevels_loops _ c d h2, ?_, ?_⟩
    · rw [foldl_endLevels_eq]; conv => rhs; rw [foldl_endLevels_eq]
      simp [h3]
    · rw [foldl_endLevels_eq]; conv => rhs; rw [foldl_endLevels_eq]
      exact h4

/-- Where a jump leads from a state near s. -/
theorem State.jumps_near (s : State) (c : Core) (r : Region) (n k : Nat) (a : Word) (b : Core) (hr : r.active = s.timed)
    (ht : r.rt = s.rt) (hc : b.Control c) (hb : b.handler = c.handler) (he : c.hpe = s.core.hpe)
    (hn : ∀ i : Fin 4, selects s.core.hpe[i] s.timed 0x0D = false → c.hpc[i] = s.core.hpc[i] ∧ c.hpcNow[i] = s.core.hpcNow[i]) :
    JumpsFrom b s ((s.here c r n).jumpTo a k) a k ∧ OnlyHere s ((s.here c r n).jumpTo a k) ∧
    SameMemory s ((s.here c r n).jumpTo a k) ∧ ((s.here c r n).jumpTo a k).region = r ∧
    c.SameUnits ((s.here c r n).jumpTo a k).core ∧ (∀ d, ((s.here c r n).jumpTo a k).core.rx d = c.rx d) := by
  have he' : ∃ ni fr, (s.here c r n).jumpTo a k = s.here { ((c.count r.active 1 1).transfer r.active a) with nextIssue := ni } r fr ∧
      (if r.active then ni = r.rt + k else s.ptc + k ≤ ni) := by
    unfold State.jumpTo State.issueAfter
    simp only [State.here_core, State.here_timed, State.here_setCore, State.here_rt, State.here_ptc, State.here_fresh]
    cases r.active
    · exact ⟨_, _, rfl, by simp⟩
    · exact ⟨_, _, rfl, by simp⟩
  obtain ⟨ni, fr, e, hi⟩ := he'
  rw [e]
  have hq := (c.count r.active 1 1).transfer_eq r.active a
  have hctl : b.Control (c.count r.active 1 1) := by simpa [Core.Control] using hc
  have hcontrol := b.transfer_control (c.count r.active 1 1) r.active a hctl (by simp [hb])
  rw [hr] at hcontrol hq ⊢
  refine ⟨⟨?_, ?_, ?_⟩, s.onlyHere_here _ _ _, s.sameMemory_here _ _ _, by simp, ?_, ?_⟩
  · simpa [Core.Control] using hcontrol
  · intro i h
    have h1 := Core.count_hpc c s.timed 1 1 i (by rw [he]; exact h 1 (by simp))
    have h2 := hn i (h 0x0D (by simp))
    simp only [State.here_core]
    rw [hq]
    exact ⟨h1.1.trans h2.1, h1.2.trans h2.2⟩
  · rw [hr] at hi
    simpa [IssuesAfter, ht] using hi
  · have h3 := c.count_eq s.timed 1 1
    simp only [State.here_core, Core.SameUnits]
    generalize (c.count s.timed 1 1).transfer s.timed a = q at hq ⊢
    generalize c.count s.timed 1 1 = w at hq h3
    rw [hq, h3]
  · intro d
    have h3 := c.count_eq s.timed 1 1
    simp only [State.here_core]
    generalize (c.count s.timed 1 1).transfer s.timed a = q at hq ⊢
    generalize c.count s.timed 1 1 = w at hq h3
    rw [hq, h3]; rfl

end Sys2Proof.Machine
end

