-- ==== Sys2Proof/Laws/Memory.lean ====
section
/-!
SUPPORT. What the operations of the memory system can change: memory and what is kept beside it, and nothing of the tasks,
queues, groups or of what runs next.
-/

namespace Sys2Proof.Machine

/-- Nothing changes but memory, what the memory system keeps beside it, logs and vectors to be raised. -/
def SameOutside (s t : State) : Prop :=
  t = { s with mem := t.mem, poison := t.poison, versions := t.versions, copies := t.copies, contexts := t.contexts, dies := t.dies,
               deadKey := t.deadKey, history := t.history, allocated := t.allocated, checkpoint := t.checkpoint, fns := t.fns }

namespace SameOutside
theorem refl (s : State) : SameOutside s s := rfl
theorem trans {s t u : State} (h : SameOutside s t) (k : SameOutside t u) : SameOutside s u := by
  cases s; cases t; cases u
  simp only [SameOutside, State.mk.injEq] at *
  simp_all
theorem tasks {s t : State} (h : SameOutside s t) : t.tasks = s.tasks := by rw [h]
theorem queues {s t : State} (h : SameOutside s t) : t.queues = s.queues := by rw [h]
theorem groups {s t : State} (h : SameOutside s t) : t.groups = s.groups := by rw [h]
theorem cur {s t : State} (h : SameOutside s t) : t.cur = s.cur := by rw [h]
theorem turn {s t : State} (h : SameOutside s t) : t.turn = s.turn := by rw [h]
theorem ptc {s t : State} (h : SameOutside s t) : t.ptc = s.ptc := by rw [h]
theorem fresh {s t : State} (h : SameOutside s t) : t.fresh = s.fresh := by rw [h]
theorem owners {s t : State} (h : SameOutside s t) : t.owners = s.owners := by rw [h]
theorem slidemax {s t : State} (h : SameOutside s t) : t.slidemax = s.slidemax := by rw [h]
theorem pre {s t : State} (h : SameOutside s t) : t.pre = s.pre := by rw [h]
theorem inbox {s t : State} (h : SameOutside s t) : t.inbox = s.inbox := by rw [h]
theorem outbox {s t : State} (h : SameOutside s t) : t.outbox = s.outbox := by rw [h]
theorem task {s t : State} (h : SameOutside s t) : t.task = s.task := by simp [State.task, h.tasks, h.cur]
theorem core {s t : State} (h : SameOutside s t) : t.core = s.core := by simp [State.core, h.task, h.cur]
theorem region {s t : State} (h : SameOutside s t) : t.region = s.region := by simp [State.region, h.task]
theorem queue {s t : State} (h : SameOutside s t) (q : Nat) : t.queue q = s.queue q := by simp [State.queue, h.queues]
theorem group {s t : State} (h : SameOutside s t) (g : Nat) : t.group g = s.group g := by simp [State.group, h.groups]
end SameOutside

theorem State.setCtx_outside (s : State) (c : Nat) (x : Context) : SameOutside s (s.setCtx c x) := rfl
theorem State.setDie_outside (s : State) (d : Nat) (x : Die) : SameOutside s (s.setDie d x) := rfl
theorem State.raiseVector_outside (s : State) (f v : Nat) : SameOutside s (s.raiseVector f v) := rfl
theorem State.rasLog_outside (s : State) (r : Ras) : SameOutside s (s.rasLog r) := rfl
theorem State.logForeign_outside (s : State) (c pa va : Nat) : SameOutside s (s.logForeign c pa va) := rfl
theorem State.putVersion_outside (s : State) (v : Version) : SameOutside s (s.putVersion v) := rfl
theorem State.dropCopy_outside (s : State) (d l : Nat) : SameOutside s (s.dropCopy d l) := rfl
theorem State.putCopy_outside (s : State) (c : CopyLine) : SameOutside s (s.putCopy c) := rfl
theorem State.noteAllocated_outside (s : State) (l : Nat) : SameOutside s (s.noteAllocated l) := by
  unfold State.noteAllocated; split <;> rfl
theorem State.fillCopy_outside (s : State) (d l : Nat) (r : Option Nat) : SameOutside s (s.fillCopy d l r) :=
  ((s.putCopy_outside _).trans (State.noteAllocated_outside _ _)).trans rfl

theorem State.writePa_outside (s : State) (pa : Nat) (b : Byte) : SameOutside s (s.writePa pa b) := by
  unfold State.writePa; split <;> rfl
theorem State.writePas_outside (s : State) (pa : Nat) (l : List Byte) : SameOutside s (s.writePas pa l) := by
  induction l generalizing s pa with
  | nil => exact .refl s
  | cons b l ih => exact (s.writePa_outside pa b).trans (ih _ _)
theorem State.allocate_outside (s : State) (pa attr : Nat) : SameOutside s (s.allocate pa attr) := by
  unfold State.allocate; split
  · rfl
  · exact s.noteAllocated_outside _
theorem State.dropOld_outside (s : State) (c : Option Nat) (v pa n : Nat) : SameOutside s (s.dropOld c v pa n) := rfl
theorem State.keepOld_outside (s : State) (g : Agent) (y : Nat) (c : Option Nat) (v pa : Nat) (l : List Byte) :
    SameOutside s (s.keepOld g y c v pa l) := rfl
theorem State.saveSystem_outside (s : State) (l : Nat) : SameOutside s (s.saveSystem l) := by
  unfold State.saveSystem
  split
  · split <;> rfl
  · rfl
theorem State.chargeLevel_outside (s : State) (c k l : Nat) : SameOutside s (s.chargeLevel c k l) := rfl
theorem State.saveShadows_outside (s : State) (l tv : Nat) : SameOutside s (s.saveShadows l tv) := by
  have h0 : SameOutside s (if tv = 0 then s.saveSystem l else s) := by
    split
    · exact s.saveSystem_outside l
    · exact .refl s
  unfold State.saveShadows
  dsimp only
  generalize (if tv = 0 then s.saveSystem l else s) = u at h0 ⊢
  split
  · exact h0
  · split
    · exact h0.trans rfl
    · exact h0.trans rfl
theorem State.makePrivate_outside (s : State) (o l tv : Nat) : SameOutside s (s.makePrivate o l tv) := by
  unfold State.makePrivate; split <;> rfl

/-- Applying bytes of one line at its home. -/
theorem State.applyBytes_outside (s : State) (o tv pa : Nat) (l : List Byte) (p : Bool) : SameOutside s (s.applyBytes o tv pa l p) := by
  unfold State.applyBytes
  dsimp only
  split
  · exact s.writePas_outside _ _
  · split
    · exact s.logForeign_outside _ _ _
    · generalize hu : ({ s with deadKey := cutRanges s.deadKey (pa / 128 * 128) 128 } : State) = u
      have h0 : SameOutside s u := by subst hu; rfl
      have h1 := h0.trans ((u.saveShadows_outside (pa / 128) tv).trans ((u.saveShadows (pa / 128) tv).makePrivate_outside o (pa / 128) tv))
      generalize (u.saveShadows (pa / 128) tv).makePrivate o (pa / 128) tv = w at h1 ⊢
      split
      · exact h1.trans rfl
      · exact h1.trans ((w.writePas_outside pa l).trans rfl)
theorem State.applyLine_outside (s : State) (o tv pa : Nat) (l : List Byte) (p : Bool) : SameOutside s (s.applyLine o tv pa l p) :=
  (s.applyBytes_outside o tv pa l p).trans (State.dropOld_outside _ _ _ _ _)
/-- An AMO's write, byte by byte. -/
theorem State.applyAmo_outside (s : State) (g : Agent) (issue tv pa : Nat) (l : List Byte) : SameOutside s (s.applyAmo g issue tv pa l) := by
  induction l generalizing s pa with
  | nil => exact .refl s
  | cons b l ih =>
    unfold State.applyAmo
    dsimp only
    refine SameOutside.trans ?_ (ih _ _)
    split
    · rfl
    · exact s.applyLine_outside _ _ _ _ _
/-- The system's own write of view 0. -/
theorem State.systemWrite_outside (s : State) (pa : Nat) (l : List Byte) : SameOutside s (s.systemWrite pa l) :=
  ((s.saveShadows_outside _ _).trans (State.writePas_outside _ _ _)).trans (State.dropOld_outside _ _ _ _ _)

theorem State.useCopy_outside (s : State) (d l : Nat) : SameOutside s (s.useCopy d l) := by
  unfold State.useCopy; split
  · split <;> rfl
  · rfl
theorem State.noteTlb_outside (s : State) (g : Agent) (va : Nat) : SameOutside s (s.noteTlb g va) := by
  unfold State.noteTlb
  split
  · rfl
  · split
    · rfl
    · split
      · rfl
      · exact State.setCtx_outside _ _ _
theorem State.writeBack_outside (s : State) (d l : Nat) : SameOutside s (s.writeBack d l) := by
  unfold State.writeBack
  split
  · rfl
  · next c _ =>
    split
    · rfl
    · have h0 : SameOutside s { s.saveShadows l 0 with deadKey := cutRanges s.deadKey (l * 128) 128 } := (s.saveShadows_outside l 0).trans rfl
      dsimp only
      generalize ({ s.saveShadows l 0 with deadKey := cutRanges s.deadKey (l * 128) 128 } : State) = u at h0 ⊢
      have h1 : ∀ (ps : List (Nat × Byte)) (u : State),
          SameOutside u (ps.foldl (fun s p => (s.writePa (l * 128 + p.1) p.2).dropOld none 0 (l * 128 + p.1) 1) u) := by
        intro ps
        induction ps with
        | nil => exact fun u => .refl u
        | cons p ps ih => exact fun u => ((u.writePa_outside _ _).trans (State.dropOld_outside _ _ _ _ _)).trans (ih _)
      have h2 := h0.trans (h1 c.dirtyBytes u)
      generalize c.dirtyBytes.foldl (fun s p => (s.writePa (l * 128 + p.1) p.2).dropOld none 0 (l * 128 + p.1) 1) u = w at h2 ⊢
      refine SameOutside.trans (h2.trans ?_) (State.noteAllocated_outside _ _)
      rfl

theorem State.engineHome_outside (s : State) (g : Agent) (y : Option Nat) (va pa attr : Nat) (l : List Byte) (p : Bool) :
    SameOutside s (s.engineHome g y va pa attr l p) := by
  unfold State.engineHome
  dsimp only
  have h0 : SameOutside s ((s.applyBytes g.ctx (g.target va attr) pa l p).allocate pa attr) :=
    (s.applyBytes_outside _ _ _ _ _).trans (State.allocate_outside _ _ _)
  split
  · split
    · exact h0
    · exact h0.trans rfl
  · exact h0.trans rfl
theorem State.engineCopy_outside (s : State) (g : Agent) (y : Option Nat) (pa attr : Nat) (l : List Byte) (p : Bool) :
    SameOutside s (s.engineCopy g y pa attr l p) := by
  unfold State.engineCopy
  split
  · dsimp only
    split <;> rfl
  · rfl
theorem State.engineLine_outside (s : State) (g : Agent) (y : Option Nat) (va pa attr : Nat) (l : List Byte) (p : Bool) :
    SameOutside s (s.engineLine g y va pa attr l p) :=
  (s.engineHome_outside _ _ _ _ _ _ _).trans (State.engineCopy_outside _ _ _ _ _ _ _)
theorem State.storeLine_outside (s : State) (g : Agent) (va pa attr : Nat) (l : List Byte) : SameOutside s (s.storeLine g va pa attr l) := by
  unfold State.storeLine
  split
  · dsimp only
    have h : SameOutside s (if (s.copyOf g.die (pa / 128)).isSome then s else s.fillCopy g.die (pa / 128) none) := by
      split
      · rfl
      · exact s.fillCopy_outside _ _ _
    generalize (if (s.copyOf g.die (pa / 128)).isSome then s else s.fillCopy g.die (pa / 128) none) = u at h ⊢
    split
    · exact h.trans rfl
    · exact h
  · exact (s.applyLine_outside _ _ _ _ _).trans (State.allocate_outside _ _ _)

/-- Applying a write. -/
theorem applyWrite_outside (g : Agent) (k : Access) (e : Option (Option Nat)) (p : List Nat) (n : Nat) (s : State) (va : Nat) (l : List Byte) :
    SameOutside s (applyWrite g k e p n s va l) := by
  induction n generalizing p s va l with
  | zero => exact .refl s
  | succ n ih =>
    unfold applyWrite
    split
    · exact .refl s
    · split
      · refine SameOutside.trans ?_ (ih _ _ _ _)
        refine SameOutside.trans (s.noteTlb_outside g va) ?_
        split
        · exact State.engineLine_outside _ _ _ _ _ _ _ _
        · exact State.storeLine_outside _ _ _ _ _ _
      · exact .refl s
theorem State.store_outside (s t : State) (g : Agent) (k : Access) (e : Option (Option Nat)) (p : List Nat) (va : Nat) (l : List Byte)
    (h : s.store g k e p va l = .done t) : SameOutside s t := by
  unfold State.store at h
  split at h
  · cases h; exact applyWrite_outside _ _ _ _ _ _ _ _
  · next h2 => exact absurd h (h2 t)

/-- The part of a read that lies in one line. -/
theorem State.readLine_outside (s : State) (g : Agent) (old : Old) (va pa attr m : Nat) : SameOutside s (s.readLine g old va pa attr m).2.2 := by
  unfold State.readLine
  dsimp only
  generalize hu : (if s.foreign g.ctx pa then s.logForeign g.ctx pa va else s.allocate pa attr) = u
  have h0 : SameOutside s u := by
    subst hu; split
    · rfl
    · exact s.allocate_outside _ _
  refine h0.trans ?_
  split
  · split
    · exact State.useCopy_outside _ _ _
    · exact State.fillCopy_outside _ _ _ _
  · rfl
/-- Serving a read. -/
theorem serveRead_outside (g : Agent) (k : Access) (old : Old) (n : Nat) (s : State) (va m : Nat) (b : List Byte) (p : Bool)
    (t : State) (h : serveRead g k old n s va m = .done b p t) : SameOutside s t := by
  induction n generalizing s va m b p t with
  | zero => cases h; exact .refl s
  | succ n ih =>
    unfold serveRead at h
    split at h
    · cases h; exact .refl s
    · split at h
      · dsimp only at h
        split at h
        · next hd =>
          cases h
          exact ((s.noteTlb_outside g va).trans (State.readLine_outside _ _ _ _ _ _ _)).trans (ih _ _ _ _ _ _ hd)
        · cases h
      · cases h
theorem State.load_outside (s t : State) (g : Agent) (k : Access) (va n : Nat) (b : List Byte) (p : Bool)
    (h : s.load g k va n = .done b p t) : SameOutside s t := serveRead_outside _ _ _ _ _ _ _ _ _ _ h
/-- The part of a read within its first line. -/
theorem serveRead_line {g : Agent} {k : Access} {old : Old} {fuel : Nat} {s t : State} {va n pa attr : Nat} {l : List Byte} {p : Bool}
    (hn : n ≠ 0) (ht : translateAs s g va k = .ok pa attr)
    (h : serveRead g k old fuel ((s.noteTlb g va).readLine g old va pa attr (inLine va n)).2.2 (va + inLine va n) (n - inLine va n) =
      .done l p t) :
    serveRead g k old (fuel + 1) s va n =
      .done (((s.noteTlb g va).readLine g old va pa attr (inLine va n)).1 ++ l)
        (((s.noteTlb g va).readLine g old va pa attr (inLine va n)).2.1 || p) t := by
  simp [serveRead, hn, ht, h]
/-- Counting changes tasks alone. -/
theorem State.count_eq (s : State) (ev n : Nat) : s.count ev n = { s with tasks := (s.count ev n).tasks } := by
  unfold State.count; split <;> rfl
/-- The counts of a translation change tasks alone. -/
theorem State.countWalk_eq (s : State) (va : Nat) : s.countWalk va = { s with tasks := (s.countWalk va).tasks } := by
  unfold State.countWalk
  split
  · split
    · rfl
    · exact s.count_eq _ _
  · rw [(s.count 0x0B 1).count_eq, s.count_eq 0x0B 1]
theorem State.countPages_eq (s : State) (va n : Nat) : s.countPages va n = { s with tasks := (s.countPages va n).tasks } := by
  unfold State.countPages
  generalize rangePages va n = l
  induction l generalizing s with
  | nil => rfl
  | cons a l ih =>
    rw [List.foldl_cons, ih, s.countWalk_eq a]
/-- A read by the core in focus: its counts, and what the memory system keeps. -/
theorem State.readVa_outside (s t : State) (va n : Nat) (b : List Byte) (p : Bool) (h : s.readVa va n = .ok (b, p, t)) :
    SameOutside { s with tasks := (s.countPages va n).tasks } t := by
  rw [← s.countPages_eq va n]
  unfold State.readVa at h
  split at h
  · cases h
  · split at h
    · next hd => cases h; exact State.load_outside _ _ _ _ _ _ _ _ hd
    · cases h

/-! ### Writes that may wait at their home -/

/-- Nothing changes but the memory system, writes that wait, what firmware is asked and the counter of free values. -/
def SameDevice (s t : State) : Prop :=
  SameOutside { s with inbox := t.inbox, hostHeld := t.hostHeld, fresh := t.fresh } t

namespace SameDevice
theorem refl (s : State) : SameDevice s s := rfl
theorem of_outside {s t : State} (h : SameOutside s t) : SameDevice s t := by
  cases s; cases t
  simp only [SameDevice, SameOutside, State.mk.injEq] at *
  simp_all
theorem trans {s t u : State} (h : SameDevice s t) (k : SameDevice t u) : SameDevice s u := by
  cases s; cases t; cases u
  simp only [SameDevice, SameOutside, State.mk.injEq] at *
  simp_all
theorem outside {s t : State} (h : SameDevice s t) : SameOutside { s with inbox := t.inbox, hostHeld := t.hostHeld, fresh := t.fresh } t := h
theorem tasks {s t : State} (h : SameDevice s t) : t.tasks = s.tasks := h.outside.tasks
theorem queues {s t : State} (h : SameDevice s t) : t.queues = s.queues := h.outside.queues
theorem groups {s t : State} (h : SameDevice s t) : t.groups = s.groups := h.outside.groups
theorem cur {s t : State} (h : SameDevice s t) : t.cur = s.cur := h.outside.cur
theorem turn {s t : State} (h : SameDevice s t) : t.turn = s.turn := h.outside.turn
theorem ptc {s t : State} (h : SameDevice s t) : t.ptc = s.ptc := h.outside.ptc
theorem owners {s t : State} (h : SameDevice s t) : t.owners = s.owners := h.outside.owners
theorem slidemax {s t : State} (h : SameDevice s t) : t.slidemax = s.slidemax := h.outside.slidemax
theorem pre {s t : State} (h : SameDevice s t) : t.pre = s.pre := h.outside.pre
theorem outbox {s t : State} (h : SameDevice s t) : t.outbox = s.outbox := h.outside.outbox
end SameDevice

theorem State.ask_device (s : State) (c : Nat) : SameDevice s (s.ask c) := by
  unfold State.ask
  dsimp only
  split <;> rfl
/-- A write of a host function, a peer or the device. -/
theorem State.outsideWrite_device (s : State) (w : HeldWrite) : SameDevice s (s.outsideWrite w) := by
  unfold State.outsideWrite
  split
  · rfl
  · split
    · next h => exact .of_outside (State.store_outside _ _ _ _ _ _ _ _ h)
    · exact SameDevice.trans (t := { s with hostHeld := s.hostHeld ++ [w] }) rfl (State.ask_device _ _)
    · exact .of_outside (State.rasLog_outside _ _)
/-- The device's own writes. -/
theorem State.putMem_device (s t : State) (c va : Nat) (l : List Byte) (h : s.putMem c va l = some t) : SameDevice s t := by
  unfold State.putMem at h
  dsimp only at h
  split at h
  · cases h; exact s.outsideWrite_device _
  · cases h
theorem State.putMem'_device (s : State) (c va : Nat) (l : List Byte) : SameDevice s (s.putMem' c va l) := by
  unfold State.putMem'
  cases h : s.putMem c va l with
  | none => exact .refl s
  | some t => exact s.putMem_device t c va l h
theorem State.faultRecord_device (s : State) (c : Nat) (cause epc tval : Word) (r : Record) :
    SameDevice s (s.faultRecord c cause epc tval r) := by
  unfold State.faultRecord
  dsimp only
  refine SameDevice.trans ?_ (.of_outside (State.raiseVector_outside _ _ _))
  split
  · exact s.putMem'_device _ _ _
  · exact (s.putMem'_device _ _ _).trans (State.putMem'_device _ _ _ _)

/-! ### Where no write waits -/

/-- With no write waiting, no line is locked (12 R334, 14 R354). -/
theorem State.locked_of_noneHeld {s : State} (h : s.noneHeld) (line : Nat) (who : Nat × Nat × Nat) : s.locked line who = false := by
  obtain ⟨h0, h⟩ := h
  unfold State.locked
  rw [Bool.or_eq_false_iff]
  constructor
  · simp [State.outsideLocks, h0]
  · rw [List.any_eq_false]
    rintro ⟨i, t⟩ ht
    obtain ⟨h1, h2⟩ := h _ ht
    simp only [Bool.or_eq_true, not_or, Bool.not_eq_true]
    constructor
    · rw [List.any_eq_false]
      intro p hp
      simp [h1 p hp]
    · rw [List.any_eq_false]
      rintro ⟨k, c⟩ hc
      obtain ⟨h3, h4⟩ := h2 _ hc
      simp only [Bool.or_eq_true, not_or, Bool.not_eq_true]
      constructor
      · rw [List.any_eq_false]
        intro e he
        simp [h3 e he]
      · rw [List.any_eq_false]
        intro e he
        simp [h4 e he]
/-- With no write waiting, one of the device is made at once. -/
theorem State.outsideLocked_of_noneHeld {s : State} (h : s.noneHeld) (w : HeldWrite) : s.outsideLocked w = false := by
  unfold State.outsideLocked
  rw [Bool.or_eq_false_iff]
  exact ⟨by simp [h.1], by rw [List.any_eq_false]; intro l _; simp [State.locked_of_noneHeld h]⟩

end Sys2Proof.Machine
end

