-- ==== Sys2Proof/Laws/Canonical.lean ====
section
/-!
SUPPORT. Every operation of the memory system keeps memory's canonical form; a byte written reads back, and no other does.
-/

namespace Sys2Proof.Machine

/-- Where memory is in canonical form before, it is so after. -/
def KeepsForm (s t : State) : Prop := Memory.wf s.mem = true → Memory.wf t.mem = true

namespace KeepsForm
theorem refl (s : State) : KeepsForm s s := id
theorem trans {s t u : State} (h : KeepsForm s t) (k : KeepsForm t u) : KeepsForm s u := k ∘ h
/-- An operation that leaves memory's bytes alone. -/
theorem of_mem {s t : State} (h : t.mem = s.mem) : KeepsForm s t := fun w => by rwa [h]
end KeepsForm

theorem Memory.wf_reset : Memory.wf State.reset.mem = true := rfl

theorem State.writePa_form (s : State) (pa : Nat) (b : Byte) : KeepsForm s (s.writePa pa b) := by
  intro h
  unfold State.writePa
  split
  · exact SMap.wf_set _ _ _ _ (SMap.wf_set _ _ _ _ h)
  · exact SMap.wf_set _ _ _ _ h
theorem State.writePas_form (s : State) (pa : Nat) (l : List Byte) : KeepsForm s (s.writePas pa l) := by
  induction l generalizing s pa with
  | nil => exact .refl s
  | cons b l ih => exact (s.writePa_form pa b).trans (ih _ _)

theorem State.rasLog_mem (s : State) (r : Ras) : (s.rasLog r).mem = s.mem := rfl
theorem State.logForeign_mem (s : State) (c pa va : Nat) : (s.logForeign c pa va).mem = s.mem := rfl
theorem State.putVersion_mem (s : State) (v : Version) : (s.putVersion v).mem = s.mem := rfl
theorem State.putCopy_mem (s : State) (c : CopyLine) : (s.putCopy c).mem = s.mem := rfl
theorem State.dropCopy_mem (s : State) (d l : Nat) : (s.dropCopy d l).mem = s.mem := rfl
theorem State.noteAllocated_mem (s : State) (l : Nat) : (s.noteAllocated l).mem = s.mem := by
  unfold State.noteAllocated; split <;> rfl
theorem State.fillCopy_mem (s : State) (d l : Nat) (r : Option Nat) : (s.fillCopy d l r).mem = s.mem :=
  (State.noteAllocated_mem _ _).trans (s.putCopy_mem _)
theorem State.allocate_mem (s : State) (pa attr : Nat) : (s.allocate pa attr).mem = s.mem := by
  unfold State.allocate; split
  · rfl
  · exact s.noteAllocated_mem _
theorem State.dropOld_mem (s : State) (c : Option Nat) (v pa n : Nat) : (s.dropOld c v pa n).mem = s.mem := rfl
theorem State.keepOld_mem (s : State) (g : Agent) (y : Nat) (c : Option Nat) (v pa : Nat) (l : List Byte) :
    (s.keepOld g y c v pa l).mem = s.mem := rfl
theorem State.saveSystem_mem (s : State) (l : Nat) : (s.saveSystem l).mem = s.mem := by
  unfold State.saveSystem
  split
  · split <;> rfl
  · rfl
theorem State.saveShadows_mem (s : State) (l tv : Nat) : (s.saveShadows l tv).mem = s.mem := by
  have h0 : (if tv = 0 then s.saveSystem l else s).mem = s.mem := by
    split
    · exact s.saveSystem_mem l
    · rfl
  unfold State.saveShadows
  dsimp only
  generalize (if tv = 0 then s.saveSystem l else s) = u at h0 ⊢
  split
  · exact h0
  · split <;> exact h0
theorem State.makePrivate_mem (s : State) (o l tv : Nat) : (s.makePrivate o l tv).mem = s.mem := by
  unfold State.makePrivate; split <;> rfl
theorem State.useCopy_mem (s : State) (d l : Nat) : (s.useCopy d l).mem = s.mem := by
  unfold State.useCopy; split
  · split <;> rfl
  · rfl
theorem State.noteTlb_mem (s : State) (g : Agent) (va : Nat) : (s.noteTlb g va).mem = s.mem := by
  unfold State.noteTlb
  split
  · rfl
  · split
    · rfl
    · split <;> rfl

/-- Applying bytes of one line at its home. -/
theorem State.applyBytes_form (s : State) (o tv pa : Nat) (l : List Byte) (p : Bool) : KeepsForm s (s.applyBytes o tv pa l p) := by
  unfold State.applyBytes
  dsimp only
  split
  · exact s.writePas_form _ _
  · split
    · exact .of_mem rfl
    · generalize hu : ({ s with deadKey := cutRanges s.deadKey (pa / 128 * 128) 128 } : State) = u
      have h1 : KeepsForm s ((u.saveShadows (pa / 128) tv).makePrivate o (pa / 128) tv) :=
        .of_mem (by rw [State.makePrivate_mem, State.saveShadows_mem, ← hu])
      generalize (u.saveShadows (pa / 128) tv).makePrivate o (pa / 128) tv = w at h1 ⊢
      split
      · exact h1.trans (.of_mem rfl)
      · exact h1.trans ((w.writePas_form pa l).trans (.of_mem rfl))
theorem State.applyLine_form (s : State) (o tv pa : Nat) (l : List Byte) (p : Bool) : KeepsForm s (s.applyLine o tv pa l p) :=
  (s.applyBytes_form o tv pa l p).trans (.of_mem rfl)
/-- An AMO's write, byte by byte. -/
theorem State.applyAmo_form (s : State) (g : Agent) (issue tv pa : Nat) (l : List Byte) : KeepsForm s (s.applyAmo g issue tv pa l) := by
  induction l generalizing s pa with
  | nil => exact .refl s
  | cons b l ih =>
    unfold State.applyAmo
    dsimp only
    refine KeepsForm.trans ?_ (ih _ _)
    split
    · exact .of_mem rfl
    · exact s.applyLine_form _ _ _ _ _
/-- The system's own write of view 0. -/
theorem State.systemWrite_form (s : State) (pa : Nat) (l : List Byte) : KeepsForm s (s.systemWrite pa l) :=
  ((KeepsForm.of_mem (s.saveShadows_mem _ _)).trans (State.writePas_form _ _ _)).trans (.of_mem rfl)
/-- A copy's dirty bytes go home. -/
theorem State.writeBack_form (s : State) (d l : Nat) : KeepsForm s (s.writeBack d l) := by
  unfold State.writeBack
  split
  · exact .refl s
  · next c _ =>
    split
    · exact .refl s
    · have h0 : KeepsForm s { s.saveShadows l 0 with deadKey := cutRanges s.deadKey (l * 128) 128 } := .of_mem (s.saveShadows_mem l 0)
      dsimp only
      generalize ({ s.saveShadows l 0 with deadKey := cutRanges s.deadKey (l * 128) 128 } : State) = u at h0 ⊢
      have h1 : ∀ (ps : List (Nat × Byte)) (u : State),
          KeepsForm u (ps.foldl (fun s p => (s.writePa (l * 128 + p.1) p.2).dropOld none 0 (l * 128 + p.1) 1) u) := by
        intro ps
        induction ps with
        | nil => exact fun u => .refl u
        | cons p ps ih => exact fun u => ((u.writePa_form _ _).trans (.of_mem (State.dropOld_mem _ none 0 (l * 128 + p.1) 1))).trans (ih _)
      have h2 := h0.trans (h1 c.dirtyBytes u)
      generalize c.dirtyBytes.foldl (fun s p => (s.writePa (l * 128 + p.1) p.2).dropOld none 0 (l * 128 + p.1) 1) u = w at h2 ⊢
      exact h2.trans (.of_mem (State.noteAllocated_mem _ _))
theorem State.engineHome_form (s : State) (g : Agent) (y : Option Nat) (va pa attr : Nat) (l : List Byte) (p : Bool) :
    KeepsForm s (s.engineHome g y va pa attr l p) := by
  unfold State.engineHome
  dsimp only
  have h0 : KeepsForm s ((s.applyBytes g.ctx (g.target va attr) pa l p).allocate pa attr) :=
    (s.applyBytes_form _ _ _ _ _).trans (.of_mem (State.allocate_mem _ _ _))
  split
  · split
    · exact h0
    · exact h0.trans (.of_mem rfl)
  · exact h0.trans (.of_mem rfl)
theorem State.engineCopy_mem (s : State) (g : Agent) (y : Option Nat) (pa attr : Nat) (l : List Byte) (p : Bool) :
    (s.engineCopy g y pa attr l p).mem = s.mem := by
  unfold State.engineCopy
  split
  · dsimp only
    split <;> rfl
  · rfl
theorem State.engineLine_form (s : State) (g : Agent) (y : Option Nat) (va pa attr : Nat) (l : List Byte) (p : Bool) :
    KeepsForm s (s.engineLine g y va pa attr l p) :=
  (s.engineHome_form g y va pa attr l p).trans (.of_mem (State.engineCopy_mem _ _ _ _ _ _ _))
theorem State.storeLine_form (s : State) (g : Agent) (va pa attr : Nat) (l : List Byte) : KeepsForm s (s.storeLine g va pa attr l) := by
  unfold State.storeLine
  split
  · dsimp only
    have h : KeepsForm s (if (s.copyOf g.die (pa / 128)).isSome then s else s.fillCopy g.die (pa / 128) none) :=
      .of_mem (by
        split
        · rfl
        · exact s.fillCopy_mem _ _ _)
    generalize (if (s.copyOf g.die (pa / 128)).isSome then s else s.fillCopy g.die (pa / 128) none) = u at h ⊢
    split
    · exact h.trans (.of_mem rfl)
    · exact h
  · exact (s.applyLine_form _ _ _ _ _).trans (.of_mem (State.allocate_mem _ _ _))

/-- Applying a write. -/
theorem applyWrite_form (g : Agent) (k : Access) (e : Option (Option Nat)) (p : List Nat) (n : Nat) (s : State) (va : Nat) (l : List Byte) :
    KeepsForm s (applyWrite g k e p n s va l) := by
  induction n generalizing p s va l with
  | zero => exact .refl s
  | succ n ih =>
    unfold applyWrite
    split
    · exact .refl s
    · split
      · refine KeepsForm.trans ?_ (ih _ _ _ _)
        refine KeepsForm.trans (.of_mem (s.noteTlb_mem g va)) ?_
        split
        · exact State.engineLine_form _ _ _ _ _ _ _ _
        · exact State.storeLine_form _ _ _ _ _ _
      · exact .refl s
theorem State.store_form (s t : State) (g : Agent) (k : Access) (e : Option (Option Nat)) (p : List Nat) (va : Nat) (l : List Byte)
    (h : s.store g k e p va l = .done t) : KeepsForm s t := by
  unfold State.store at h
  split at h
  · cases h; exact applyWrite_form _ _ _ _ _ _ _ _
  · next h2 => exact absurd h (h2 t)

/-- Serving a read writes nothing. -/
theorem State.readLine_mem (s : State) (g : Agent) (old : Old) (va pa attr m : Nat) : (s.readLine g old va pa attr m).2.2.mem = s.mem := by
  unfold State.readLine
  dsimp only
  generalize hu : (if s.foreign g.ctx pa then s.logForeign g.ctx pa va else s.allocate pa attr) = u
  have h0 : u.mem = s.mem := by
    subst hu; split
    · rfl
    · exact s.allocate_mem _ _
  rw [← h0]
  split
  · split
    · exact State.useCopy_mem _ _ _
    · exact State.fillCopy_mem _ _ _ _
  · rfl
theorem serveRead_mem (g : Agent) (k : Access) (old : Old) (n : Nat) (s : State) (va m : Nat) (b : List Byte) (p : Bool)
    (t : State) (h : serveRead g k old n s va m = .done b p t) : t.mem = s.mem := by
  induction n generalizing s va m b p t with
  | zero => cases h; rfl
  | succ n ih =>
    unfold serveRead at h
    split at h
    · cases h; rfl
    · split at h
      · dsimp only at h
        split at h
        · next hd =>
          cases h
          rw [ih _ _ _ _ _ _ hd, State.readLine_mem, State.noteTlb_mem]
        · cases h
      · cases h
theorem State.load_mem (s t : State) (g : Agent) (k : Access) (va n : Nat) (b : List Byte) (p : Bool)
    (h : s.load g k va n = .done b p t) : t.mem = s.mem := serveRead_mem _ _ _ _ _ _ _ _ _ _ h

theorem State.ask_mem (s : State) (c : Nat) : (s.ask c).mem = s.mem := by
  unfold State.ask
  dsimp only
  split <;> rfl
/-- A write of a host function, a peer or the device. -/
theorem State.outsideWrite_form (s : State) (w : HeldWrite) : KeepsForm s (s.outsideWrite w) := by
  unfold State.outsideWrite
  split
  · exact .of_mem rfl
  · split
    · next h => exact State.store_form _ _ _ _ _ _ _ _ h
    · exact .of_mem (State.ask_mem _ _)
    · exact .of_mem (State.rasLog_mem _ _)
/-- The device's own writes. -/
theorem State.putMem_form (s t : State) (c va : Nat) (l : List Byte) (h : s.putMem c va l = some t) : KeepsForm s t := by
  unfold State.putMem at h
  dsimp only at h
  split at h
  · cases h; exact s.outsideWrite_form _
  · cases h
theorem State.putMem'_form (s : State) (c va : Nat) (l : List Byte) : KeepsForm s (s.putMem' c va l) := by
  unfold State.putMem'
  cases h : s.putMem c va l with
  | none => exact .refl s
  | some t => exact s.putMem_form t c va l h
theorem State.faultRecord_form (s : State) (c : Nat) (cause epc tval : Word) (r : Record) :
    KeepsForm s (s.faultRecord c cause epc tval r) := by
  unfold State.faultRecord
  dsimp only
  refine KeepsForm.trans ?_ (.of_mem rfl)
  split
  · exact s.putMem'_form _ _ _
  · exact (s.putMem'_form _ _ _).trans (State.putMem'_form _ _ _ _)

/-! ### Read after write -/

theorem State.storage_congr {s t : State} (h : t.dies = s.dies) (pa : Nat) : t.storage pa = s.storage pa := by
  simp [State.storage, State.remap, State.die, h]
theorem State.writePa_storage (s : State) (pa x : Nat) (b : Byte) : (s.writePa pa b).storage x = s.storage x :=
  State.storage_congr (by unfold State.writePa; split <;> rfl) x

/-- A byte written reads back. -/
theorem State.readPa_writePa_self (s : State) (pa : Nat) (b : Byte) : (s.writePa pa b).readPa pa = b := by
  unfold State.readPa
  rw [State.writePa_storage]
  unfold State.writePa
  split
  · simp only [SMap.get_set]
    split <;> simp
  · simp [SMap.get_set]
/-- No byte reads anew but at the storage that a write reaches (11 R315). -/
theorem State.readPa_writePa_of_ne (s : State) (pa x : Nat) (b : Byte) (h : s.storage x ≠ s.storage pa)
    (hm : s.mirror pa ≠ some (s.storage x)) : (s.writePa pa b).readPa x = s.readPa x := by
  unfold State.readPa
  rw [State.writePa_storage]
  unfold State.writePa
  split
  · next m hs =>
    simp only [SMap.get_set]
    rw [if_neg (fun e => hm (by rw [hs, e])), if_neg h]
  · simp only [SMap.get_set]
    rw [if_neg h]

end Sys2Proof.Machine
end

