-- ==== Sys2Proof/Laws/Dispatch.lean ====
section
/-!
SUPPORT. What `exec` calls for each constructor, so that no later proof unfolds its case split.
-/

namespace Sys2Proof.Machine

@[simp] theorem exec_idle (n) (s : State) : exec (.idle n) s = execIdle n s := rfl
@[simp] theorem exec_waitt (a im) (s : State) : exec (.waitt a im) s = execWaitt a im s := rfl
@[simp] theorem exec_add (d a b) (s : State) : exec (.add d a b) s = execAdd d a b s := rfl
@[simp] theorem exec_sub (d a b) (s : State) : exec (.sub d a b) s = execSub d a b s := rfl
@[simp] theorem exec_and (d a b) (s : State) : exec (.and d a b) s = execAnd d a b s := rfl
@[simp] theorem exec_or (d a b) (s : State) : exec (.or d a b) s = execOr d a b s := rfl
@[simp] theorem exec_xor (d a b) (s : State) : exec (.xor d a b) s = execXor d a b s := rfl
@[simp] theorem exec_sll (d a b) (s : State) : exec (.sll d a b) s = execSll d a b s := rfl
@[simp] theorem exec_srl (d a b) (s : State) : exec (.srl d a b) s = execSrl d a b s := rfl
@[simp] theorem exec_sra (d a b) (s : State) : exec (.sra d a b) s = execSra d a b s := rfl
@[simp] theorem exec_slt (d a b) (s : State) : exec (.slt d a b) s = execSlt d a b s := rfl
@[simp] theorem exec_sltn (d a b) (s : State) : exec (.sltn d a b) s = execSltn d a b s := rfl
@[simp] theorem exec_min (d a b) (s : State) : exec (.min d a b) s = execMin d a b s := rfl
@[simp] theorem exec_max (d a b) (s : State) : exec (.max d a b) s = execMax d a b s := rfl
@[simp] theorem exec_minn (d a b) (s : State) : exec (.minn d a b) s = execMinn d a b s := rfl
@[simp] theorem exec_maxn (d a b) (s : State) : exec (.maxn d a b) s = execMaxn d a b s := rfl
@[simp] theorem exec_clz (d a) (s : State) : exec (.clz d a) s = execClz d a s := rfl
@[simp] theorem exec_ctz (d a) (s : State) : exec (.ctz d a) s = execCtz d a s := rfl
@[simp] theorem exec_popc (d a) (s : State) : exec (.popc d a) s = execPopc d a s := rfl
@[simp] theorem exec_sext (d a w) (s : State) : exec (.sext d a w) s = execSext d a w s := rfl
@[simp] theorem exec_mul (d a b) (s : State) : exec (.mul d a b) s = execMul d a b s := rfl
@[simp] theorem exec_mulh (d a b) (s : State) : exec (.mulh d a b) s = execMulh d a b s := rfl
@[simp] theorem exec_mulhn (d a b) (s : State) : exec (.mulhn d a b) s = execMulhn d a b s := rfl
@[simp] theorem exec_div (d a b) (s : State) : exec (.div d a b) s = execDiv d a b s := rfl
@[simp] theorem exec_divn (d a b) (s : State) : exec (.divn d a b) s = execDivn d a b s := rfl
@[simp] theorem exec_rem (d a b) (s : State) : exec (.rem d a b) s = execRem d a b s := rfl
@[simp] theorem exec_remn (d a b) (s : State) : exec (.remn d a b) s = execRemn d a b s := rfl
@[simp] theorem exec_addi (d a im) (s : State) : exec (.addi d a im) s = execAddi d a im s := rfl
@[simp] theorem exec_andi (d a im) (s : State) : exec (.andi d a im) s = execAndi d a im s := rfl
@[simp] theorem exec_ori (d a im) (s : State) : exec (.ori d a im) s = execOri d a im s := rfl
@[simp] theorem exec_xori (d a im) (s : State) : exec (.xori d a im) s = execXori d a im s := rfl
@[simp] theorem exec_slti (d a im) (s : State) : exec (.slti d a im) s = execSlti d a im s := rfl
@[simp] theorem exec_sltni (d a im) (s : State) : exec (.sltni d a im) s = execSltni d a im s := rfl
@[simp] theorem exec_slli (d a sh) (s : State) : exec (.slli d a sh) s = execSlli d a sh s := rfl
@[simp] theorem exec_srli (d a sh) (s : State) : exec (.srli d a sh) s = execSrli d a sh s := rfl
@[simp] theorem exec_srai (d a sh) (s : State) : exec (.srai d a sh) s = execSrai d a sh s := rfl
@[simp] theorem exec_lui (d im) (s : State) : exec (.lui d im) s = execLui d im s := rfl
@[simp] theorem exec_addsh (d a b sh) (s : State) : exec (.addsh d a b sh) s = execAddsh d a b sh s := rfl
@[simp] theorem exec_madi (d a b im) (s : State) : exec (.madi d a b im) s = execMadi d a b im s := rfl
@[simp] theorem exec_beq (a b o) (s : State) : exec (.beq a b o) s = execBeq a b o s := rfl
@[simp] theorem exec_bne (a b o) (s : State) : exec (.bne a b o) s = execBne a b o s := rfl
@[simp] theorem exec_blt (a b o) (s : State) : exec (.blt a b o) s = execBlt a b o s := rfl
@[simp] theorem exec_bge (a b o) (s : State) : exec (.bge a b o) s = execBge a b o s := rfl
@[simp] theorem exec_bltn (a b o) (s : State) : exec (.bltn a b o) s = execBltn a b o s := rfl
@[simp] theorem exec_bgen (a b o) (s : State) : exec (.bgen a b o) s = execBgen a b o s := rfl
@[simp] theorem exec_j (o) (s : State) : exec (.j o) s = execJ o s := rfl
@[simp] theorem exec_jal (d o) (s : State) : exec (.jal d o) s = execJal d o s := rfl
@[simp] theorem exec_jr (d a im) (s : State) : exec (.jr d a im) s = execJr d a im s := rfl
@[simp] theorem exec_loop (l a e) (s : State) : exec (.loop l a e) s = execLoop l a e s := rfl
@[simp] theorem exec_loopi (l c e) (s : State) : exec (.loopi l c e) s = execLoopi l c e s := rfl
@[simp] theorem exec_loops (l k e) (s : State) : exec (.loops l k e) s = execLoops l k e s := rfl
@[simp] theorem exec_lregRead (d f) (s : State) : exec (.lregRead d f) s = execLregRead d f s := rfl
@[simp] theorem exec_lregWrite (a f) (s : State) : exec (.lregWrite a f) s = execLregWrite a f s := rfl
@[simp] theorem exec_ldq (d a z c o) (s : State) : exec (.ldq d a z c o) s = execLdq d a z c o s := rfl
@[simp] theorem exec_lqpop (d) (s : State) : exec (.lqpop d) s = execLqpop d s := rfl
@[simp] theorem exec_stq (d a z o) (s : State) : exec (.stq d a z o) s = execStq d a z o s := rfl
@[simp] theorem exec_lds (d a z o) (s : State) : exec (.lds d a z o) s = execLds d a z o s := rfl
@[simp] theorem exec_sts (d a z o) (s : State) : exec (.sts d a z o) s = execSts d a z o s := rfl
@[simp] theorem exec_mark (g st) (s : State) : exec (.mark g st) s = execMark g st s := rfl
@[simp] theorem exec_amo (a b p acq rel w) (s : State) : exec (.amo a b p acq rel w) s = execAmo a b p acq rel w s := rfl
@[simp] theorem exec_amoCas (d a b acq rel w) (s : State) : exec (.amoCas d a b acq rel w) s = execAmoCas d a b acq rel w s := rfl
@[simp] theorem exec_csrr (d c) (s : State) : exec (.csrr d c) s = execCsrr d c s := rfl
@[simp] theorem exec_csrw (d a c) (s : State) : exec (.csrw d a c) s = execCsrw d a c s := rfl
@[simp] theorem exec_csrs (d a c) (s : State) : exec (.csrs d a c) s = execCsrs d a c s := rfl
@[simp] theorem exec_csrc (d a c) (s : State) : exec (.csrc d a c) s = execCsrc d a c s := rfl
@[simp] theorem exec_trap (n) (s : State) : exec (.trap n) s = execTrap n s := rfl
@[simp] theorem exec_brk (n) (s : State) : exec (.brk n) s = execBrk n s := rfl
@[simp] theorem exec_tret (s : State) : exec (.tret) s = execTret s := rfl
@[simp] theorem exec_retire (s : State) : exec (.retire) s = execRetire s := rfl
@[simp] theorem exec_taskEndSignal (t) (s : State) : exec (.taskEndSignal t) s = execTaskEndSignal t s := rfl
@[simp] theorem exec_rgenter (d a) (s : State) : exec (.rgenter d a) s = execRgenter d a s := rfl
@[simp] theorem exec_allotCopyEngines (s : State) : exec (.allotCopyEngines) s = execAllotCopyEngines s := rfl
@[simp] theorem exec_regionEntry (s : State) : exec (.regionEntry) s = execRegionEntry s := rfl
@[simp] theorem exec_joinEntry (proposals cores) (s : State) :
    exec (.joinEntry proposals cores) s = execJoinEntry proposals cores s := rfl
@[simp] theorem exec_joinEntryTimeout (core) (s : State) : exec (.joinEntryTimeout core) s = execJoinEntryTimeout core s := rfl
@[simp] theorem exec_rgexit (s : State) : exec (.rgexit) s = execRgexit s := rfl
@[simp] theorem exec_regionExit (s : State) : exec (.regionExit) s = execRegionExit s := rfl
@[simp] theorem exec_realign (a im) (s : State) : exec (.realign a im) s = execRealign a im s := rfl
@[simp] theorem exec_ringcfg (a n) (s : State) : exec (.ringcfg a n) s = execRingcfg a n s := rfl
@[simp] theorem exec_ringq (d n st) (s : State) : exec (.ringq d n st) s = execRingq d n st s := rfl
@[simp] theorem exec_fmtw (u a) (s : State) : exec (.fmtw u a) s = execFmtw u a s := rfl
@[simp] theorem exec_wload (u m) (s : State) : exec (.wload u m) s = execWload u m s := rfl
@[simp] theorem exec_mmaR (u l m) (s : State) : exec (.mmaR u l m) s = execMmaR u l m s := rfl
@[simp] theorem exec_mmaC (u l m) (s : State) : exec (.mmaC u l m) s = execMmaC u l m s := rfl
@[simp] theorem exec_arrayCommandStart (arr) (s : State) : exec (.arrayCommandStart arr) s = execArrayCommandStart arr s := rfl
@[simp] theorem exec_wloadTileReplace (arr t) (s : State) : exec (.wloadTileReplace arr t) s = execWloadTileReplace arr t s := rfl
@[simp] theorem exec_contributionPerform (arr uid) (s : State) :
    exec (.contributionPerform arr uid) s = execContributionPerform arr uid s := rfl
@[simp] theorem exec_hopPerform (chain hop slot p) (s : State) :
    exec (.hopPerform chain hop slot p) s = execHopPerform chain hop slot p s := rfl
@[simp] theorem exec_chbuild (im a) (s : State) : exec (.chbuild im a) s = execChbuild im a s := rfl
@[simp] theorem exec_chainConfigArrival (chain hop slot residual splice) (s : State) :
    exec (.chainConfigArrival chain hop slot residual splice) s = execChainConfigArrival chain hop slot residual splice s := rfl
@[simp] theorem exec_chclose (im) (s : State) : exec (.chclose im) s = execChclose im s := rfl
@[simp] theorem exec_closeRowPerform (w) (s : State) : exec (.closeRowPerform w) s = execCloseRowPerform w s := rfl
@[simp] theorem exec_normContribution (slot pc who q) (s : State) :
    exec (.normContribution slot pc who q) s = execNormContribution slot pc who q s := rfl
@[simp] theorem exec_chainRelease (chain slot) (s : State) :
    exec (.chainRelease chain slot) s = execChainRelease chain slot s := rfl
@[simp] theorem exec_chfree (im) (s : State) : exec (.chfree im) s = execChfree im s := rfl
@[simp] theorem exec_chstat (im a) (s : State) : exec (.chstat im a) s = execChstat im a s := rfl
@[simp] theorem exec_chsplice (im a k) (s : State) : exec (.chsplice im a k) s = execChsplice im a k s := rfl
@[simp] theorem exec_chainFreeze (chain hop reason) (s : State) :
    exec (.chainFreeze chain hop reason) s = execChainFreeze chain hop reason s := rfl
@[simp] theorem exec_lzero (st) (s : State) : exec (.lzero st) s = execLzero st s := rfl
@[simp] theorem exec_lread (st m) (s : State) : exec (.lread st m) s = execLread st m s := rfl
@[simp] theorem exec_lreadM (st m) (s : State) : exec (.lreadM st m) s = execLreadM st m s := rfl
@[simp] theorem exec_sstr (a n) (s : State) : exec (.sstr a n) s = execSstr a n s := rfl
@[simp] theorem exec_gcfg (a) (s : State) : exec (.gcfg a) s = execGcfg a s := rfl
@[simp] theorem exec_configReady (uid) (s : State) : exec (.configReady uid) s = execConfigReady uid s := rfl
@[simp] theorem exec_grun (a) (s : State) : exec (.grun a) s = execGrun a s := rfl
@[simp] theorem exec_grunC (a) (s : State) : exec (.grunC a) s = execGrunC a s := rfl
@[simp] theorem exec_grunS (k) (s : State) : exec (.grunS k) s = execGrunS k s := rfl
@[simp] theorem exec_grunCS (k) (s : State) : exec (.grunCS k) s = execGrunCS k s := rfl
@[simp] theorem exec_gridRunStart (run) (s : State) : exec (.gridRunStart run) s = execGridRunStart run s := rfl
@[simp] theorem exec_gridBundleIssue (run) (s : State) : exec (.gridBundleIssue run) s = execGridBundleIssue run s := rfl
@[simp] theorem exec_gridRunEnd (run) (s : State) : exec (.gridRunEnd run) s = execGridRunEnd run s := rfl
@[simp] theorem exec_streamBeat (se run beat) (s : State) : exec (.streamBeat se run beat) s = execStreamBeat se run beat s := rfl
@[simp] theorem exec_streamWritePerform (se run dst bytes) (s : State) :
    exec (.streamWritePerform se run dst bytes) s = execStreamWritePerform se run dst bytes s := rfl
@[simp] theorem exec_copy (a n) (s : State) : exec (.copy a n) s = execCopy a n s := rfl
@[simp] theorem exec_copyd (a n) (s : State) : exec (.copyd a n) s = execCopyd a n s := rfl
@[simp] theorem exec_copyRowStage (uid row) (s : State) : exec (.copyRowStage uid row) s = execCopyRowStage uid row s := rfl
@[simp] theorem exec_copyRowPerform (uid row) (s : State) : exec (.copyRowPerform uid row) s = execCopyRowPerform uid row s := rfl
@[simp] theorem exec_copydDigestPerform (uid) (s : State) : exec (.copydDigestPerform uid) s = execCopydDigestPerform uid s := rfl
@[simp] theorem exec_erchkOn (a b) (s : State) : exec (.erchkOn a b) s = execErchkOn a b s := rfl
@[simp] theorem exec_erchkOff (s : State) : exec (.erchkOff) s = execErchkOff s := rfl
@[simp] theorem exec_cwb (a b) (s : State) : exec (.cwb a b) s = execCwb a b s := rfl
@[simp] theorem exec_cinv (a b) (s : State) : exec (.cinv a b) s = execCinv a b s := rfl
@[simp] theorem exec_cwbi (a b) (s : State) : exec (.cwbi a b) s = execCwbi a b s := rfl
@[simp] theorem exec_cpf (a b c) (s : State) : exec (.cpf a b c) s = execCpf a b c s := rfl
@[simp] theorem exec_launch (d a b) (s : State) : exec (.launch d a b) s = execLaunch d a b s := rfl
@[simp] theorem exec_fork (d a) (s : State) : exec (.fork d a) s = execFork d a s := rfl
@[simp] theorem exec_greport (a) (s : State) : exec (.greport a) s = execGreport a s := rfl
@[simp] theorem exec_gwait (d a) (s : State) : exec (.gwait d a) s = execGwait d a s := rfl
@[simp] theorem exec_gwaitY (d a) (s : State) : exec (.gwaitY d a) s = execGwaitY d a s := rfl
@[simp] theorem exec_gcancel (d a b) (s : State) : exec (.gcancel d a b) s = execGcancel d a b s := rfl
@[simp] theorem exec_gstat (d a b sel) (s : State) : exec (.gstat d a b sel) s = execGstat d a b sel s := rfl
@[simp] theorem exec_snap (d a b) (s : State) : exec (.snap d a b) s = execSnap d a b s := rfl
@[simp] theorem exec_accept (d a) (s : State) : exec (.accept d a) s = execAccept d a s := rfl
@[simp] theorem exec_reject (d a) (s : State) : exec (.reject d a) s = execReject d a s := rfl
@[simp] theorem exec_snapq (d a sel) (s : State) : exec (.snapq d a sel) s = execSnapq d a sel s := rfl
@[simp] theorem exec_fadd (f) (s : State) : exec (.fadd f) s = execFadd f s := rfl
@[simp] theorem exec_fsub (f) (s : State) : exec (.fsub f) s = execFsub f s := rfl
@[simp] theorem exec_fmul (f) (s : State) : exec (.fmul f) s = execFmul f s := rfl
@[simp] theorem exec_fma (f) (s : State) : exec (.fma f) s = execFma f s := rfl
@[simp] theorem exec_fms (f) (s : State) : exec (.fms f) s = execFms f s := rfl
@[simp] theorem exec_fmin (f) (s : State) : exec (.fmin f) s = execFmin f s := rfl
@[simp] theorem exec_fmax (f) (s : State) : exec (.fmax f) s = execFmax f s := rfl
@[simp] theorem exec_fcmp (f) (s : State) : exec (.fcmp f) s = execFcmp f s := rfl
@[simp] theorem exec_fsel (f) (s : State) : exec (.fsel f) s = execFsel f s := rfl
@[simp] theorem exec_fsgn (f) (s : State) : exec (.fsgn f) s = execFsgn f s := rfl
@[simp] theorem exec_fspec (f) (s : State) : exec (.fspec f) s = execFspec f s := rfl
@[simp] theorem exec_cvt (f) (s : State) : exec (.cvt f) s = execCvt f s := rfl
@[simp] theorem exec_bf2 (f) (s : State) : exec (.bf2 f) s = execBf2 f s := rfl
@[simp] theorem exec_iadd (f) (s : State) : exec (.iadd f) s = execIadd f s := rfl
@[simp] theorem exec_isub (f) (s : State) : exec (.isub f) s = execIsub f s := rfl
@[simp] theorem exec_imul (f) (s : State) : exec (.imul f) s = execImul f s := rfl
@[simp] theorem exec_ilog (f) (s : State) : exec (.ilog f) s = execIlog f s := rfl
@[simp] theorem exec_ish (f) (s : State) : exec (.ish f) s = execIsh f s := rfl
@[simp] theorem exec_icmp (f) (s : State) : exec (.icmp f) s = execIcmp f s := rfl
@[simp] theorem exec_iminmax (f) (s : State) : exec (.iminmax f) s = execIminmax f s := rfl
@[simp] theorem exec_mov (f) (s : State) : exec (.mov f) s = execMov f s := rfl
@[simp] theorem exec_lperm (f) (s : State) : exec (.lperm f) s = execLperm f s := rfl
@[simp] theorem exec_lbcast (f) (s : State) : exec (.lbcast f) s = execLbcast f s := rfl
@[simp] theorem exec_lred (f) (s : State) : exec (.lred f) s = execLred f s := rfl
@[simp] theorem exec_lshift (f) (s : State) : exec (.lshift f) s = execLshift f s := rfl
@[simp] theorem exec_msk (f) (s : State) : exec (.msk f) s = execMsk f s := rfl
@[simp] theorem exec_rngc (f) (s : State) : exec (.rngc f) s = execRngc f s := rfl
@[simp] theorem exec_defer (f) (s : State) : exec (.defer f) s = execDefer f s := rfl
@[simp] theorem exec_gridSlotCScalar (w) (s : State) : exec (.gridSlotCScalar w) s = execGridSlotCScalar w s := rfl
@[simp] theorem exec_gridResultPerform (w) (s : State) : exec (.gridResultPerform w) s = execGridResultPerform w s := rfl
@[simp] theorem exec_cpResultPerform (d v) (s : State) : exec (.cpResultPerform d v) s = execCpResultPerform d v s := rfl
@[simp] theorem exec_loadReplyLand (seq) (s : State) : exec (.loadReplyLand seq) s = execLoadReplyLand seq s := rfl
@[simp] theorem exec_storePerform (seq) (s : State) : exec (.storePerform seq) s = execStorePerform seq s := rfl
@[simp] theorem exec_storeQueueAccept (seq) (s : State) : exec (.storeQueueAccept seq) s = execStoreQueueAccept seq s := rfl
@[simp] theorem exec_regionFreeze (why) (s : State) : exec (.regionFreeze why) s = execRegionFreeze why s := rfl
@[simp] theorem exec_itemLand (s : State) : exec (.itemLand) s = execItemLand s := rfl
@[simp] theorem exec_regionResume (s : State) : exec (.regionResume) s = execRegionResume s := rfl
@[simp] theorem exec_slideTimeout (s : State) : exec (.slideTimeout) s = execSlideTimeout s := rfl
@[simp] theorem exec_regionDeadline (s : State) : exec (.regionDeadline) s = execRegionDeadline s := rfl
@[simp] theorem exec_taskBudgetExpiry (s : State) : exec (.taskBudgetExpiry) s = execTaskBudgetExpiry s := rfl
@[simp] theorem exec_preemptionRequest (t) (s : State) : exec (.preemptionRequest t) s = execPreemptionRequest t s := rfl
@[simp] theorem exec_saveComplete (s : State) : exec (.saveComplete) s = execSaveComplete s := rfl
@[simp] theorem exec_restoreBind (s : State) : exec (.restoreBind) s = execRestoreBind s := rfl
@[simp] theorem exec_restoreResume (s : State) : exec (.restoreResume) s = execRestoreResume s := rfl
@[simp] theorem exec_selection (s : State) : exec (.selection) s = execSelection s := rfl
@[simp] theorem exec_taskBind (s : State) : exec (.taskBind) s = execTaskBind s := rfl
@[simp] theorem exec_taskRefused (q reason) (s : State) : exec (.taskRefused q reason) s = execTaskRefused q reason s := rfl
@[simp] theorem exec_submit (fn q) (s : State) : exec (.submit fn q) s = execSubmit fn q s := rfl
@[simp] theorem exec_cancelQueued (fn q) (s : State) : exec (.cancelQueued fn q) s = execCancelQueued fn q s := rfl
@[simp] theorem exec_cancelAll (fn q) (s : State) : exec (.cancelAll fn q) s = execCancelAll fn q s := rfl
@[simp] theorem exec_registerWrite (r) (s : State) : exec (.registerWrite r) s = execRegisterWrite r s := rfl
@[simp] theorem exec_queueEnable (q) (s : State) : exec (.queueEnable q) s = execQueueEnable q s := rfl
@[simp] theorem exec_slidemaxWrite (v) (s : State) : exec (.slidemaxWrite v) s = execSlidemaxWrite v s := rfl
@[simp] theorem exec_groupDeadline (g) (s : State) : exec (.groupDeadline g) s = execGroupDeadline g s := rfl
@[simp] theorem exec_groupReportApply (g im) (s : State) : exec (.groupReportApply g im) s = execGroupReportApply g im s := rfl
@[simp] theorem exec_groupMemberEnd (g im) (s : State) : exec (.groupMemberEnd g im) s = execGroupMemberEnd g im s := rfl
@[simp] theorem exec_groupCancelApply (g) (s : State) : exec (.groupCancelApply g) s = execGroupCancelApply g s := rfl
@[simp] theorem exec_gwaitRelease (g) (s : State) : exec (.gwaitRelease g) s = execGwaitRelease g s := rfl
@[simp] theorem exec_quotaGrow (ctx lines) (s : State) : exec (.quotaGrow ctx lines) s = execQuotaGrow ctx lines s := rfl
@[simp] theorem exec_translationFaultResolve (ctx edit) (s : State) :
    exec (.translationFaultResolve ctx edit) s = execTranslationFaultResolve ctx edit s := rfl
@[simp] theorem exec_translationFaultUnresolvable (t) (s : State) :
    exec (.translationFaultUnresolvable t) s = execTranslationFaultUnresolvable t s := rfl
@[simp] theorem exec_translationFlush (ctx) (s : State) : exec (.translationFlush ctx) s = execTranslationFlush ctx s := rfl
@[simp] theorem exec_migrationCopy (granule target) (s : State) :
    exec (.migrationCopy granule target) s = execMigrationCopy granule target s := rfl
@[simp] theorem exec_migrationFlip (granule) (s : State) : exec (.migrationFlip granule) s = execMigrationFlip granule s := rfl
@[simp] theorem exec_migrationCleanup (granule edit) (s : State) :
    exec (.migrationCleanup granule edit) s = execMigrationCleanup granule edit s := rfl
@[simp] theorem exec_sliceRetire (die slice) (s : State) : exec (.sliceRetire die slice) s = execSliceRetire die slice s := rfl
@[simp] theorem exec_remapResponse (task core seq) (s : State) :
    exec (.remapResponse task core seq) s = execRemapResponse task core seq s := rfl
@[simp] theorem exec_copyEviction (die line) (s : State) : exec (.copyEviction die line) s = execCopyEviction die line s := rfl
@[simp] theorem exec_correctableError (p) (s : State) : exec (.correctableError p) s = execCorrectableError p s := rfl
@[simp] theorem exec_uncorrectableError (p consumed) (s : State) :
    exec (.uncorrectableError p consumed) s = execUncorrectableError p consumed s := rfl
@[simp] theorem exec_resourceRetire (r) (s : State) : exec (.resourceRetire r) s = execResourceRetire r s := rfl
@[simp] theorem exec_hostMemoryRead (fn va n) (s : State) : exec (.hostMemoryRead fn va n) s = execHostMemoryRead fn va n s := rfl
@[simp] theorem exec_hostMemoryWrite (fn va bytes) (s : State) :
    exec (.hostMemoryWrite fn va bytes) s = execHostMemoryWrite fn va bytes s := rfl
@[simp] theorem exec_msixMessage (fn vec) (s : State) : exec (.msixMessage fn vec) s = execMsixMessage fn vec s := rfl
@[simp] theorem exec_getVersion (tr) (s : State) : exec (.getVersion tr) s = execGetVersion tr s := rfl
@[simp] theorem exec_getCapabilities (tr) (s : State) : exec (.getCapabilities tr) s = execGetCapabilities tr s := rfl
@[simp] theorem exec_negotiateAlgorithms (tr p521 sha512 secp521r1 aes256gcm) (s : State) :
    exec (.negotiateAlgorithms tr p521 sha512 secp521r1 aes256gcm) s = execNegotiateAlgorithms tr p521 sha512 secp521r1 aes256gcm s := rfl
@[simp] theorem exec_getDigests (tr) (s : State) : exec (.getDigests tr) s = execGetDigests tr s := rfl
@[simp] theorem exec_getCertificate (tr slot off len) (s : State) :
    exec (.getCertificate tr slot off len) s = execGetCertificate tr slot off len s := rfl
@[simp] theorem exec_challenge (tr slot nonce) (s : State) :
    exec (.challenge tr slot nonce) s = execChallenge tr slot nonce s := rfl
@[simp] theorem exec_getMeasurements (tr index) (s : State) :
    exec (.getMeasurements tr index) s = execGetMeasurements tr index s := rfl
@[simp] theorem exec_keyExchange (tr slot) (s : State) : exec (.keyExchange tr slot) s = execKeyExchange tr slot s := rfl
@[simp] theorem exec_finish (tr session) (s : State) : exec (.finish tr session) s = execFinish tr session s := rfl
@[simp] theorem exec_heartbeat (tr session) (s : State) : exec (.heartbeat tr session) s = execHeartbeat tr session s := rfl
@[simp] theorem exec_endSession (tr session) (s : State) : exec (.endSession tr session) s = execEndSession tr session s := rfl
@[simp] theorem exec_ideKm (tr session fn bind) (s : State) :
    exec (.ideKm tr session fn bind) s = execIdeKm tr session fn bind s := rfl
@[simp] theorem exec_tdispRequest (fn next) (s : State) : exec (.tdispRequest fn next) s = execTdispRequest fn next s := rfl
@[simp] theorem exec_sealContext (ctx) (s : State) : exec (.sealContext ctx) s = execSealContext ctx s := rfl
@[simp] theorem exec_tdiUnlock (fn error) (s : State) : exec (.tdiUnlock fn error) s = execTdiUnlock fn error s := rfl
@[simp] theorem exec_flitReceive (port f) (s : State) : exec (.flitReceive port f) s = execFlitReceive port f s := rfl
@[simp] theorem exec_nak (port seq) (s : State) : exec (.nak port seq) s = execNak port seq s := rfl
@[simp] theorem exec_linkFail (port) (s : State) : exec (.linkFail port) s = execLinkFail port s := rfl
@[simp] theorem exec_linkRetrain (port latency) (s : State) :
    exec (.linkRetrain port latency) s = execLinkRetrain port latency s := rfl
@[simp] theorem exec_counterFlitSend (port) (s : State) : exec (.counterFlitSend port) s = execCounterFlitSend port s := rfl
@[simp] theorem exec_counterFlitReceive (port ts) (s : State) :
    exec (.counterFlitReceive port ts) s = execCounterFlitReceive port ts s := rfl
@[simp] theorem exec_peerTransfer (ctx va bytes) (s : State) :
    exec (.peerTransfer ctx va bytes) s = execPeerTransfer ctx va bytes s := rfl
@[simp] theorem exec_memoryCheckpoint (s : State) : exec (.memoryCheckpoint) s = execMemoryCheckpoint s := rfl
@[simp] theorem exec_fullCheckpoint (s : State) : exec (.fullCheckpoint) s = execFullCheckpoint s := rfl
@[simp] theorem exec_checkpointRestore (image signature) (s : State) :
    exec (.checkpointRestore image signature) s = execCheckpointRestore image signature s := rfl
@[simp] theorem exec_powerOnReset (s : State) : exec (.powerOnReset) s = execPowerOnReset s := rfl
@[simp] theorem exec_bringUp (ok) (s : State) : exec (.bringUp ok) s = execBringUp ok s := rfl
@[simp] theorem exec_throttle (s : State) : exec (.throttle) s = execThrottle s := rfl
@[simp] theorem exec_throttleResume (s : State) : exec (.throttleResume) s = execThrottleResume s := rfl
@[simp] theorem exec_thermalTrip (die) (s : State) : exec (.thermalTrip die) s = execThermalTrip die s := rfl
@[simp] theorem exec_illegalInstruction (w) (s : State) : exec (.illegalInstruction w) s = execIllegalInstruction w s := rfl
@[simp] theorem exec_contextDestroy (ctx) (s : State) : exec (.contextDestroy ctx) s = execContextDestroy ctx s := rfl
@[simp] theorem exec_checkpointDrainComplete (s : State) :
    exec (.checkpointDrainComplete) s = execCheckpointDrainComplete s := rfl

end Sys2Proof.Machine
end

