-- ==== Sys2Proof/Laws/Encoding.lean ====
section
/-!
SUPPORT. What each field of a packed word is (02 R45 to R47), one lemma for each field of each format.
-/

namespace Sys2Proof.Laws

/-- The number of two fields side by side. -/
theorem toNat_append {n m : Nat} (x : BitVec n) (y : BitVec m) : (x ++ y).toNat = x.toNat * 2 ^ m + y.toNat := by
  rw [BitVec.toNat_append, Nat.shiftLeft_eq, mul_comm, Nat.two_pow_add_eq_or_of_lt y.isLt]

/-- The number of a field. -/
theorem fld_toNat (w : Word32) (lo n : Nat) : (fld w lo n).toNat = w.toNat / 2 ^ lo % 2 ^ n := by
  simp [fld, Nat.shiftRight_eq_div_pow]

/-- An instruction whose reserved fields are zero and whose fields are in range is kept. -/
theorem keep_some {r : Bool} {i : Instr} (h : r = true) (hw : wellFormed i = true) : keep r i = some i := by
  simp [keep, h, hw]

/-- The number of a word with opcode and rest. -/
theorem pack_toNat (op : BitVec 7) (r : BitVec 25) : (pack op r).toNat = op.toNat * 2 ^ 25 + r.toNat := toNat_append op r

theorem pack_op (op : BitVec 7) (r : BitVec 25) : fld (pack op r) 25 7 = op := by
  apply BitVec.eq_of_toNat_eq
  have := op.isLt; have := r.isLt
  rw [fld_toNat, pack_toNat]; omega

theorem pack_low (op : BitVec 7) (r : BitVec 25) : fld (pack op r) 0 25 = r := by
  apply BitVec.eq_of_toNat_eq
  have := op.isLt; have := r.isLt
  rw [fld_toNat, pack_toNat]; omega

/-- The number of a packRR word. -/
theorem packRR_toNat (op : BitVec 7) (d : BitVec 6) (a : BitVec 6) (b : BitVec 6) (f : BitVec 7) :
    (packRR op d a b f).toNat = op.toNat * 2 ^ 25 + (((d.toNat * 2 ^ 6 + a.toNat) * 2 ^ 6 + b.toNat) * 2 ^ 7 + f.toNat) := by
  refine (pack_toNat op (d ++ a ++ b ++ f)).trans ?_
  congr 1
  refine (toNat_append (d ++ a ++ b) f).trans ?_
  rw [toNat_append (d ++ a) b, toNat_append (d) a]

theorem packRR_op (op : BitVec 7) (d : BitVec 6) (a : BitVec 6) (b : BitVec 6) (f : BitVec 7) : fld (packRR op d a b f) 25 7 = op := by
  apply BitVec.eq_of_toNat_eq
  have := op.isLt; have := d.isLt; have := a.isLt; have := b.isLt; have := f.isLt
  rw [fld_toNat, packRR_toNat]; omega

theorem packRR_d (op : BitVec 7) (d : BitVec 6) (a : BitVec 6) (b : BitVec 6) (f : BitVec 7) : fd (packRR op d a b f) = d := by
  apply BitVec.eq_of_toNat_eq
  have := op.isLt; have := d.isLt; have := a.isLt; have := b.isLt; have := f.isLt
  rw [fd, fld_toNat, packRR_toNat]; omega

theorem packRR_a (op : BitVec 7) (d : BitVec 6) (a : BitVec 6) (b : BitVec 6) (f : BitVec 7) : fa (packRR op d a b f) = a := by
  apply BitVec.eq_of_toNat_eq
  have := op.isLt; have := d.isLt; have := a.isLt; have := b.isLt; have := f.isLt
  rw [fa, fld_toNat, packRR_toNat]; omega

theorem packRR_b (op : BitVec 7) (d : BitVec 6) (a : BitVec 6) (b : BitVec 6) (f : BitVec 7) : fb (packRR op d a b f) = b := by
  apply BitVec.eq_of_toNat_eq
  have := op.isLt; have := d.isLt; have := a.isLt; have := b.isLt; have := f.isLt
  rw [fb, fld_toNat, packRR_toNat]; omega

theorem packRR_f (op : BitVec 7) (d : BitVec 6) (a : BitVec 6) (b : BitVec 6) (f : BitVec 7) : fld (packRR op d a b f) 0 7 = f := by
  apply BitVec.eq_of_toNat_eq
  have := op.isLt; have := d.isLt; have := a.isLt; have := b.isLt; have := f.isLt
  rw [fld_toNat, packRR_toNat]; omega

/-- The number of a packRI word. -/
theorem packRI_toNat (op : BitVec 7) (d : BitVec 6) (a : BitVec 6) (i : BitVec 13) :
    (packRI op d a i).toNat = op.toNat * 2 ^ 25 + ((d.toNat * 2 ^ 6 + a.toNat) * 2 ^ 13 + i.toNat) := by
  refine (pack_toNat op (d ++ a ++ i)).trans ?_
  congr 1
  refine (toNat_append (d ++ a) i).trans ?_
  rw [toNat_append (d) a]

theorem packRI_op (op : BitVec 7) (d : BitVec 6) (a : BitVec 6) (i : BitVec 13) : fld (packRI op d a i) 25 7 = op := by
  apply BitVec.eq_of_toNat_eq
  have := op.isLt; have := d.isLt; have := a.isLt; have := i.isLt
  rw [fld_toNat, packRI_toNat]; omega

theorem packRI_d (op : BitVec 7) (d : BitVec 6) (a : BitVec 6) (i : BitVec 13) : fd (packRI op d a i) = d := by
  apply BitVec.eq_of_toNat_eq
  have := op.isLt; have := d.isLt; have := a.isLt; have := i.isLt
  rw [fd, fld_toNat, packRI_toNat]; omega

theorem packRI_a (op : BitVec 7) (d : BitVec 6) (a : BitVec 6) (i : BitVec 13) : fa (packRI op d a i) = a := by
  apply BitVec.eq_of_toNat_eq
  have := op.isLt; have := d.isLt; have := a.isLt; have := i.isLt
  rw [fa, fld_toNat, packRI_toNat]; omega

theorem packRI_i (op : BitVec 7) (d : BitVec 6) (a : BitVec 6) (i : BitVec 13) : fld (packRI op d a i) 0 13 = i := by
  apply BitVec.eq_of_toNat_eq
  have := op.isLt; have := d.isLt; have := a.isLt; have := i.isLt
  rw [fld_toNat, packRI_toNat]; omega

/-- The number of a packU word. -/
theorem packU_toNat (op : BitVec 7) (d : BitVec 6) (i : BitVec 19) :
    (packU op d i).toNat = op.toNat * 2 ^ 25 + (d.toNat * 2 ^ 19 + i.toNat) := by
  refine (pack_toNat op (d ++ i)).trans ?_
  congr 1
  refine (toNat_append (d) i).trans ?_
  rfl

theorem packU_op (op : BitVec 7) (d : BitVec 6) (i : BitVec 19) : fld (packU op d i) 25 7 = op := by
  apply BitVec.eq_of_toNat_eq
  have := op.isLt; have := d.isLt; have := i.isLt
  rw [fld_toNat, packU_toNat]; omega

theorem packU_d (op : BitVec 7) (d : BitVec 6) (i : BitVec 19) : fd (packU op d i) = d := by
  apply BitVec.eq_of_toNat_eq
  have := op.isLt; have := d.isLt; have := i.isLt
  rw [fd, fld_toNat, packU_toNat]; omega

theorem packU_i (op : BitVec 7) (d : BitVec 6) (i : BitVec 19) : fld (packU op d i) 0 19 = i := by
  apply BitVec.eq_of_toNat_eq
  have := op.isLt; have := d.isLt; have := i.isLt
  rw [fld_toNat, packU_toNat]; omega

/-- The number of a packQ word. -/
theorem packQ_toNat (op : BitVec 7) (d : BitVec 6) (a : BitVec 6) (z : BitVec 2) (c : BitVec 2) (o : BitVec 9) :
    (packQ op d a z c o).toNat = op.toNat * 2 ^ 25 + ((((d.toNat * 2 ^ 6 + a.toNat) * 2 ^ 2 + z.toNat) * 2 ^ 2 + c.toNat) * 2 ^ 9 + o.toNat) := by
  refine (pack_toNat op (d ++ a ++ z ++ c ++ o)).trans ?_
  congr 1
  refine (toNat_append (d ++ a ++ z ++ c) o).trans ?_
  rw [toNat_append (d ++ a ++ z) c, toNat_append (d ++ a) z, toNat_append (d) a]

theorem packQ_op (op : BitVec 7) (d : BitVec 6) (a : BitVec 6) (z : BitVec 2) (c : BitVec 2) (o : BitVec 9) : fld (packQ op d a z c o) 25 7 = op := by
  apply BitVec.eq_of_toNat_eq
  have := op.isLt; have := d.isLt; have := a.isLt; have := z.isLt; have := c.isLt; have := o.isLt
  rw [fld_toNat, packQ_toNat]; omega

theorem packQ_d (op : BitVec 7) (d : BitVec 6) (a : BitVec 6) (z : BitVec 2) (c : BitVec 2) (o : BitVec 9) : fd (packQ op d a z c o) = d := by
  apply BitVec.eq_of_toNat_eq
  have := op.isLt; have := d.isLt; have := a.isLt; have := z.isLt; have := c.isLt; have := o.isLt
  rw [fd, fld_toNat, packQ_toNat]; omega

theorem packQ_a (op : BitVec 7) (d : BitVec 6) (a : BitVec 6) (z : BitVec 2) (c : BitVec 2) (o : BitVec 9) : fa (packQ op d a z c o) = a := by
  apply BitVec.eq_of_toNat_eq
  have := op.isLt; have := d.isLt; have := a.isLt; have := z.isLt; have := c.isLt; have := o.isLt
  rw [fa, fld_toNat, packQ_toNat]; omega

theorem packQ_z (op : BitVec 7) (d : BitVec 6) (a : BitVec 6) (z : BitVec 2) (c : BitVec 2) (o : BitVec 9) : fld (packQ op d a z c o) 11 2 = z := by
  apply BitVec.eq_of_toNat_eq
  have := op.isLt; have := d.isLt; have := a.isLt; have := z.isLt; have := c.isLt; have := o.isLt
  rw [fld_toNat, packQ_toNat]; omega

theorem packQ_c (op : BitVec 7) (d : BitVec 6) (a : BitVec 6) (z : BitVec 2) (c : BitVec 2) (o : BitVec 9) : fld (packQ op d a z c o) 9 2 = c := by
  apply BitVec.eq_of_toNat_eq
  have := op.isLt; have := d.isLt; have := a.isLt; have := z.isLt; have := c.isLt; have := o.isLt
  rw [fld_toNat, packQ_toNat]; omega

theorem packQ_o (op : BitVec 7) (d : BitVec 6) (a : BitVec 6) (z : BitVec 2) (c : BitVec 2) (o : BitVec 9) : fld (packQ op d a z c o) 0 9 = o := by
  apply BitVec.eq_of_toNat_eq
  have := op.isLt; have := d.isLt; have := a.isLt; have := z.isLt; have := c.isLt; have := o.isLt
  rw [fld_toNat, packQ_toNat]; omega

/-- The number of a packAM word. -/
theorem packAM_toNat (d : BitVec 6) (a : BitVec 6) (b : BitVec 6) (p : BitVec 4) (q : BitVec 1) (r : BitVec 1) (w : BitVec 1) :
    (packAM d a b p q r w).toNat = (0x46 : BitVec 7).toNat * 2 ^ 25 + ((((((d.toNat * 2 ^ 6 + a.toNat) * 2 ^ 6 + b.toNat) * 2 ^ 4 + p.toNat) * 2 ^ 1 + q.toNat) * 2 ^ 1 + r.toNat) * 2 ^ 1 + w.toNat) := by
  refine (pack_toNat (0x46 : BitVec 7) (d ++ a ++ b ++ p ++ q ++ r ++ w)).trans ?_
  congr 1
  refine (toNat_append (d ++ a ++ b ++ p ++ q ++ r) w).trans ?_
  rw [toNat_append (d ++ a ++ b ++ p ++ q) r, toNat_append (d ++ a ++ b ++ p) q, toNat_append (d ++ a ++ b) p, toNat_append (d ++ a) b, toNat_append (d) a]

theorem packAM_op (d : BitVec 6) (a : BitVec 6) (b : BitVec 6) (p : BitVec 4) (q : BitVec 1) (r : BitVec 1) (w : BitVec 1) : fld (packAM d a b p q r w) 25 7 = 0x46#7 := by
  apply BitVec.eq_of_toNat_eq
  have := d.isLt; have := a.isLt; have := b.isLt; have := p.isLt; have := q.isLt; have := r.isLt; have := w.isLt
  rw [fld_toNat, packAM_toNat]; simp; omega

theorem packAM_d (d : BitVec 6) (a : BitVec 6) (b : BitVec 6) (p : BitVec 4) (q : BitVec 1) (r : BitVec 1) (w : BitVec 1) : fd (packAM d a b p q r w) = d := by
  apply BitVec.eq_of_toNat_eq
  have := d.isLt; have := a.isLt; have := b.isLt; have := p.isLt; have := q.isLt; have := r.isLt; have := w.isLt
  rw [fd, fld_toNat, packAM_toNat]; omega

theorem packAM_a (d : BitVec 6) (a : BitVec 6) (b : BitVec 6) (p : BitVec 4) (q : BitVec 1) (r : BitVec 1) (w : BitVec 1) : fa (packAM d a b p q r w) = a := by
  apply BitVec.eq_of_toNat_eq
  have := d.isLt; have := a.isLt; have := b.isLt; have := p.isLt; have := q.isLt; have := r.isLt; have := w.isLt
  rw [fa, fld_toNat, packAM_toNat]; omega

theorem packAM_b (d : BitVec 6) (a : BitVec 6) (b : BitVec 6) (p : BitVec 4) (q : BitVec 1) (r : BitVec 1) (w : BitVec 1) : fb (packAM d a b p q r w) = b := by
  apply BitVec.eq_of_toNat_eq
  have := d.isLt; have := a.isLt; have := b.isLt; have := p.isLt; have := q.isLt; have := r.isLt; have := w.isLt
  rw [fb, fld_toNat, packAM_toNat]; omega

theorem packAM_p (d : BitVec 6) (a : BitVec 6) (b : BitVec 6) (p : BitVec 4) (q : BitVec 1) (r : BitVec 1) (w : BitVec 1) : fld (packAM d a b p q r w) 3 4 = p := by
  apply BitVec.eq_of_toNat_eq
  have := d.isLt; have := a.isLt; have := b.isLt; have := p.isLt; have := q.isLt; have := r.isLt; have := w.isLt
  rw [fld_toNat, packAM_toNat]; omega

theorem packAM_q (d : BitVec 6) (a : BitVec 6) (b : BitVec 6) (p : BitVec 4) (q : BitVec 1) (r : BitVec 1) (w : BitVec 1) : fld (packAM d a b p q r w) 2 1 = q := by
  apply BitVec.eq_of_toNat_eq
  have := d.isLt; have := a.isLt; have := b.isLt; have := p.isLt; have := q.isLt; have := r.isLt; have := w.isLt
  rw [fld_toNat, packAM_toNat]; omega

theorem packAM_r (d : BitVec 6) (a : BitVec 6) (b : BitVec 6) (p : BitVec 4) (q : BitVec 1) (r : BitVec 1) (w : BitVec 1) : fld (packAM d a b p q r w) 1 1 = r := by
  apply BitVec.eq_of_toNat_eq
  have := d.isLt; have := a.isLt; have := b.isLt; have := p.isLt; have := q.isLt; have := r.isLt; have := w.isLt
  rw [fld_toNat, packAM_toNat]; omega

theorem packAM_w (d : BitVec 6) (a : BitVec 6) (b : BitVec 6) (p : BitVec 4) (q : BitVec 1) (r : BitVec 1) (w : BitVec 1) : fld (packAM d a b p q r w) 0 1 = w := by
  apply BitVec.eq_of_toNat_eq
  have := d.isLt; have := a.isLt; have := b.isLt; have := p.isLt; have := q.isLt; have := r.isLt; have := w.isLt
  rw [fld_toNat, packAM_toNat]; omega

/-- The number of a packCR word. -/
theorem packCR_toNat (k : BitVec 2) (d : BitVec 6) (a : BitVec 6) (c : BitVec 11) :
    (packCR k d a c).toNat = (0x47 : BitVec 7).toNat * 2 ^ 25 + (((d.toNat * 2 ^ 6 + a.toNat) * 2 ^ 2 + k.toNat) * 2 ^ 11 + c.toNat) := by
  refine (pack_toNat (0x47 : BitVec 7) (d ++ a ++ k ++ c)).trans ?_
  congr 1
  refine (toNat_append (d ++ a ++ k) c).trans ?_
  rw [toNat_append (d ++ a) k, toNat_append (d) a]

theorem packCR_op (k : BitVec 2) (d : BitVec 6) (a : BitVec 6) (c : BitVec 11) : fld (packCR k d a c) 25 7 = 0x47#7 := by
  apply BitVec.eq_of_toNat_eq
  have := k.isLt; have := d.isLt; have := a.isLt; have := c.isLt
  rw [fld_toNat, packCR_toNat]; simp; omega

theorem packCR_d (k : BitVec 2) (d : BitVec 6) (a : BitVec 6) (c : BitVec 11) : fd (packCR k d a c) = d := by
  apply BitVec.eq_of_toNat_eq
  have := k.isLt; have := d.isLt; have := a.isLt; have := c.isLt
  rw [fd, fld_toNat, packCR_toNat]; omega

theorem packCR_a (k : BitVec 2) (d : BitVec 6) (a : BitVec 6) (c : BitVec 11) : fa (packCR k d a c) = a := by
  apply BitVec.eq_of_toNat_eq
  have := k.isLt; have := d.isLt; have := a.isLt; have := c.isLt
  rw [fa, fld_toNat, packCR_toNat]; omega

theorem packCR_k (k : BitVec 2) (d : BitVec 6) (a : BitVec 6) (c : BitVec 11) : fld (packCR k d a c) 11 2 = k := by
  apply BitVec.eq_of_toNat_eq
  have := k.isLt; have := d.isLt; have := a.isLt; have := c.isLt
  rw [fld_toNat, packCR_toNat]; omega

theorem packCR_c (k : BitVec 2) (d : BitVec 6) (a : BitVec 6) (c : BitVec 11) : fld (packCR k d a c) 0 11 = c := by
  apply BitVec.eq_of_toNat_eq
  have := k.isLt; have := d.isLt; have := a.isLt; have := c.isLt
  rw [fld_toNat, packCR_toNat]; omega

/-- The number of a packE word. -/
theorem packE_toNat (op : BitVec 7) (u : BitVec 2) (f : BitVec 3) (i : BitVec 8) (a : BitVec 6) (b : BitVec 6) :
    (packE op u f i a b).toNat = op.toNat * 2 ^ 25 + ((((u.toNat * 2 ^ 3 + f.toNat) * 2 ^ 8 + i.toNat) * 2 ^ 6 + a.toNat) * 2 ^ 6 + b.toNat) := by
  refine (pack_toNat op (u ++ f ++ i ++ a ++ b)).trans ?_
  congr 1
  refine (toNat_append (u ++ f ++ i ++ a) b).trans ?_
  rw [toNat_append (u ++ f ++ i) a, toNat_append (u ++ f) i, toNat_append (u) f]

theorem packE_op (op : BitVec 7) (u : BitVec 2) (f : BitVec 3) (i : BitVec 8) (a : BitVec 6) (b : BitVec 6) : fld (packE op u f i a b) 25 7 = op := by
  apply BitVec.eq_of_toNat_eq
  have := op.isLt; have := u.isLt; have := f.isLt; have := i.isLt; have := a.isLt; have := b.isLt
  rw [fld_toNat, packE_toNat]; omega

theorem packE_u (op : BitVec 7) (u : BitVec 2) (f : BitVec 3) (i : BitVec 8) (a : BitVec 6) (b : BitVec 6) : eu (packE op u f i a b) = u := by
  apply BitVec.eq_of_toNat_eq
  have := op.isLt; have := u.isLt; have := f.isLt; have := i.isLt; have := a.isLt; have := b.isLt
  rw [eu, fld_toNat, packE_toNat]; omega

theorem packE_f (op : BitVec 7) (u : BitVec 2) (f : BitVec 3) (i : BitVec 8) (a : BitVec 6) (b : BitVec 6) : ef (packE op u f i a b) = f := by
  apply BitVec.eq_of_toNat_eq
  have := op.isLt; have := u.isLt; have := f.isLt; have := i.isLt; have := a.isLt; have := b.isLt
  rw [ef, fld_toNat, packE_toNat]; omega

theorem packE_i (op : BitVec 7) (u : BitVec 2) (f : BitVec 3) (i : BitVec 8) (a : BitVec 6) (b : BitVec 6) : ei (packE op u f i a b) = i := by
  apply BitVec.eq_of_toNat_eq
  have := op.isLt; have := u.isLt; have := f.isLt; have := i.isLt; have := a.isLt; have := b.isLt
  rw [ei, fld_toNat, packE_toNat]; omega

theorem packE_a (op : BitVec 7) (u : BitVec 2) (f : BitVec 3) (i : BitVec 8) (a : BitVec 6) (b : BitVec 6) : ea (packE op u f i a b) = a := by
  apply BitVec.eq_of_toNat_eq
  have := op.isLt; have := u.isLt; have := f.isLt; have := i.isLt; have := a.isLt; have := b.isLt
  rw [ea, fld_toNat, packE_toNat]; omega

theorem packE_b (op : BitVec 7) (u : BitVec 2) (f : BitVec 3) (i : BitVec 8) (a : BitVec 6) (b : BitVec 6) : eb (packE op u f i a b) = b := by
  apply BitVec.eq_of_toNat_eq
  have := op.isLt; have := u.isLt; have := f.isLt; have := i.isLt; have := a.isLt; have := b.isLt
  rw [eb, fld_toNat, packE_toNat]; omega

theorem packE_ab (op : BitVec 7) (u : BitVec 2) (f : BitVec 3) (i : BitVec 8) (a : BitVec 6) (b : BitVec 6) : fld (packE op u f i a b) 0 12 = a ++ b := by
  apply BitVec.eq_of_toNat_eq
  have := op.isLt; have := u.isLt; have := f.isLt; have := i.isLt; have := a.isLt; have := b.isLt
  rw [fld_toNat, packE_toNat, toNat_append a b]; omega

theorem packE_ufi (op : BitVec 7) (u : BitVec 2) (f : BitVec 3) (i : BitVec 8) (a : BitVec 6) (b : BitVec 6) : fld (packE op u f i a b) 12 13 = u ++ f ++ i := by
  apply BitVec.eq_of_toNat_eq
  have := op.isLt; have := u.isLt; have := f.isLt; have := i.isLt; have := a.isLt; have := b.isLt
  rw [fld_toNat, packE_toNat, toNat_append (u ++ f) i, toNat_append u f]; omega

theorem addsh_zero (d a b s : BitVec 6) : fld (packRR 0x10 d a b ((0 : BitVec 1) ++ s)) 6 1 = 0#1 := by
  apply BitVec.eq_of_toNat_eq
  have := d.isLt; have := a.isLt; have := b.isLt; have := s.isLt
  rw [fld_toNat, packRR_toNat, toNat_append (0 : BitVec 1) s]; simp; omega

theorem addsh_sh (d a b s : BitVec 6) : fld (packRR 0x10 d a b ((0 : BitVec 1) ++ s)) 0 6 = s := by
  apply BitVec.eq_of_toNat_eq
  have := d.isLt; have := a.isLt; have := b.isLt; have := s.isLt
  rw [fld_toNat, packRR_toNat, toNat_append (0 : BitVec 1) s]; simp; omega

theorem packRR_low13 (op : BitVec 7) (d a : BitVec 6) (f : BitVec 7) : fld (packRR op d a 0 f) 0 13 = f.setWidth 13 := by
  apply BitVec.eq_of_toNat_eq
  have := d.isLt; have := a.isLt; have := f.isLt
  rw [fld_toNat, packRR_toNat, BitVec.toNat_setWidth]; simp; omega

theorem shift_kind (d a s : BitVec 6) (k : BitVec 7) : fld (packRI 0x0E d a (k ++ s)) 6 7 = k := by
  apply BitVec.eq_of_toNat_eq
  have := d.isLt; have := a.isLt; have := s.isLt; have := k.isLt
  rw [fld_toNat, packRI_toNat, toNat_append k s]; simp; omega

theorem shift_sh (d a s : BitVec 6) (k : BitVec 7) : fld (packRI 0x0E d a (k ++ s)) 0 6 = s := by
  apply BitVec.eq_of_toNat_eq
  have := d.isLt; have := a.isLt; have := s.isLt; have := k.isLt
  rw [fld_toNat, packRI_toNat, toNat_append k s]; simp; omega

theorem loop_zero (l : BitVec 2) (a : BitVec 6) (e : BitVec 13) : fld (packRI 0x24 ((0 : BitVec 4) ++ l) a e) 21 4 = 0#4 := by
  apply BitVec.eq_of_toNat_eq
  have := l.isLt; have := a.isLt; have := e.isLt
  rw [fld_toNat, packRI_toNat, toNat_append (0 : BitVec 4) l]; simp; omega

theorem loop_level (l : BitVec 2) (a : BitVec 6) (e : BitVec 13) : fld (packRI 0x24 ((0 : BitVec 4) ++ l) a e) 19 2 = l := by
  apply BitVec.eq_of_toNat_eq
  have := l.isLt; have := a.isLt; have := e.isLt
  rw [fld_toNat, packRI_toNat, toNat_append (0 : BitVec 4) l]; simp; omega

/-- The number of a MARK word. -/
theorem mark_toNat (g : BitVec 3) (s : BitVec 3) : (pack 0x45 (g ++ s ++ (0 : BitVec 19))).toNat = (0x45 : BitVec 7).toNat * 2 ^ 25 + ((g.toNat * 2 ^ 3 + s.toNat) * 2 ^ 19 + (0 : BitVec 19).toNat) := by
  refine (pack_toNat 0x45 (g ++ s ++ (0 : BitVec 19))).trans ?_
  congr 1
  refine (toNat_append (g ++ s) (0 : BitVec 19)).trans ?_
  rw [toNat_append (g) s]

theorem mark_g (g : BitVec 3) (s : BitVec 3) : fld (pack 0x45 (g ++ s ++ (0 : BitVec 19))) 22 3 = g := by
  apply BitVec.eq_of_toNat_eq
  have := g.isLt; have := s.isLt
  rw [fld_toNat, mark_toNat]; simp; omega

theorem mark_s (g : BitVec 3) (s : BitVec 3) : fld (pack 0x45 (g ++ s ++ (0 : BitVec 19))) 19 3 = s := by
  apply BitVec.eq_of_toNat_eq
  have := g.isLt; have := s.isLt
  rw [fld_toNat, mark_toNat]; simp; omega

theorem mark_zero (g : BitVec 3) (s : BitVec 3) : fld (pack 0x45 (g ++ s ++ (0 : BitVec 19))) 0 19 = 0#19 := by
  apply BitVec.eq_of_toNat_eq
  have := g.isLt; have := s.isLt
  rw [fld_toNat, mark_toNat]; simp

/-- The number of a LOOPI word. -/
theorem loopi_toNat (l : BitVec 2) (c : BitVec 12) (e : BitVec 11) : (pack 0x25 (l ++ c ++ e)).toNat = (0x25 : BitVec 7).toNat * 2 ^ 25 + ((l.toNat * 2 ^ 12 + c.toNat) * 2 ^ 11 + e.toNat) := by
  refine (pack_toNat 0x25 (l ++ c ++ e)).trans ?_
  congr 1
  refine (toNat_append (l ++ c) e).trans ?_
  rw [toNat_append (l) c]

theorem loopi_level (l : BitVec 2) (c : BitVec 12) (e : BitVec 11) : fld (pack 0x25 (l ++ c ++ e)) 23 2 = l := by
  apply BitVec.eq_of_toNat_eq
  have := l.isLt; have := c.isLt; have := e.isLt
  rw [fld_toNat, loopi_toNat]; simp; omega

theorem loopi_count (l : BitVec 2) (c : BitVec 12) (e : BitVec 11) : fld (pack 0x25 (l ++ c ++ e)) 11 12 = c := by
  apply BitVec.eq_of_toNat_eq
  have := l.isLt; have := c.isLt; have := e.isLt
  rw [fld_toNat, loopi_toNat]; simp; omega

theorem loopi_e (l : BitVec 2) (c : BitVec 12) (e : BitVec 11) : fld (pack 0x25 (l ++ c ++ e)) 0 11 = e := by
  apply BitVec.eq_of_toNat_eq
  have := l.isLt; have := c.isLt; have := e.isLt
  rw [fld_toNat, loopi_toNat]; simp; omega

/-- The number of a LOOPS word. -/
theorem loops_toNat (l : BitVec 2) (k : BitVec 6) (e : BitVec 11) : (pack 0x26 (l ++ k ++ (0 : BitVec 6) ++ e)).toNat = (0x26 : BitVec 7).toNat * 2 ^ 25 + (((l.toNat * 2 ^ 6 + k.toNat) * 2 ^ 6 + (0 : BitVec 6).toNat) * 2 ^ 11 + e.toNat) := by
  refine (pack_toNat 0x26 (l ++ k ++ (0 : BitVec 6) ++ e)).trans ?_
  congr 1
  refine (toNat_append (l ++ k ++ (0 : BitVec 6)) e).trans ?_
  rw [toNat_append (l ++ k) (0 : BitVec 6), toNat_append (l) k]

theorem loops_level (l : BitVec 2) (k : BitVec 6) (e : BitVec 11) : fld (pack 0x26 (l ++ k ++ (0 : BitVec 6) ++ e)) 23 2 = l := by
  apply BitVec.eq_of_toNat_eq
  have := l.isLt; have := k.isLt; have := e.isLt
  rw [fld_toNat, loops_toNat]; simp; omega

theorem loops_k (l : BitVec 2) (k : BitVec 6) (e : BitVec 11) : fld (pack 0x26 (l ++ k ++ (0 : BitVec 6) ++ e)) 17 6 = k := by
  apply BitVec.eq_of_toNat_eq
  have := l.isLt; have := k.isLt; have := e.isLt
  rw [fld_toNat, loops_toNat]; simp; omega

theorem loops_zero (l : BitVec 2) (k : BitVec 6) (e : BitVec 11) : fld (pack 0x26 (l ++ k ++ (0 : BitVec 6) ++ e)) 11 6 = 0#6 := by
  apply BitVec.eq_of_toNat_eq
  have := l.isLt; have := k.isLt; have := e.isLt
  rw [fld_toNat, loops_toNat]; simp; omega

theorem loops_e (l : BitVec 2) (k : BitVec 6) (e : BitVec 11) : fld (pack 0x26 (l ++ k ++ (0 : BitVec 6) ++ e)) 0 11 = e := by
  apply BitVec.eq_of_toNat_eq
  have := l.isLt; have := k.isLt; have := e.isLt
  rw [fld_toNat, loops_toNat]; simp; omega

/-- The number of a grid word. -/
theorem packG_toNat (op : BitVec 7) (f : GridWord) : (packG op f).toNat = op.toNat * 2 ^ 25 +
    ((((f.d.toNat * 2 ^ 5 + f.a.toNat) * 2 ^ 5 + f.b.toNat) * 2 ^ 5 + f.c.toNat) * 2 ^ 5 + f.m.toNat) := by
  refine (pack_toNat op (f.d ++ f.a ++ f.b ++ f.c ++ f.m)).trans ?_
  congr 1
  refine (toNat_append (f.d ++ f.a ++ f.b ++ f.c) f.m).trans ?_
  rw [toNat_append (f.d ++ f.a ++ f.b) f.c, toNat_append (f.d ++ f.a) f.b, toNat_append f.d f.a]

theorem packG_op (op : BitVec 7) (f : GridWord) : fld (packG op f) 25 7 = op := pack_op op _

/-- The fields of a grid word are the fields it was packed from. -/
theorem gridFields_packG (op : BitVec 7) (f : GridWord) : gridFields (packG op f) = f := by
  have ho := op.isLt; have hd := f.d.isLt; have ha := f.a.isLt; have hb := f.b.isLt; have hc := f.c.isLt; have hm := f.m.isLt
  have h := packG_toNat op f
  have e1 : fld (packG op f) 20 5 = f.d := by apply BitVec.eq_of_toNat_eq; rw [fld_toNat, h]; omega
  have e2 : fld (packG op f) 15 5 = f.a := by apply BitVec.eq_of_toNat_eq; rw [fld_toNat, h]; omega
  have e3 : fld (packG op f) 10 5 = f.b := by apply BitVec.eq_of_toNat_eq; rw [fld_toNat, h]; omega
  have e4 : fld (packG op f) 5 5 = f.c := by apply BitVec.eq_of_toNat_eq; rw [fld_toNat, h]; omega
  have e5 : fld (packG op f) 0 5 = f.m := by apply BitVec.eq_of_toNat_eq; rw [fld_toNat, h]; omega
  rw [gridFields, e1, e2, e3, e4, e5]

/-- A grid word whose opcode has its upper bit is not the IDLE 0 word. -/
theorem packG_ne_idle (op : BitVec 7) (f : GridWord) (h : op ≠ 1) : packG op f ≠ 0x02000000#32 := by
  intro e
  apply h
  rw [← packG_op op f, e]
  decide

/-- What the opcode of a word chooses in slots A and B, where no scalar word stands. -/
theorem decodeGrid_packG (slot : Nat) (op : BitVec 7) (f : GridWord) (h : op ≠ 1) (hs : slot ≠ 2) :
    decodeGrid slot (packG op f) = decodeGridOp slot (packG op f) := by
  simp [decodeGrid, packG_ne_idle op f h, hs]

end Sys2Proof.Laws
end

