-- ==== Sys2Proof/Laws/PerInstr.lean ====
section
/-!
SUPPORT. The family RoundTrip: decoding the word of a well-formed instruction gives it back, one lemma for each constructor.
An event has no word, and its lemma says so by holding of no word.
-/

/-- The word of a well-formed instruction decodes to it: a CP word in the CP's decoder, a grid word in its own slot. -/
def Sys2Proof.Laws.RoundTrip.Statement (i : Sys2Proof.Instr) : Prop :=
  Sys2Proof.wellFormed i = true → Sys2Proof.slotWordOk i = true → ∀ w, Sys2Proof.encode i = some w →
    (if Sys2Proof.gridSlot i = 3 then Sys2Proof.decode w else Sys2Proof.decodeGrid (Sys2Proof.gridSlot i) w) = some i

namespace Sys2Proof.Laws.RoundTrip

open Sys2Proof.Laws

theorem idle n : Statement (.idle n) := by
  rintro hw _ _ ⟨⟩
  change decode _ = _
  rw [decode, packU_op]; change keep _ _ = _
  simp only [packU_d, packU_i]
  exact keep_some (by decide) hw
theorem waitt a i : Statement (.waitt a i) := by
  rintro hw _ _ ⟨⟩
  change decode _ = _
  rw [decode, packRI_op]; change keep _ _ = _
  simp only [packRI_d, packRI_a, packRI_i]
  exact keep_some (by decide) hw
theorem add d a b : Statement (.add d a b) := by
  rintro hw _ _ ⟨⟩
  change decode _ = _
  rw [decode, packRR_op]; change decodeOp _ = _
  rw [decodeOp, packRR_f]; change keep _ _ = _
  simp only [packRR_d, packRR_a, packRR_b]
  exact keep_some (by decide) hw
theorem sub d a b : Statement (.sub d a b) := by
  rintro hw _ _ ⟨⟩
  change decode _ = _
  rw [decode, packRR_op]; change decodeOp _ = _
  rw [decodeOp, packRR_f]; change keep _ _ = _
  simp only [packRR_d, packRR_a, packRR_b]
  exact keep_some (by decide) hw
theorem and d a b : Statement (.and d a b) := by
  rintro hw _ _ ⟨⟩
  change decode _ = _
  rw [decode, packRR_op]; change decodeOp _ = _
  rw [decodeOp, packRR_f]; change keep _ _ = _
  simp only [packRR_d, packRR_a, packRR_b]
  exact keep_some (by decide) hw
theorem or d a b : Statement (.or d a b) := by
  rintro hw _ _ ⟨⟩
  change decode _ = _
  rw [decode, packRR_op]; change decodeOp _ = _
  rw [decodeOp, packRR_f]; change keep _ _ = _
  simp only [packRR_d, packRR_a, packRR_b]
  exact keep_some (by decide) hw
theorem xor d a b : Statement (.xor d a b) := by
  rintro hw _ _ ⟨⟩
  change decode _ = _
  rw [decode, packRR_op]; change decodeOp _ = _
  rw [decodeOp, packRR_f]; change keep _ _ = _
  simp only [packRR_d, packRR_a, packRR_b]
  exact keep_some (by decide) hw
theorem sll d a b : Statement (.sll d a b) := by
  rintro hw _ _ ⟨⟩
  change decode _ = _
  rw [decode, packRR_op]; change decodeOp _ = _
  rw [decodeOp, packRR_f]; change keep _ _ = _
  simp only [packRR_d, packRR_a, packRR_b]
  exact keep_some (by decide) hw
theorem srl d a b : Statement (.srl d a b) := by
  rintro hw _ _ ⟨⟩
  change decode _ = _
  rw [decode, packRR_op]; change decodeOp _ = _
  rw [decodeOp, packRR_f]; change keep _ _ = _
  simp only [packRR_d, packRR_a, packRR_b]
  exact keep_some (by decide) hw
theorem sra d a b : Statement (.sra d a b) := by
  rintro hw _ _ ⟨⟩
  change decode _ = _
  rw [decode, packRR_op]; change decodeOp _ = _
  rw [decodeOp, packRR_f]; change keep _ _ = _
  simp only [packRR_d, packRR_a, packRR_b]
  exact keep_some (by decide) hw
theorem slt d a b : Statement (.slt d a b) := by
  rintro hw _ _ ⟨⟩
  change decode _ = _
  rw [decode, packRR_op]; change decodeOp _ = _
  rw [decodeOp, packRR_f]; change keep _ _ = _
  simp only [packRR_d, packRR_a, packRR_b]
  exact keep_some (by decide) hw
theorem sltn d a b : Statement (.sltn d a b) := by
  rintro hw _ _ ⟨⟩
  change decode _ = _
  rw [decode, packRR_op]; change decodeOp _ = _
  rw [decodeOp, packRR_f]; change keep _ _ = _
  simp only [packRR_d, packRR_a, packRR_b]
  exact keep_some (by decide) hw
theorem min d a b : Statement (.min d a b) := by
  rintro hw _ _ ⟨⟩
  change decode _ = _
  rw [decode, packRR_op]; change decodeOp _ = _
  rw [decodeOp, packRR_f]; change keep _ _ = _
  simp only [packRR_d, packRR_a, packRR_b]
  exact keep_some (by decide) hw
theorem max d a b : Statement (.max d a b) := by
  rintro hw _ _ ⟨⟩
  change decode _ = _
  rw [decode, packRR_op]; change decodeOp _ = _
  rw [decodeOp, packRR_f]; change keep _ _ = _
  simp only [packRR_d, packRR_a, packRR_b]
  exact keep_some (by decide) hw
theorem minn d a b : Statement (.minn d a b) := by
  rintro hw _ _ ⟨⟩
  change decode _ = _
  rw [decode, packRR_op]; change decodeOp _ = _
  rw [decodeOp, packRR_f]; change keep _ _ = _
  simp only [packRR_d, packRR_a, packRR_b]
  exact keep_some (by decide) hw
theorem maxn d a b : Statement (.maxn d a b) := by
  rintro hw _ _ ⟨⟩
  change decode _ = _
  rw [decode, packRR_op]; change decodeOp _ = _
  rw [decodeOp, packRR_f]; change keep _ _ = _
  simp only [packRR_d, packRR_a, packRR_b]
  exact keep_some (by decide) hw
theorem clz d a : Statement (.clz d a) := by
  rintro hw _ _ ⟨⟩
  change decode _ = _
  rw [decode, packRR_op]; change decodeOp _ = _
  rw [decodeOp, packRR_f]; change keep _ _ = _
  simp only [packRR_d, packRR_a, packRR_b]
  exact keep_some (by decide) hw
theorem ctz d a : Statement (.ctz d a) := by
  rintro hw _ _ ⟨⟩
  change decode _ = _
  rw [decode, packRR_op]; change decodeOp _ = _
  rw [decodeOp, packRR_f]; change keep _ _ = _
  simp only [packRR_d, packRR_a, packRR_b]
  exact keep_some (by decide) hw
theorem popc d a : Statement (.popc d a) := by
  rintro hw _ _ ⟨⟩
  change decode _ = _
  rw [decode, packRR_op]; change decodeOp _ = _
  rw [decodeOp, packRR_f]; change keep _ _ = _
  simp only [packRR_d, packRR_a, packRR_b]
  exact keep_some (by decide) hw
theorem sext d a w : Statement (.sext d a w) := by
  rintro hw _ _ ⟨⟩
  change decode _ = _
  rw [decode, packRR_op]; change decodeOp _ = _
  rw [decodeOp, packRR_f]; change keep _ _ = _
  simp only [packRR_d, packRR_a, packRR_b]
  exact keep_some (by decide) hw
theorem mul d a b : Statement (.mul d a b) := by
  rintro hw _ _ ⟨⟩
  change decode _ = _
  rw [decode, packRR_op]; change decodeMuldiv _ = _
  rw [decodeMuldiv, packRR_f]; change keep _ _ = _
  simp only [packRR_d, packRR_a, packRR_b]
  exact keep_some (by decide) hw
theorem mulh d a b : Statement (.mulh d a b) := by
  rintro hw _ _ ⟨⟩
  change decode _ = _
  rw [decode, packRR_op]; change decodeMuldiv _ = _
  rw [decodeMuldiv, packRR_f]; change keep _ _ = _
  simp only [packRR_d, packRR_a, packRR_b]
  exact keep_some (by decide) hw
theorem mulhn d a b : Statement (.mulhn d a b) := by
  rintro hw _ _ ⟨⟩
  change decode _ = _
  rw [decode, packRR_op]; change decodeMuldiv _ = _
  rw [decodeMuldiv, packRR_f]; change keep _ _ = _
  simp only [packRR_d, packRR_a, packRR_b]
  exact keep_some (by decide) hw
theorem div d a b : Statement (.div d a b) := by
  rintro hw _ _ ⟨⟩
  change decode _ = _
  rw [decode, packRR_op]; change decodeMuldiv _ = _
  rw [decodeMuldiv, packRR_f]; change keep _ _ = _
  simp only [packRR_d, packRR_a, packRR_b]
  exact keep_some (by decide) hw
theorem divn d a b : Statement (.divn d a b) := by
  rintro hw _ _ ⟨⟩
  change decode _ = _
  rw [decode, packRR_op]; change decodeMuldiv _ = _
  rw [decodeMuldiv, packRR_f]; change keep _ _ = _
  simp only [packRR_d, packRR_a, packRR_b]
  exact keep_some (by decide) hw
theorem rem d a b : Statement (.rem d a b) := by
  rintro hw _ _ ⟨⟩
  change decode _ = _
  rw [decode, packRR_op]; change decodeMuldiv _ = _
  rw [decodeMuldiv, packRR_f]; change keep _ _ = _
  simp only [packRR_d, packRR_a, packRR_b]
  exact keep_some (by decide) hw
theorem remn d a b : Statement (.remn d a b) := by
  rintro hw _ _ ⟨⟩
  change decode _ = _
  rw [decode, packRR_op]; change decodeMuldiv _ = _
  rw [decodeMuldiv, packRR_f]; change keep _ _ = _
  simp only [packRR_d, packRR_a, packRR_b]
  exact keep_some (by decide) hw
theorem addi d a i : Statement (.addi d a i) := by
  rintro hw _ _ ⟨⟩
  change decode _ = _
  rw [decode, packRI_op]; change keep _ _ = _
  simp only [packRI_d, packRI_a, packRI_i]
  exact keep_some (by decide) hw
theorem andi d a i : Statement (.andi d a i) := by
  rintro hw _ _ ⟨⟩
  change decode _ = _
  rw [decode, packRI_op]; change keep _ _ = _
  simp only [packRI_d, packRI_a, packRI_i]
  exact keep_some (by decide) hw
theorem ori d a i : Statement (.ori d a i) := by
  rintro hw _ _ ⟨⟩
  change decode _ = _
  rw [decode, packRI_op]; change keep _ _ = _
  simp only [packRI_d, packRI_a, packRI_i]
  exact keep_some (by decide) hw
theorem xori d a i : Statement (.xori d a i) := by
  rintro hw _ _ ⟨⟩
  change decode _ = _
  rw [decode, packRI_op]; change keep _ _ = _
  simp only [packRI_d, packRI_a, packRI_i]
  exact keep_some (by decide) hw
theorem slti d a i : Statement (.slti d a i) := by
  rintro hw _ _ ⟨⟩
  change decode _ = _
  rw [decode, packRI_op]; change keep _ _ = _
  simp only [packRI_d, packRI_a, packRI_i]
  exact keep_some (by decide) hw
theorem sltni d a i : Statement (.sltni d a i) := by
  rintro hw _ _ ⟨⟩
  change decode _ = _
  rw [decode, packRI_op]; change keep _ _ = _
  simp only [packRI_d, packRI_a, packRI_i]
  exact keep_some (by decide) hw
theorem slli d a sh : Statement (.slli d a sh) := by
  rintro hw _ _ ⟨⟩
  change decode _ = _
  rw [decode, packRI_op]; change decodeShift _ = _
  rw [decodeShift, shift_kind]; change keep _ _ = _
  simp only [packRI_d, packRI_a, shift_sh]
  exact keep_some (by decide) hw
theorem srli d a sh : Statement (.srli d a sh) := by
  rintro hw _ _ ⟨⟩
  change decode _ = _
  rw [decode, packRI_op]; change decodeShift _ = _
  rw [decodeShift, shift_kind]; change keep _ _ = _
  simp only [packRI_d, packRI_a, shift_sh]
  exact keep_some (by decide) hw
theorem srai d a sh : Statement (.srai d a sh) := by
  rintro hw _ _ ⟨⟩
  change decode _ = _
  rw [decode, packRI_op]; change decodeShift _ = _
  rw [decodeShift, shift_kind]; change keep _ _ = _
  simp only [packRI_d, packRI_a, shift_sh]
  exact keep_some (by decide) hw
theorem lui d i : Statement (.lui d i) := by
  rintro hw _ _ ⟨⟩
  change decode _ = _
  rw [decode, packU_op]; change keep _ _ = _
  simp only [packU_d, packU_i]
  exact keep_some (by decide) hw
theorem addsh d a b sh : Statement (.addsh d a b sh) := by
  rintro hw _ _ ⟨⟩
  change decode _ = _
  rw [decode, packRR_op]; change keep _ _ = _
  simp only [packRR_d, packRR_a, packRR_b, addsh_zero, addsh_sh]
  exact keep_some (by decide) hw
theorem madi d a b i : Statement (.madi d a b i) := by
  rintro hw _ _ ⟨⟩
  change decode _ = _
  rw [decode, packRR_op]; change keep _ _ = _
  simp only [packRR_d, packRR_a, packRR_b, packRR_f]
  exact keep_some (by decide) hw
theorem beq a b o : Statement (.beq a b o) := by
  rintro hw _ _ ⟨⟩
  change decode _ = _
  rw [decode, packRI_op]; change keep _ _ = _
  simp only [packRI_d, packRI_a, packRI_i]
  exact keep_some (by decide) hw
theorem bne a b o : Statement (.bne a b o) := by
  rintro hw _ _ ⟨⟩
  change decode _ = _
  rw [decode, packRI_op]; change keep _ _ = _
  simp only [packRI_d, packRI_a, packRI_i]
  exact keep_some (by decide) hw
theorem blt a b o : Statement (.blt a b o) := by
  rintro hw _ _ ⟨⟩
  change decode _ = _
  rw [decode, packRI_op]; change keep _ _ = _
  simp only [packRI_d, packRI_a, packRI_i]
  exact keep_some (by decide) hw
theorem bge a b o : Statement (.bge a b o) := by
  rintro hw _ _ ⟨⟩
  change decode _ = _
  rw [decode, packRI_op]; change keep _ _ = _
  simp only [packRI_d, packRI_a, packRI_i]
  exact keep_some (by decide) hw
theorem bltn a b o : Statement (.bltn a b o) := by
  rintro hw _ _ ⟨⟩
  change decode _ = _
  rw [decode, packRI_op]; change keep _ _ = _
  simp only [packRI_d, packRI_a, packRI_i]
  exact keep_some (by decide) hw
theorem bgen a b o : Statement (.bgen a b o) := by
  rintro hw _ _ ⟨⟩
  change decode _ = _
  rw [decode, packRI_op]; change keep _ _ = _
  simp only [packRI_d, packRI_a, packRI_i]
  exact keep_some (by decide) hw
theorem j o : Statement (.j o) := by
  rintro hw _ _ ⟨⟩
  change decode _ = _
  rw [decode, pack_op]; change keep _ _ = _
  simp only [pack_low]
  exact keep_some (by decide) hw
theorem jal d o : Statement (.jal d o) := by
  rintro hw _ _ ⟨⟩
  change decode _ = _
  rw [decode, packU_op]; change keep _ _ = _
  simp only [packU_d, packU_i]
  exact keep_some (by decide) hw
theorem jr d a i : Statement (.jr d a i) := by
  rintro hw _ _ ⟨⟩
  change decode _ = _
  rw [decode, packRI_op]; change keep _ _ = _
  simp only [packRI_d, packRI_a, packRI_i]
  exact keep_some (by decide) hw
theorem loop l a e : Statement (.loop l a e) := by
  rintro hw _ _ ⟨⟩
  change decode _ = _
  rw [decode, packRI_op]; change keep _ _ = _
  simp only [packRI_a, packRI_i, loop_zero, loop_level]
  exact keep_some (by decide) hw
theorem loopi l c e : Statement (.loopi l c e) := by
  rintro hw _ _ ⟨⟩
  change decode _ = _
  rw [decode, pack_op]; change keep _ _ = _
  simp only [loopi_level, loopi_count, loopi_e]
  exact keep_some (by decide) hw
theorem loops l k e : Statement (.loops l k e) := by
  rintro hw _ _ ⟨⟩
  change decode _ = _
  rw [decode, pack_op]; change keep _ _ = _
  simp only [loops_level, loops_k, loops_zero, loops_e]
  exact keep_some (by decide) hw
theorem lregRead d f : Statement (.lregRead d f) := by
  rintro hw _ _ ⟨⟩
  change decode _ = _
  rw [decode, packRR_op]; change decodeLreg _ = _
  rw [decodeLreg, packRR_f]; change keep _ _ = _
  simp only [packRR_d, packRR_a, packRR_b]
  exact keep_some (by decide) hw
theorem lregWrite a f : Statement (.lregWrite a f) := by
  rintro hw _ _ ⟨⟩
  change decode _ = _
  rw [decode, packRR_op]; change decodeLreg _ = _
  rw [decodeLreg, packRR_f]; change keep _ _ = _
  simp only [packRR_d, packRR_a, packRR_b]
  exact keep_some (by decide) hw
theorem ldq d a z c o : Statement (.ldq d a z c o) := by
  rintro hw _ _ ⟨⟩
  change decode _ = _
  rw [decode, packQ_op]; change keep _ _ = _
  simp only [packQ_d, packQ_a, packQ_z, packQ_c, packQ_o]
  exact keep_some (by decide) hw
theorem lqpop d : Statement (.lqpop d) := by
  rintro hw _ _ ⟨⟩
  change decode _ = _
  rw [decode, packU_op]; change keep _ _ = _
  simp only [packU_d, packU_i]
  exact keep_some (by decide) hw
theorem stq d a z o : Statement (.stq d a z o) := by
  rintro hw _ _ ⟨⟩
  change decode _ = _
  rw [decode, packQ_op]; change keep _ _ = _
  simp only [packQ_d, packQ_a, packQ_z, packQ_c, packQ_o]
  exact keep_some (by decide) hw
theorem lds d a z o : Statement (.lds d a z o) := by
  rintro hw _ _ ⟨⟩
  change decode _ = _
  rw [decode, packQ_op]; change keep _ _ = _
  simp only [packQ_d, packQ_a, packQ_z, packQ_c, packQ_o]
  exact keep_some (by decide) hw
theorem sts d a z o : Statement (.sts d a z o) := by
  rintro hw _ _ ⟨⟩
  change decode _ = _
  rw [decode, packQ_op]; change keep _ _ = _
  simp only [packQ_d, packQ_a, packQ_z, packQ_c, packQ_o]
  exact keep_some (by decide) hw
theorem mark g s : Statement (.mark g s) := by
  rintro hw _ _ ⟨⟩
  change decode _ = _
  rw [decode, pack_op]; change keep _ _ = _
  simp only [mark_g, mark_s, mark_zero]
  exact keep_some (by decide) hw
theorem amo a b p acq rel w : Statement (.amo a b p acq rel w) := by
  rintro hw _ _ ⟨⟩
  change decode _ = _
  rw [decode, packAM_op]; change decodeAmo _ = _
  have hp : p ≠ 9 := by rintro rfl; revert hw; simp [wellFormed]
  rw [decodeAmo, packAM_p, if_neg hp]
  simp only [packAM_d, packAM_a, packAM_b, packAM_q, packAM_r, packAM_w]
  exact keep_some (by decide) hw
theorem amoCas d a b acq rel w : Statement (.amoCas d a b acq rel w) := by
  rintro hw _ _ ⟨⟩
  change decode _ = _
  rw [decode, packAM_op]; change decodeAmo _ = _
  rw [decodeAmo, packAM_p, if_pos rfl]
  simp only [packAM_d, packAM_a, packAM_b, packAM_q, packAM_r, packAM_w]
  exact keep_some (by decide) hw
theorem csrr d c : Statement (.csrr d c) := by
  rintro hw _ _ ⟨⟩
  change decode _ = _
  rw [decode, packCR_op]; change decodeCsr _ = _
  rw [decodeCsr, packCR_k]; change keep _ _ = _
  simp only [packCR_d, packCR_a, packCR_c]
  exact keep_some (by decide) hw
theorem csrw d a c : Statement (.csrw d a c) := by
  rintro hw _ _ ⟨⟩
  change decode _ = _
  rw [decode, packCR_op]; change decodeCsr _ = _
  rw [decodeCsr, packCR_k]; change keep _ _ = _
  simp only [packCR_d, packCR_a, packCR_c]
  exact keep_some (by decide) hw
theorem csrs d a c : Statement (.csrs d a c) := by
  rintro hw _ _ ⟨⟩
  change decode _ = _
  rw [decode, packCR_op]; change decodeCsr _ = _
  rw [decodeCsr, packCR_k]; change keep _ _ = _
  simp only [packCR_d, packCR_a, packCR_c]
  exact keep_some (by decide) hw
theorem csrc d a c : Statement (.csrc d a c) := by
  rintro hw _ _ ⟨⟩
  change decode _ = _
  rw [decode, packCR_op]; change decodeCsr _ = _
  rw [decodeCsr, packCR_k]; change keep _ _ = _
  simp only [packCR_d, packCR_a, packCR_c]
  exact keep_some (by decide) hw
theorem trap n : Statement (.trap n) := by
  rintro hw _ _ ⟨⟩
  change decode _ = _
  rw [decode, packU_op]; change keep _ _ = _
  simp only [packU_d, packU_i]
  exact keep_some (by decide) hw
theorem brk n : Statement (.brk n) := by
  rintro hw _ _ ⟨⟩
  change decode _ = _
  rw [decode, packU_op]; change keep _ _ = _
  simp only [packU_d, packU_i]
  exact keep_some (by decide) hw
theorem tret : Statement .tret := by
  rintro hw _ _ ⟨⟩
  change decode (pack 0x4A 0) = some .tret
  rw [decode, pack_op]; change keep _ _ = _
  simp only [pack_low]
  exact keep_some (by decide) hw
theorem retire : Statement .retire := by
  rintro hw _ _ ⟨⟩
  change decode (pack 0x4B 0) = some .retire
  rw [decode, pack_op]; change keep _ _ = _
  simp only [pack_low]
  exact keep_some (by decide) hw
theorem taskEndSignal t : Statement (.taskEndSignal t) := by rintro _ _ _ ⟨⟩
theorem rgenter d a : Statement (.rgenter d a) := by
  rintro hw _ _ ⟨⟩
  change decode _ = _
  rw [decode, packRI_op]; change keep _ _ = _
  simp only [packRI_d, packRI_a, packRI_i]
  exact keep_some (by decide) hw
theorem allotCopyEngines : Statement .allotCopyEngines := by rintro _ _ _ ⟨⟩
theorem regionEntry : Statement .regionEntry := by rintro _ _ _ ⟨⟩
theorem joinEntry proposals cores : Statement (.joinEntry proposals cores) := by rintro _ _ _ ⟨⟩
theorem joinEntryTimeout core : Statement (.joinEntryTimeout core) := by rintro _ _ _ ⟨⟩
theorem rgexit : Statement .rgexit := by
  rintro hw _ _ ⟨⟩
  change decode (pack 0x4D 0) = some .rgexit
  rw [decode, pack_op]; change keep _ _ = _
  simp only [pack_low]
  exact keep_some (by decide) hw
theorem regionExit : Statement .regionExit := by rintro _ _ _ ⟨⟩
theorem realign a i : Statement (.realign a i) := by
  rintro hw _ _ ⟨⟩
  change decode _ = _
  rw [decode, packRI_op]; change keep _ _ = _
  simp only [packRI_d, packRI_a, packRI_i]
  exact keep_some (by decide) hw
theorem ringcfg a n : Statement (.ringcfg a n) := by
  rintro hw _ _ ⟨⟩
  change decode _ = _
  rw [decode, packE_op]; change keep _ _ = _
  simp only [packE_a, packE_b, packE_ufi]
  exact keep_some (by decide) hw
theorem ringq d n s : Statement (.ringq d n s) := by
  rintro hw _ _ ⟨⟩
  change decode _ = _
  rw [decode, packE_op]; change keep _ _ = _
  simp only [packE_u, packE_f, packE_i, packE_a, packE_b]
  exact keep_some (by decide) hw
theorem fmtw u a : Statement (.fmtw u a) := by
  rintro hw _ _ ⟨⟩
  change decode _ = _
  rw [decode, packE_op]; change keep _ _ = _
  simp only [packE_u, packE_f, packE_i, packE_a, packE_b]
  exact keep_some (by decide) hw
theorem wload u m : Statement (.wload u m) := by
  rintro hw _ _ ⟨⟩
  change decode _ = _
  rw [decode, packE_op]; change keep _ _ = _
  simp only [packE_u, packE_f, packE_i, packE_a, packE_b]
  exact keep_some (by decide) hw
theorem mmaR u l m : Statement (.mmaR u l m) := by
  rintro hw _ _ ⟨⟩
  change decode _ = _
  rw [decode, packE_op]; change decodeMma _ = _
  rw [decodeMma, packE_f]; change keep _ _ = _
  simp only [packE_u, packE_i, packE_a, packE_b]
  exact keep_some (by decide) hw
theorem mmaC u l m : Statement (.mmaC u l m) := by
  rintro hw _ _ ⟨⟩
  change decode _ = _
  rw [decode, packE_op]; change decodeMma _ = _
  rw [decodeMma, packE_f]; change keep _ _ = _
  simp only [packE_u, packE_i, packE_a, packE_b]
  exact keep_some (by decide) hw
theorem arrayCommandStart arr : Statement (.arrayCommandStart arr) := by rintro _ _ _ ⟨⟩
theorem wloadTileReplace arr t : Statement (.wloadTileReplace arr t) := by rintro _ _ _ ⟨⟩
theorem contributionPerform arr uid : Statement (.contributionPerform arr uid) := by rintro _ _ _ ⟨⟩
theorem hopPerform chain hop slot p : Statement (.hopPerform chain hop slot p) := by rintro _ _ _ ⟨⟩
theorem chbuild i a : Statement (.chbuild i a) := by
  rintro hw _ _ ⟨⟩
  change decode _ = _
  rw [decode, packE_op]; change keep _ _ = _
  simp only [packE_u, packE_f, packE_i, packE_a, packE_b]
  exact keep_some (by decide) hw
theorem chainConfigArrival chain hop slot residual splice : Statement (.chainConfigArrival chain hop slot residual splice) := by rintro _ _ _ ⟨⟩
theorem chclose i : Statement (.chclose i) := by
  rintro hw _ _ ⟨⟩
  change decode _ = _
  rw [decode, packE_op]; change keep _ _ = _
  simp only [packE_u, packE_f, packE_i, packE_ab]
  exact keep_some (by decide) hw
theorem closeRowPerform w : Statement (.closeRowPerform w) := by rintro _ _ _ ⟨⟩
theorem normContribution slot pc by' q : Statement (.normContribution slot pc by' q) := by rintro _ _ _ ⟨⟩
theorem chainRelease chain slot : Statement (.chainRelease chain slot) := by rintro _ _ _ ⟨⟩
theorem chfree i : Statement (.chfree i) := by
  rintro hw _ _ ⟨⟩
  change decode _ = _
  rw [decode, packE_op]; change keep _ _ = _
  simp only [packE_u, packE_f, packE_i, packE_ab]
  exact keep_some (by decide) hw
theorem chstat i a : Statement (.chstat i a) := by
  rintro hw _ _ ⟨⟩
  change decode _ = _
  rw [decode, packE_op]; change keep _ _ = _
  simp only [packE_u, packE_f, packE_i, packE_a, packE_b]
  exact keep_some (by decide) hw
theorem chsplice i a k : Statement (.chsplice i a k) := by
  rintro hw _ _ ⟨⟩
  change decode _ = _
  rw [decode, packE_op]; change keep _ _ = _
  simp only [packE_u, packE_f, packE_i, packE_a, packE_b]
  exact keep_some (by decide) hw
theorem chainFreeze chain hop reason : Statement (.chainFreeze chain hop reason) := by rintro _ _ _ ⟨⟩
theorem lzero s : Statement (.lzero s) := by
  rintro hw _ _ ⟨⟩
  change decode _ = _
  rw [decode, packE_op]; change keep _ _ = _
  simp only [packE_u, packE_f, packE_i, packE_ab]
  exact keep_some (by decide) hw
theorem lread s m : Statement (.lread s m) := by
  rintro hw _ _ ⟨⟩
  change decode _ = _
  rw [decode, packE_op]; change decodeLread _ = _
  rw [decodeLread, packE_f]; change keep _ _ = _
  simp only [packE_u, packE_i, packE_a, packE_b]
  exact keep_some (by decide) hw
theorem lreadM s m : Statement (.lreadM s m) := by
  rintro hw _ _ ⟨⟩
  change decode _ = _
  rw [decode, packE_op]; change decodeLread _ = _
  rw [decodeLread, packE_f]; change keep _ _ = _
  simp only [packE_u, packE_i, packE_a, packE_b]
  exact keep_some (by decide) hw
theorem sstr a n : Statement (.sstr a n) := by
  rintro hw _ _ ⟨⟩
  change decode _ = _
  rw [decode, packE_op]; change keep _ _ = _
  simp only [packE_a, packE_b, packE_ufi]
  exact keep_some (by decide) hw
theorem gcfg a : Statement (.gcfg a) := by
  rintro hw _ _ ⟨⟩
  change decode _ = _
  rw [decode, packE_op]; change keep _ _ = _
  simp only [packE_a, packE_b, packE_ufi]
  exact keep_some (by decide) hw
theorem configReady uid : Statement (.configReady uid) := by rintro _ _ _ ⟨⟩
theorem grun a : Statement (.grun a) := by
  rintro hw _ _ ⟨⟩
  change decode _ = _
  rw [decode, packE_op]; change decodeGrun _ = _
  rw [decodeGrun]; simp only [packE_u, packE_i, packE_b]; rw [if_pos (by decide), packE_f]; change keep _ _ = _
  simp only [packE_a]
  exact keep_some (by decide) hw
theorem grunC a : Statement (.grunC a) := by
  rintro hw _ _ ⟨⟩
  change decode _ = _
  rw [decode, packE_op]; change decodeGrun _ = _
  rw [decodeGrun]; simp only [packE_u, packE_i, packE_b]; rw [if_pos (by decide), packE_f]; change keep _ _ = _
  simp only [packE_a]
  exact keep_some (by decide) hw
theorem grunS k : Statement (.grunS k) := by
  rintro hw _ _ ⟨⟩
  change decode _ = _
  rw [decode, packE_op]; change decodeGrun _ = _
  rw [decodeGrun]; simp only [packE_u, packE_i, packE_b]; rw [if_pos (by decide), packE_f]; change keep _ _ = _
  simp only [packE_a]
  exact keep_some (by decide) hw
theorem grunCS k : Statement (.grunCS k) := by
  rintro hw _ _ ⟨⟩
  change decode _ = _
  rw [decode, packE_op]; change decodeGrun _ = _
  rw [decodeGrun]; simp only [packE_u, packE_i, packE_b]; rw [if_pos (by decide), packE_f]; change keep _ _ = _
  simp only [packE_a]
  exact keep_some (by decide) hw
theorem gridRunStart run : Statement (.gridRunStart run) := by rintro _ _ _ ⟨⟩
theorem gridBundleIssue run : Statement (.gridBundleIssue run) := by rintro _ _ _ ⟨⟩
theorem gridRunEnd run : Statement (.gridRunEnd run) := by rintro _ _ _ ⟨⟩
theorem streamBeat se run beat : Statement (.streamBeat se run beat) := by rintro _ _ _ ⟨⟩
theorem streamWritePerform se run dst bytes : Statement (.streamWritePerform se run dst bytes) := by rintro _ _ _ ⟨⟩
theorem copy a n : Statement (.copy a n) := by
  rintro hw _ _ ⟨⟩
  change decode _ = _
  rw [decode, packE_op]; change keep _ _ = _
  simp only [packE_a, packE_b, packE_ufi]
  exact keep_some (by decide) hw
theorem copyd a n : Statement (.copyd a n) := by
  rintro hw _ _ ⟨⟩
  change decode _ = _
  rw [decode, packE_op]; change keep _ _ = _
  simp only [packE_a, packE_b, packE_ufi]
  exact keep_some (by decide) hw
theorem copyRowStage uid row : Statement (.copyRowStage uid row) := by rintro _ _ _ ⟨⟩
theorem copyRowPerform uid row : Statement (.copyRowPerform uid row) := by rintro _ _ _ ⟨⟩
theorem copydDigestPerform uid : Statement (.copydDigestPerform uid) := by rintro _ _ _ ⟨⟩
theorem erchkOn a b : Statement (.erchkOn a b) := by
  rintro hw _ _ ⟨⟩
  change decode _ = _
  rw [decode, packE_op]; change decodeErchk _ = _
  rw [decodeErchk]; simp only [packE_u, packE_i]; rw [if_pos (by decide), packE_f]; change keep _ _ = _
  simp only [packE_a, packE_b]
  exact keep_some (by decide) hw
theorem erchkOff : Statement .erchkOff := by
  rintro hw _ _ ⟨⟩
  change decode (packE 0x66 0 0 0 0 0) = some .erchkOff
  rw [decode, packE_op]; change decodeErchk _ = _
  rw [decodeErchk]; simp only [packE_u, packE_i]; rw [if_pos (by decide), packE_f]; change keep _ _ = _
  simp only [packE_a, packE_b]
  exact keep_some (by decide) hw
theorem cwb a b : Statement (.cwb a b) := by
  rintro hw _ _ ⟨⟩
  change decode _ = _
  rw [decode, packRR_op]; change keep _ _ = _
  simp only [packRR_d, packRR_a, packRR_b, packRR_f]
  exact keep_some (by decide) hw
theorem cinv a b : Statement (.cinv a b) := by
  rintro hw _ _ ⟨⟩
  change decode _ = _
  rw [decode, packRR_op]; change keep _ _ = _
  simp only [packRR_d, packRR_a, packRR_b, packRR_f]
  exact keep_some (by decide) hw
theorem cwbi a b : Statement (.cwbi a b) := by
  rintro hw _ _ ⟨⟩
  change decode _ = _
  rw [decode, packRR_op]; change keep _ _ = _
  simp only [packRR_d, packRR_a, packRR_b, packRR_f]
  exact keep_some (by decide) hw
theorem cpf a b c : Statement (.cpf a b c) := by
  rintro hw _ _ ⟨⟩
  change decode _ = _
  rw [decode, packRR_op]; change keep _ _ = _
  simp only [packRR_d, packRR_a, packRR_b, packRR_f]
  exact keep_some (by decide) hw
theorem launch d a b : Statement (.launch d a b) := by
  rintro hw _ _ ⟨⟩
  change decode _ = _
  rw [decode, packRR_op]; change keep _ _ = _
  simp only [packRR_d, packRR_a, packRR_b, packRR_f]
  exact keep_some (by decide) hw
theorem fork d a : Statement (.fork d a) := by
  rintro hw _ _ ⟨⟩
  change decode _ = _
  rw [decode, packRR_op]; change keep _ _ = _
  simp only [packRR_d, packRR_a, packRR_low13]
  exact keep_some (by decide) hw
theorem greport a : Statement (.greport a) := by
  rintro hw _ _ ⟨⟩
  change decode _ = _
  rw [decode, packRR_op]; change keep _ _ = _
  simp only [packRR_d, packRR_a, packRR_low13]
  exact keep_some (by decide) hw
theorem gwait d a : Statement (.gwait d a) := by
  rintro hw _ _ ⟨⟩
  change decode _ = _
  rw [decode, packRR_op]; change decodeGwait _ = _
  rw [decodeGwait, packRR_low13]; change keep _ _ = _
  simp only [packRR_d, packRR_a]
  exact keep_some (by decide) hw
theorem gwaitY d a : Statement (.gwaitY d a) := by
  rintro hw _ _ ⟨⟩
  change decode _ = _
  rw [decode, packRR_op]; change decodeGwait _ = _
  rw [decodeGwait, packRR_low13]; change keep _ _ = _
  simp only [packRR_d, packRR_a]
  exact keep_some (by decide) hw
theorem gcancel d a b : Statement (.gcancel d a b) := by
  rintro hw _ _ ⟨⟩
  change decode _ = _
  rw [decode, packRR_op]; change keep _ _ = _
  simp only [packRR_d, packRR_a, packRR_b, packRR_f]
  exact keep_some (by decide) hw
theorem gstat d a b sel : Statement (.gstat d a b sel) := by
  rintro hw _ _ ⟨⟩
  change decode _ = _
  rw [decode, packRR_op]; change keep _ _ = _
  simp only [packRR_d, packRR_a, packRR_b, packRR_f]
  exact keep_some (by decide) hw
theorem snap d a b : Statement (.snap d a b) := by
  rintro hw _ _ ⟨⟩
  change decode _ = _
  rw [decode, packRR_op]; change keep _ _ = _
  simp only [packRR_d, packRR_a, packRR_b, packRR_f]
  exact keep_some (by decide) hw
theorem accept d a : Statement (.accept d a) := by
  rintro hw _ _ ⟨⟩
  change decode _ = _
  rw [decode, packRR_op]; change keep _ _ = _
  simp only [packRR_d, packRR_a, packRR_low13]
  exact keep_some (by decide) hw
theorem reject d a : Statement (.reject d a) := by
  rintro hw _ _ ⟨⟩
  change decode _ = _
  rw [decode, packRR_op]; change keep _ _ = _
  simp only [packRR_d, packRR_a, packRR_low13]
  exact keep_some (by decide) hw
theorem snapq d a sel : Statement (.snapq d a sel) := by
  rintro hw _ _ ⟨⟩
  change decode _ = _
  rw [decode, packRR_op]; change keep _ _ = _
  simp only [packRR_d, packRR_a, packRR_b, packRR_f]
  exact keep_some (by decide) hw
theorem fadd f : Statement (.fadd f) := by
  rintro hw _ _ ⟨⟩
  change decodeGrid 0 (packG 0x40 f) = _
  rw [decodeGrid_packG _ _ _ (by decide) (by decide)]; unfold decodeGridOp; rw [packG_op]; change keep _ _ = _
  rw [gridFields_packG]
  exact keep_some rfl hw
theorem fsub f : Statement (.fsub f) := by
  rintro hw _ _ ⟨⟩
  change decodeGrid 0 (packG 0x41 f) = _
  rw [decodeGrid_packG _ _ _ (by decide) (by decide)]; unfold decodeGridOp; rw [packG_op]; change keep _ _ = _
  rw [gridFields_packG]
  exact keep_some rfl hw
theorem fmul f : Statement (.fmul f) := by
  rintro hw _ _ ⟨⟩
  change decodeGrid 0 (packG 0x42 f) = _
  rw [decodeGrid_packG _ _ _ (by decide) (by decide)]; unfold decodeGridOp; rw [packG_op]; change keep _ _ = _
  rw [gridFields_packG]
  exact keep_some rfl hw
theorem fma f : Statement (.fma f) := by
  rintro hw _ _ ⟨⟩
  change decodeGrid 0 (packG 0x43 f) = _
  rw [decodeGrid_packG _ _ _ (by decide) (by decide)]; unfold decodeGridOp; rw [packG_op]; change keep _ _ = _
  rw [gridFields_packG]
  exact keep_some rfl hw
theorem fms f : Statement (.fms f) := by
  rintro hw _ _ ⟨⟩
  change decodeGrid 0 (packG 0x44 f) = _
  rw [decodeGrid_packG _ _ _ (by decide) (by decide)]; unfold decodeGridOp; rw [packG_op]; change keep _ _ = _
  rw [gridFields_packG]
  exact keep_some rfl hw
theorem fmin f : Statement (.fmin f) := by
  rintro hw _ _ ⟨⟩
  change decodeGrid 0 (packG 0x45 f) = _
  rw [decodeGrid_packG _ _ _ (by decide) (by decide)]; unfold decodeGridOp; rw [packG_op]; change keep _ _ = _
  rw [gridFields_packG]
  exact keep_some rfl hw
theorem fmax f : Statement (.fmax f) := by
  rintro hw _ _ ⟨⟩
  change decodeGrid 0 (packG 0x46 f) = _
  rw [decodeGrid_packG _ _ _ (by decide) (by decide)]; unfold decodeGridOp; rw [packG_op]; change keep _ _ = _
  rw [gridFields_packG]
  exact keep_some rfl hw
theorem fcmp f : Statement (.fcmp f) := by
  rintro hw _ _ ⟨⟩
  change decodeGrid 0 (packG 0x47 f) = _
  rw [decodeGrid_packG _ _ _ (by decide) (by decide)]; unfold decodeGridOp; rw [packG_op]; change keep _ _ = _
  rw [gridFields_packG]
  exact keep_some rfl hw
theorem fsel f : Statement (.fsel f) := by
  rintro hw _ _ ⟨⟩
  change decodeGrid 1 (packG 0x48 f) = _
  rw [decodeGrid_packG _ _ _ (by decide) (by decide)]; unfold decodeGridOp; rw [packG_op]; change keep _ _ = _
  rw [gridFields_packG]
  exact keep_some rfl hw
theorem fsgn f : Statement (.fsgn f) := by
  rintro hw _ _ ⟨⟩
  change decodeGrid 0 (packG 0x49 f) = _
  rw [decodeGrid_packG _ _ _ (by decide) (by decide)]; unfold decodeGridOp; rw [packG_op]; change keep _ _ = _
  rw [gridFields_packG]
  exact keep_some rfl hw
theorem fspec f : Statement (.fspec f) := by
  rintro hw _ _ ⟨⟩
  change decodeGrid 1 (packG 0x4A f) = _
  rw [decodeGrid_packG _ _ _ (by decide) (by decide)]; unfold decodeGridOp; rw [packG_op]; change keep _ _ = _
  rw [gridFields_packG]
  exact keep_some rfl hw
theorem cvt f : Statement (.cvt f) := by
  rintro hw _ _ ⟨⟩
  change decodeGrid 1 (packG 0x4B f) = _
  rw [decodeGrid_packG _ _ _ (by decide) (by decide)]; unfold decodeGridOp; rw [packG_op]; change keep _ _ = _
  rw [gridFields_packG]
  exact keep_some rfl hw
theorem bf2 f : Statement (.bf2 f) := by
  rintro hw _ _ ⟨⟩
  change decodeGrid 0 (packG 0x4C f) = _
  rw [decodeGrid_packG _ _ _ (by decide) (by decide)]; unfold decodeGridOp; rw [packG_op]; change keep _ _ = _
  rw [gridFields_packG]
  exact keep_some rfl hw
theorem iadd f : Statement (.iadd f) := by
  rintro hw _ _ ⟨⟩
  change decodeGrid 0 (packG 0x50 f) = _
  rw [decodeGrid_packG _ _ _ (by decide) (by decide)]; unfold decodeGridOp; rw [packG_op]; change keep _ _ = _
  rw [gridFields_packG]
  exact keep_some rfl hw
theorem isub f : Statement (.isub f) := by
  rintro hw _ _ ⟨⟩
  change decodeGrid 0 (packG 0x51 f) = _
  rw [decodeGrid_packG _ _ _ (by decide) (by decide)]; unfold decodeGridOp; rw [packG_op]; change keep _ _ = _
  rw [gridFields_packG]
  exact keep_some rfl hw
theorem imul f : Statement (.imul f) := by
  rintro hw _ _ ⟨⟩
  change decodeGrid 0 (packG 0x52 f) = _
  rw [decodeGrid_packG _ _ _ (by decide) (by decide)]; unfold decodeGridOp; rw [packG_op]; change keep _ _ = _
  rw [gridFields_packG]
  exact keep_some rfl hw
theorem ilog f : Statement (.ilog f) := by
  rintro hw _ _ ⟨⟩
  change decodeGrid 0 (packG 0x53 f) = _
  rw [decodeGrid_packG _ _ _ (by decide) (by decide)]; unfold decodeGridOp; rw [packG_op]; change keep _ _ = _
  rw [gridFields_packG]
  exact keep_some rfl hw
theorem ish f : Statement (.ish f) := by
  rintro hw _ _ ⟨⟩
  change decodeGrid 0 (packG 0x54 f) = _
  rw [decodeGrid_packG _ _ _ (by decide) (by decide)]; unfold decodeGridOp; rw [packG_op]; change keep _ _ = _
  rw [gridFields_packG]
  exact keep_some rfl hw
theorem icmp f : Statement (.icmp f) := by
  rintro hw _ _ ⟨⟩
  change decodeGrid 0 (packG 0x55 f) = _
  rw [decodeGrid_packG _ _ _ (by decide) (by decide)]; unfold decodeGridOp; rw [packG_op]; change keep _ _ = _
  rw [gridFields_packG]
  exact keep_some rfl hw
theorem iminmax f : Statement (.iminmax f) := by
  rintro hw _ _ ⟨⟩
  change decodeGrid 0 (packG 0x56 f) = _
  rw [decodeGrid_packG _ _ _ (by decide) (by decide)]; unfold decodeGridOp; rw [packG_op]; change keep _ _ = _
  rw [gridFields_packG]
  exact keep_some rfl hw
theorem mov f : Statement (.mov f) := by
  rintro hw _ _ ⟨⟩
  change decodeGrid 2 (packG 0x58 f) = _
  have hc : slotCWord (packG 0x58 f) = false := by
    obtain ⟨b, i, h⟩ : ∃ b i, decode (packG 0x58 f) = keep b (.chfree i) := by
      rw [decode, packG_op]; exact ⟨_, _, rfl⟩
    unfold slotCWord
    rw [h, keep]
    cases b && wellFormed (.chfree i) <;> rfl
  simp only [decodeGrid, packG_ne_idle 0x58 f (by decide), hc, if_false, Bool.and_false]
  change decodeGridOp 2 _ = _
  unfold decodeGridOp; rw [packG_op]; change keep _ _ = _
  rw [gridFields_packG]
  exact keep_some rfl hw
theorem lperm f : Statement (.lperm f) := by
  rintro hw _ _ ⟨⟩
  change decodeGrid 1 (packG 0x59 f) = _
  rw [decodeGrid_packG _ _ _ (by decide) (by decide)]; unfold decodeGridOp; rw [packG_op]; change keep _ _ = _
  rw [gridFields_packG]
  exact keep_some rfl hw
theorem lbcast f : Statement (.lbcast f) := by
  rintro hw _ _ ⟨⟩
  change decodeGrid 1 (packG 0x5A f) = _
  rw [decodeGrid_packG _ _ _ (by decide) (by decide)]; unfold decodeGridOp; rw [packG_op]; change keep _ _ = _
  rw [gridFields_packG]
  exact keep_some rfl hw
theorem lred f : Statement (.lred f) := by
  rintro hw _ _ ⟨⟩
  change decodeGrid 1 (packG 0x5B f) = _
  rw [decodeGrid_packG _ _ _ (by decide) (by decide)]; unfold decodeGridOp; rw [packG_op]; change keep _ _ = _
  rw [gridFields_packG]
  exact keep_some rfl hw
theorem lshift f : Statement (.lshift f) := by
  rintro hw _ _ ⟨⟩
  change decodeGrid 1 (packG 0x5C f) = _
  rw [decodeGrid_packG _ _ _ (by decide) (by decide)]; unfold decodeGridOp; rw [packG_op]; change keep _ _ = _
  rw [gridFields_packG]
  exact keep_some rfl hw
theorem msk f : Statement (.msk f) := by
  rintro hw _ _ ⟨⟩
  change decodeGrid 1 (packG 0x5D f) = _
  rw [decodeGrid_packG _ _ _ (by decide) (by decide)]; unfold decodeGridOp; rw [packG_op]; change keep _ _ = _
  rw [gridFields_packG]
  exact keep_some rfl hw
theorem rngc f : Statement (.rngc f) := by
  rintro hw _ _ ⟨⟩
  change decodeGrid 1 (packG 0x60 f) = _
  rw [decodeGrid_packG _ _ _ (by decide) (by decide)]; unfold decodeGridOp; rw [packG_op]; change keep _ _ = _
  rw [gridFields_packG]
  exact keep_some rfl hw
theorem defer f : Statement (.defer f) := by
  rintro hw _ _ ⟨⟩
  change decodeGrid 1 (packG 0x61 f) = _
  rw [decodeGrid_packG _ _ _ (by decide) (by decide)]; unfold decodeGridOp; rw [packG_op]; change keep _ _ = _
  rw [gridFields_packG]
  exact keep_some rfl hw
theorem gridSlotCScalar w : Statement (.gridSlotCScalar w) := by
  rintro _ h _ ⟨⟩
  have h' : slotCWord w = true := h
  have hne : w ≠ 0x02000000#32 := by rintro rfl; revert h'; decide
  change decodeGrid 2 w = _
  simp [decodeGrid, hne, h']
theorem gridResultPerform w : Statement (.gridResultPerform w) := by rintro _ _ _ ⟨⟩
theorem cpResultPerform d v : Statement (.cpResultPerform d v) := by rintro _ _ _ ⟨⟩
theorem loadReplyLand seq : Statement (.loadReplyLand seq) := by rintro _ _ _ ⟨⟩
theorem storePerform seq : Statement (.storePerform seq) := by rintro _ _ _ ⟨⟩
theorem storeQueueAccept seq : Statement (.storeQueueAccept seq) := by rintro _ _ _ ⟨⟩
theorem regionFreeze why : Statement (.regionFreeze why) := by rintro _ _ _ ⟨⟩
theorem itemLand : Statement .itemLand := by rintro _ _ _ ⟨⟩
theorem regionResume : Statement .regionResume := by rintro _ _ _ ⟨⟩
theorem slideTimeout : Statement .slideTimeout := by rintro _ _ _ ⟨⟩
theorem regionDeadline : Statement .regionDeadline := by rintro _ _ _ ⟨⟩
theorem taskBudgetExpiry : Statement .taskBudgetExpiry := by rintro _ _ _ ⟨⟩
theorem preemptionRequest t : Statement (.preemptionRequest t) := by rintro _ _ _ ⟨⟩
theorem saveComplete : Statement .saveComplete := by rintro _ _ _ ⟨⟩
theorem restoreBind : Statement .restoreBind := by rintro _ _ _ ⟨⟩
theorem restoreResume : Statement .restoreResume := by rintro _ _ _ ⟨⟩
theorem selection : Statement .selection := by rintro _ _ _ ⟨⟩
theorem taskBind : Statement .taskBind := by rintro _ _ _ ⟨⟩
theorem taskRefused q reason : Statement (.taskRefused q reason) := by rintro _ _ _ ⟨⟩
theorem submit fn q : Statement (.submit fn q) := by rintro _ _ _ ⟨⟩
theorem cancelQueued fn q : Statement (.cancelQueued fn q) := by rintro _ _ _ ⟨⟩
theorem cancelAll fn q : Statement (.cancelAll fn q) := by rintro _ _ _ ⟨⟩
theorem registerWrite r : Statement (.registerWrite r) := by rintro _ _ _ ⟨⟩
theorem queueEnable q : Statement (.queueEnable q) := by rintro _ _ _ ⟨⟩
theorem slidemaxWrite v : Statement (.slidemaxWrite v) := by rintro _ _ _ ⟨⟩
theorem groupDeadline g : Statement (.groupDeadline g) := by rintro _ _ _ ⟨⟩
theorem groupReportApply g i : Statement (.groupReportApply g i) := by rintro _ _ _ ⟨⟩
theorem groupMemberEnd g i : Statement (.groupMemberEnd g i) := by rintro _ _ _ ⟨⟩
theorem groupCancelApply g : Statement (.groupCancelApply g) := by rintro _ _ _ ⟨⟩
theorem gwaitRelease g : Statement (.gwaitRelease g) := by rintro _ _ _ ⟨⟩
theorem quotaGrow ctx lines : Statement (.quotaGrow ctx lines) := by rintro _ _ _ ⟨⟩
theorem translationFaultResolve ctx edit : Statement (.translationFaultResolve ctx edit) := by rintro _ _ _ ⟨⟩
theorem translationFaultUnresolvable t : Statement (.translationFaultUnresolvable t) := by rintro _ _ _ ⟨⟩
theorem translationFlush ctx : Statement (.translationFlush ctx) := by rintro _ _ _ ⟨⟩
theorem migrationCopy granule target : Statement (.migrationCopy granule target) := by rintro _ _ _ ⟨⟩
theorem migrationFlip granule : Statement (.migrationFlip granule) := by rintro _ _ _ ⟨⟩
theorem migrationCleanup granule edit : Statement (.migrationCleanup granule edit) := by rintro _ _ _ ⟨⟩
theorem sliceRetire die slice : Statement (.sliceRetire die slice) := by rintro _ _ _ ⟨⟩
theorem remapResponse task core seq : Statement (.remapResponse task core seq) := by rintro _ _ _ ⟨⟩
theorem copyEviction die line : Statement (.copyEviction die line) := by rintro _ _ _ ⟨⟩
theorem correctableError p : Statement (.correctableError p) := by rintro _ _ _ ⟨⟩
theorem uncorrectableError p consumed : Statement (.uncorrectableError p consumed) := by rintro _ _ _ ⟨⟩
theorem resourceRetire r : Statement (.resourceRetire r) := by rintro _ _ _ ⟨⟩
theorem hostMemoryRead fn va n : Statement (.hostMemoryRead fn va n) := by rintro _ _ _ ⟨⟩
theorem hostMemoryWrite fn va bytes : Statement (.hostMemoryWrite fn va bytes) := by rintro _ _ _ ⟨⟩
theorem msixMessage fn vec : Statement (.msixMessage fn vec) := by rintro _ _ _ ⟨⟩
theorem getVersion tr : Statement (.getVersion tr) := by rintro _ _ _ ⟨⟩
theorem getCapabilities tr : Statement (.getCapabilities tr) := by rintro _ _ _ ⟨⟩
theorem negotiateAlgorithms tr p521 sha512 secp521r1 aes256gcm : Statement (.negotiateAlgorithms tr p521 sha512 secp521r1 aes256gcm) := by rintro _ _ _ ⟨⟩
theorem getDigests tr : Statement (.getDigests tr) := by rintro _ _ _ ⟨⟩
theorem getCertificate tr slot off len : Statement (.getCertificate tr slot off len) := by rintro _ _ _ ⟨⟩
theorem challenge tr slot nonce : Statement (.challenge tr slot nonce) := by rintro _ _ _ ⟨⟩
theorem getMeasurements tr index : Statement (.getMeasurements tr index) := by rintro _ _ _ ⟨⟩
theorem keyExchange tr slot : Statement (.keyExchange tr slot) := by rintro _ _ _ ⟨⟩
theorem finish tr session : Statement (.finish tr session) := by rintro _ _ _ ⟨⟩
theorem heartbeat tr session : Statement (.heartbeat tr session) := by rintro _ _ _ ⟨⟩
theorem endSession tr session : Statement (.endSession tr session) := by rintro _ _ _ ⟨⟩
theorem ideKm tr session fn bind : Statement (.ideKm tr session fn bind) := by rintro _ _ _ ⟨⟩
theorem tdispRequest fn to' : Statement (.tdispRequest fn to') := by rintro _ _ _ ⟨⟩
theorem sealContext ctx : Statement (.sealContext ctx) := by rintro _ _ _ ⟨⟩
theorem tdiUnlock fn error : Statement (.tdiUnlock fn error) := by rintro _ _ _ ⟨⟩
theorem flitReceive port f : Statement (.flitReceive port f) := by rintro _ _ _ ⟨⟩
theorem nak port seq : Statement (.nak port seq) := by rintro _ _ _ ⟨⟩
theorem linkFail port : Statement (.linkFail port) := by rintro _ _ _ ⟨⟩
theorem linkRetrain port latency : Statement (.linkRetrain port latency) := by rintro _ _ _ ⟨⟩
theorem counterFlitSend port : Statement (.counterFlitSend port) := by rintro _ _ _ ⟨⟩
theorem counterFlitReceive port ts : Statement (.counterFlitReceive port ts) := by rintro _ _ _ ⟨⟩
theorem peerTransfer ctx va bytes : Statement (.peerTransfer ctx va bytes) := by rintro _ _ _ ⟨⟩
theorem memoryCheckpoint : Statement .memoryCheckpoint := by rintro _ _ _ ⟨⟩
theorem fullCheckpoint : Statement .fullCheckpoint := by rintro _ _ _ ⟨⟩
theorem checkpointRestore image signature : Statement (.checkpointRestore image signature) := by rintro _ _ _ ⟨⟩
theorem powerOnReset : Statement .powerOnReset := by rintro _ _ _ ⟨⟩
theorem bringUp ok : Statement (.bringUp ok) := by rintro _ _ _ ⟨⟩
theorem throttle : Statement .throttle := by rintro _ _ _ ⟨⟩
theorem throttleResume : Statement .throttleResume := by rintro _ _ _ ⟨⟩
theorem thermalTrip die : Statement (.thermalTrip die) := by rintro _ _ _ ⟨⟩
theorem illegalInstruction w : Statement (.illegalInstruction w) := by rintro _ _ _ ⟨⟩
theorem contextDestroy ctx : Statement (.contextDestroy ctx) := by rintro _ _ _ ⟨⟩
theorem checkpointDrainComplete : Statement .checkpointDrainComplete := by rintro _ _ _ ⟨⟩

end Sys2Proof.Laws.RoundTrip
end

