-- ==== Sys2Proof/Tests/Slice0.lean ====
section
/-!
SUPPORT. Tests on fixed values, their expected results from the spec's worked examples, its tables or a calculation by
hand from them; and, for every statement with hypotheses, a state and operands that meet them.
-/

namespace Sys2Proof.Tests

open Sys2Proof Sys2Proof.Machine

set_option Elab.async false

/-! ### Small states -/

/-- Registers with these values, the others 0. -/
def withX (l : List (Nat × Word)) : Vector Word 64 := l.foldl (fun v p => v.setIfInBounds p.1 p.2) (Vector.replicate 64 0)

/-- A task in loose code at pc 0x40001000 on die 0, with memory below 2^34 mapped to itself. -/
def loose (l : List (Nat × Word)) : State :=
  let s := State.reset.placeWord 0x02000000
  s.setCore { s.core with x := withX l }

/-- A one-core region at cycle 100 on die 0. -/
def timed (l : List (Nat × Word)) : State :=
  let s := loose l
  (s.setCore { s.core with pc := 0 }).setRegion
    { active := true, ncores := 1, rt := 100, ahead := 64, budget := 1000, enteredAt := 0x1000, engines := [(0, 1)] }

/-- The state after a step. -/
def next (s : State) : Host.Outcome State Fault Refusal → State
  | .next t => t
  | _ => s

/-- The state after an instruction. -/
def after (i : Instr) (s : State) : State := next s (exec i s)

/-- The fault that a step stops with. -/
def stop : Host.Outcome State Fault Refusal → Option Fault
  | .fault f => some f
  | _ => none

/-- The vector whose lanes are all v. -/
def splat (v : BitVec 32) : Vec := Vector.replicate 16 v

/-- A grid element with vectors v1, v2, v3 in timed code. -/
def grid (a b c : BitVec 32) : State :=
  let s := timed []
  s.setCore { s.core with els := [(0, { v := (((Vector.replicate 16 (splat 0)).set 1 (splat a)).set 2 (splat b)).set 3 (splat c) })] }

/-- Lane 0 of the vector that a grid operation put on its way, and its due cycle. -/
def lane (t : State) : Option (Nat × BitVec 32) :=
  t.region.agenda.getLast?.bind fun p => match p.act with
    | .event (.gridResultPerform (.vec _ v)) => some (p.due, v[0])
    | _ => none

/-- The fields d, a, b, c, mod of a grid word. -/
def g (d a b c m : Nat) : GridWord := ⟨.ofNat 5 d, .ofNat 5 a, .ofNat 5 b, .ofNat 5 c, .ofNat 5 m⟩

/-! ### Words that are no instruction (02 R45 to R64) -/

/-- One ill-formed term for each check of a CP word. -/
theorem test_ill_formed_cp :
  wellFormed (.sext 1 2 3) = false ∧ wellFormed (.loop 3 1 4) = false ∧ wellFormed (.loop 0 1 0) = false ∧
  wellFormed (.loop 0 1 4096) = false ∧ wellFormed (.loopi 3 1 1) = false ∧ wellFormed (.loopi 0 1 0) = false ∧
  wellFormed (.loops 3 1 1) = false ∧ wellFormed (.loops 0 1 0) = false ∧ wellFormed (.lregRead 1 3) = false ∧
  wellFormed (.lregWrite 1 11) = false ∧ wellFormed (.mark 5 1) = false ∧ wellFormed (.mark 0 0) = false ∧
  wellFormed (.amo 1 2 9 0 0 0) = false ∧ wellFormed (.amo 1 2 11 0 0 0) = false ∧ wellFormed (.csrr 1 5) = false ∧
  wellFormed (.csrw 0 1 0) = false ∧ wellFormed (.csrs 0 1 0x19) = false ∧ wellFormed (.csrc 0 1 0x14) = false ∧
  wellFormed (.ringcfg 1 16) = false ∧ wellFormed (.ringq 1 16 0) = false ∧ wellFormed (.ringq 1 0 4) = false ∧
  wellFormed (.wload 0 16) = false ∧ wellFormed (.mmaR 0 0 16) = false ∧ wellFormed (.mmaC 0 0 16) = false ∧
  wellFormed (.chsplice 0 1 16) = false ∧ wellFormed (.lread 0 16) = false ∧ wellFormed (.lreadM 0 16) = false ∧
  wellFormed (.sstr 1 8) = false ∧ wellFormed (.cpf 1 2 0) = false ∧ wellFormed (.gstat 1 2 3 5) = false ∧
  wellFormed (.snapq 1 2 6) = false := by decide +kernel

/-- One ill-formed term for each check of a grid word. -/
theorem test_ill_formed_grid :
  wellFormed (.fadd (g 21 1 2 0 0)) = false ∧ wellFormed (.fsub (g 1 1 2 3 0)) = false ∧ wellFormed (.fmul (g 1 1 2 0 1)) = false ∧
  wellFormed (.fma (g 26 1 2 3 0)) = false ∧ wellFormed (.fms (g 1 1 2 3 1)) = false ∧ wellFormed (.fmin (g 1 1 2 0 1)) = false ∧
  wellFormed (.fmax (g 30 1 2 0 0)) = false ∧ wellFormed (.fcmp (g 1 1 2 0 8)) = false ∧ wellFormed (.fsel (g 1 1 2 0 8)) = false ∧
  wellFormed (.fsgn (g 1 1 2 0 0)) = false ∧ wellFormed (.fsgn (g 1 1 0 0 3)) = false ∧ wellFormed (.fspec (g 1 1 2 0 0)) = false ∧
  wellFormed (.fspec (g 1 1 0 0 5)) = false ∧ wellFormed (.cvt (g 1 1 2 0 0)) = false ∧ wellFormed (.cvt (g 1 1 0 0 1)) = false ∧
  wellFormed (.bf2 (g 1 1 2 3 0)) = false ∧ wellFormed (.bf2 (g 1 1 2 0 4)) = false ∧ wellFormed (.iadd (g 1 1 2 0 3)) = false ∧
  wellFormed (.isub (g 1 1 2 0 3)) = false ∧ wellFormed (.imul (g 1 1 2 0 3)) = false ∧ wellFormed (.ilog (g 1 1 2 0 4)) = false ∧
  wellFormed (.ish (g 1 1 2 0 3)) = false ∧ wellFormed (.icmp (g 1 1 2 0 6)) = false ∧ wellFormed (.iminmax (g 1 1 2 0 4)) = false ∧
  wellFormed (.mov (g 1 1 2 0 0)) = false ∧ wellFormed (.mov (g 1 8 0 0 1)) = false ∧ wellFormed (.mov (g 8 1 0 0 16)) = false ∧
  wellFormed (.mov (g 1 1 0 0 2)) = false ∧ wellFormed (.lperm (g 1 1 2 0 1)) = false ∧ wellFormed (.lbcast (g 1 1 0 0 16)) = false ∧
  wellFormed (.lred (g 1 1 0 0 8)) = false ∧ wellFormed (.lshift (g 1 1 2 0 16)) = false ∧ wellFormed (.msk (g 1 1 0 0 0)) = false ∧
  wellFormed (.rngc (g 1 1 2 3 8)) = false ∧ wellFormed (.defer (g 1 1 2 0 0)) = false ∧ wellFormed (.defer (g 21 1 2 0 4)) = false := by
  decide

/-! ### Decoding: a word for every CP instruction, by the match and the fields of its row in spec/opcode_table.json -/

/-- 02 R45, R54 to R56: IDLE, WAITT, OP and MULDIV. -/
theorem test_decode_op : ∀ p ∈ ([
    (0x02000002, some (.idle 2)), (0x04053FFD, some (.waitt 41 8189)), (0x09453500, some (.add 40 41 42)),
    (0x09453501, some (.sub 40 41 42)), (0x09453502, some (.and 40 41 42)), (0x09453503, some (.or 40 41 42)),
    (0x09453504, some (.xor 40 41 42)), (0x09453505, some (.sll 40 41 42)), (0x09453506, some (.srl 40 41 42)),
    (0x09453507, some (.sra 40 41 42)), (0x09453508, some (.slt 40 41 42)), (0x09453509, some (.sltn 40 41 42)),
    (0x0945350A, some (.min 40 41 42)), (0x0945350B, some (.max 40 41 42)), (0x0945350C, some (.minn 40 41 42)),
    (0x0945350D, some (.maxn 40 41 42)), (0x09452010, some (.clz 40 41)), (0x09452011, some (.ctz 40 41)),
    (0x09452012, some (.popc 40 41)), (0x09452113, some (.sext 40 41 2)), (0x0D453500, some (.mul 40 41 42)),
    (0x0D453501, some (.mulh 40 41 42)), (0x0D453502, some (.mulhn 40 41 42)), (0x0D453504, some (.div 40 41 42)),
    (0x0D453505, some (.divn 40 41 42)), (0x0D453506, some (.rem 40 41 42)), (0x0D453507, some (.remn 40 41 42))] :
    List (Word32 × Option Instr)), decode p.1 = p.2 := by
  decide +kernel

/-- 02 R45, R57: immediate forms, ADDSH and MADI. -/
theorem test_decode_immediate : ∀ p ∈ ([
    (0x11453FFD, some (.addi 40 41 8189)), (0x13453FFD, some (.andi 40 41 8189)), (0x15453FFD, some (.ori 40 41 8189)),
    (0x17453FFD, some (.xori 40 41 8189)), (0x19453FFD, some (.slti 40 41 8189)), (0x1B453FFD, some (.sltni 40 41 8189)),
    (0x1D45203F, some (.slli 40 41 63)), (0x1D45283F, some (.srli 40 41 63)), (0x1D45303F, some (.srai 40 41 63)),
    (0x1F47FFFD, some (.lui 40 524285)), (0x2145353F, some (.addsh 40 41 42 63)), (0x2345357D, some (.madi 40 41 42 125))] :
    List (Word32 × Option Instr)), decode p.1 = p.2 := by
  decide +kernel

/-- 02 R45, R46, R57: branches, jumps, loops and loop registers. -/
theorem test_decode_control : ∀ p ∈ ([
    (0x314D5FFC, some (.beq 41 42 8188)), (0x334D5FFC, some (.bne 41 42 8188)), (0x354D5FFC, some (.blt 41 42 8188)),
    (0x374D5FFC, some (.bge 41 42 8188)), (0x394D5FFC, some (.bltn 41 42 8188)), (0x3B4D5FFC, some (.bgen 41 42 8188)),
    (0x3DFFFFFC, some (.j 33554428)), (0x3F47FFFC, some (.jal 40 524284)), (0x41453FFD, some (.jr 40 41 8189)),
    (0x480D2003, some (.loop 1 41 3)), (0x4A802803, some (.loopi 1 5 3)), (0x4C8E0003, some (.loops 1 7 3)),
    (0x4F400480, some (.lregRead 40 9)), (0x4E052481, some (.lregWrite 41 9))] :
    List (Word32 × Option Instr)), decode p.1 = p.2 := by
  decide +kernel

/-- 02 R46, R58, R59: loads, stores, MARK, AMO and CSR accesses. -/
theorem test_decode_memory : ∀ p ∈ ([
    (0x81453DFC, some (.ldq 40 41 3 2 508)), (0x83400000, some (.lqpop 40)), (0x854539FC, some (.stq 40 41 3 508)),
    (0x874539FC, some (.lds 40 41 3 508)), (0x894539FC, some (.sts 40 41 3 508)), (0x8AD80000, some (.mark 3 3)),
    (0x8C053545, some (.amo 41 42 8 1 0 1)), (0x8D45354D, some (.amoCas 40 41 42 1 0 1)),
    (0x8F400023, some (.csrr 40 35)), (0x8F452823, some (.csrw 40 41 35)), (0x8F453023, some (.csrs 40 41 35)),
    (0x8F453823, some (.csrc 40 41 35))] :
    List (Word32 × Option Instr)), decode p.1 = p.2 := by
  decide +kernel

/-- 02 R58: traps, region entry and exit, rings and arrays. -/
theorem test_decode_system : ∀ p ∈ ([
    (0x90000002, some (.trap 2)), (0x92000002, some (.brk 2)), (0x94000000, some .tret), (0x96000000, some .retire),
    (0x99452000, some (.rgenter 40 41)), (0x9A000000, some .rgexit), (0x9C053FFD, some (.realign 41 8189)),
    (0xA0000A42, some (.ringcfg 41 2)), (0xA2300A02, some (.ringq 40 2 3)), (0xA5000A40, some (.fmtw 2 41)),
    (0xA7000003, some (.wload 2 3)), (0xA90C8003, some (.mmaR 2 200 3)), (0xA91C8003, some (.mmaC 2 200 3))] :
    List (Word32 × Option Instr)), decode p.1 = p.2 := by
  decide +kernel

/-- 02 R46, R58: chains, links, streams, configurations, runs and copies. -/
theorem test_decode_engines : ∀ p ∈ ([
    (0xAC0ABA40, some (.chbuild 171 41)), (0xAE0AB000, some (.chclose 171)), (0xB00AB000, some (.chfree 171)),
    (0xB20ABA40, some (.chstat 171 41)), (0xB40ABA47, some (.chsplice 171 41 7)), (0xB6003000, some (.lzero 3)),
    (0xB8003003, some (.lread 3 3)), (0xB8103003, some (.lreadM 3 3)), (0xC0000A42, some (.sstr 41 2)),
    (0xC2000A40, some (.gcfg 41)), (0xC4000A40, some (.grun 41)), (0xC4100A40, some (.grunC 41)),
    (0xC42001C0, some (.grunS 7)), (0xC43001C0, some (.grunCS 7)), (0xC8000A42, some (.copy 41 2)),
    (0xCA000A42, some (.copyd 41 2)), (0xCC100A6A, some (.erchkOn 41 42)), (0xCC000000, some .erchkOff)] :
    List (Word32 × Option Instr)), decode p.1 = p.2 := by
  decide +kernel

/-- 02 R45, R58: range instructions, LAUNCH, groups and snapshots. -/
theorem test_decode_ranges_groups_snapshots : ∀ p ∈ ([
    (0xD0053500, some (.cwb 41 42)), (0xD2053500, some (.cinv 41 42)), (0xD4053500, some (.cwbi 41 42)),
    (0xD6053505, some (.cpf 41 42 5)), (0xD9453500, some (.launch 40 41 42)), (0xE1452000, some (.fork 40 41)),
    (0xE2052000, some (.greport 41)), (0xE5452000, some (.gwait 40 41)), (0xE5452001, some (.gwaitY 40 41)),
    (0xE7453500, some (.gcancel 40 41 42)), (0xE9453503, some (.gstat 40 41 42 3)), (0xF1453500, some (.snap 40 41 42)),
    (0xF3452000, some (.accept 40 41)), (0xF5452000, some (.reject 40 41)), (0xF7452003, some (.snapq 40 41 3))] :
    List (Word32 × Option Instr)), decode p.1 = p.2 := by
  decide +kernel
/-- The words that the spec works out (02 Worked encodings, 03, 05 to 07, 09, 12 to 16). -/
theorem test_worked_encodings : ∀ p ∈ ([
    (0x09453500, some (.add 40 41 42)), (0x10501FFD, some (.addi 10 0 (-3))), (0x33001FFC, some (.bne 32 0 (-4))),
    (0x81407202, some (.ldq 40 3 2 1 2)), (0x8AD00000, some (.mark 3 2)), (0x0D453504, some (.div 40 41 42)),
    (0x1F000020, some (.lui 32 32)), (0x11041FFF, some (.addi 32 32 (-1))), (0x1D0C1007, some (.srai 33 32 7)),
    (0x40002000, some (.jr 0 1 0)), (0x3E080010, some (.jal 1 16)), (0x040001F4, some (.waitt 0 500)),
    (0x4A001802, some (.loopi 0 3 2)), (0x480D0003, some (.loop 1 40 3)), (0x4E050081, some (.lregWrite 40 1)),
    (0x481D0003, none), (0x83480000, some (.lqpop 41)), (0x85407802, some (.stq 40 3 3 2)), (0x874851FF, some (.lds 41 2 2 (-1))),
    (0x8D04314F, some (.amoCas 32 33 34 1 1 1)), (0x8F400001, some (.csrr 40 1)), (0x8E052828, some (.csrw 0 41 0x28)),
    (0x90000005, some (.trap 5)), (0x96000000, some .retire), (0x98516000, some (.rgenter 10 11)),
    (0x9C050010, some (.realign 40 16)), (0x9A000000, some .rgexit), (0xA0000A02, some (.ringcfg 40 2)),
    (0xA2300A45, some (.ringq 41 5 3)), (0xA4800A00, some (.fmtw 1 40)), (0xA6000003, some (.wload 0 3)),
    (0xA8800002, some (.mmaR 1 0 2)), (0xA8105004, some (.mmaC 0 5 4)), (0xAC000B00, some (.chbuild 0 44)),
    (0xAE000000, some (.chclose 0)), (0xC43001C0, some (.grunCS 7)), (0xCA000A01, some (.copyd 40 1)),
    (0xD0034D80, some (.cwb 26 27)), (0xD6051484, some (.cpf 40 41 4)), (0xD9453500, some (.launch 40 41 42)),
    (0xE1452000, some (.fork 40 41)), (0xE2042000, some (.greport 33)), (0xE5552001, some (.gwaitY 42 41)),
    (0xE7453500, some (.gcancel 40 41 42)), (0xE9452003, some (.gstat 40 41 0 3)), (0xF1453500, some (.snap 40 41 42)),
    (0xF3452000, some (.accept 40 41)), (0xF5452000, some (.reject 40 41)), (0xF7452003, some (.snapq 40 41 3))] :
    List (Word32 × Option Instr)), decode p.1 = p.2 := by
  decide +kernel

/-- 02 R47, R60, 04, 09: grid words, and the slots that accept them; a scalar word in slot C; IDLE 0 in every slot. -/
theorem test_decode_grid : ∀ p ∈ ([
    (0, 0x80110C00, some (.fadd (g 1 2 3 0 0))), (0, 0x80210400, some (.fadd (g 2 2 1 0 0))),
    (1, 0x961F0010, some (.cvt (g 1 30 0 0 16))), (0, 0xA1259C00, some (.iadd (g 18 11 7 0 0))),
    (1, 0xB85F880F, some (.lshift (g 5 31 2 0 15))), (2, 0xB1480000, some (.mov (g 20 16 0 0 0))),
    (0, 0x82110C00, some (.fsub (g 1 2 3 0 0))), (0, 0x84110C00, some (.fmul (g 1 2 3 0 0))),
    (0, 0x86110C80, some (.fma (g 1 2 3 4 0))), (0, 0x88110C80, some (.fms (g 1 2 3 4 0))),
    (0, 0x8A110C00, some (.fmin (g 1 2 3 0 0))), (0, 0x8C110C00, some (.fmax (g 1 2 3 0 0))),
    (0, 0x8E110C07, some (.fcmp (g 1 2 3 0 7))), (1, 0x90110C06, some (.fsel (g 1 2 3 0 6))),
    (0, 0x92110C02, some (.fsgn (g 1 2 3 0 2))), (1, 0x94110004, some (.fspec (g 1 2 0 0 4))),
    (0, 0x98110C83, some (.bf2 (g 1 2 3 4 3))), (0, 0xA2110C02, some (.isub (g 1 2 3 0 2))),
    (0, 0xA4110C01, some (.imul (g 1 2 3 0 1))), (0, 0xA6110C03, some (.ilog (g 1 2 3 0 3))),
    (0, 0xA8110C02, some (.ish (g 1 2 3 0 2))), (0, 0xAA110C05, some (.icmp (g 1 2 3 0 5))),
    (0, 0xAC110C03, some (.iminmax (g 1 2 3 0 3))), (1, 0xB2110C00, some (.lperm (g 1 2 3 0 0))),
    (1, 0xB411000F, some (.lbcast (g 1 2 0 0 15))), (1, 0xB611001F, some (.lred (g 1 2 0 0 31))),
    (1, 0xBA11000B, some (.msk (g 1 2 0 0 11))), (1, 0xC0110C87, some (.rngc (g 1 2 3 4 7))),
    (1, 0xC3510C03, some (.defer (g 21 2 3 0 3))), (1, 0x80110C00, none), (0, 0xB1480000, none),
    (2, 0x08084180, some (.gridSlotCScalar 0x08084180)), (0, 0x08084180, none), (2, 0x09453500, none),
    (0, 0x02000000, some (.idle 0)), (1, 0x02000001, none)] :
    List (Nat × Word32 × Option Instr)), decodeGrid p.1 p.2.1 = p.2.2 := by decide +kernel

/-- 02 R61: the word 0, a reserved major, a reserved field and an out-of-range number decode to nothing. -/
theorem test_no_instruction :
  decode 0 = none ∧ decode 0x06000000 = none ∧ decode 0xFFFFFFFF = none ∧ decode 0x9A000001 = none ∧ decode 0xA0000A10 = none ∧
  decode 0xF7452006 = none ∧ decode 0x0945350E = none ∧ decode 0x1C000FC0 = none := by decide +kernel

/-! ### Results -/

/-- 03 R79: −7 DIV 2 = −3, −7 REM 2 = −1, 7 DIVN 0 = all ones, 7 REMN 0 = 7. -/
theorem test_div :
  (after (.div 40 41 42) (loose [(41, -7), (42, 2)])).core.rx 40 = -3 ∧ (after (.rem 40 41 42) (loose [(41, -7), (42, 2)])).core.rx 40 = -1 ∧
  (after (.divn 40 41 0) (loose [(41, 7)])).core.rx 40 = 0xFFFFFFFFFFFFFFFF ∧ (after (.remn 40 41 0) (loose [(41, 7)])).core.rx 40 = 7 := by
  decide +kernel

/-- 03 R77: `lui x32, 32` and `addi x32, x32, -1` give 0x3FFFF; 02 R48: x0 stays 0. -/
theorem test_lui :
  (after (.lui 32 32) (loose [])).core.rx 32 = 0x40000 ∧ (after (.addi 32 32 (-1)) (loose [(32, 0x40000)])).core.rx 32 = 0x3FFFF ∧
  (after (.addi 0 32 1) (loose [(32, 5)])).core.rx 0 = 0 := by decide +kernel

/-- 03 R72, R79: in timed code a division that issues at cycle 100 is due at cycle 134, and the register keeps its value till then. -/
theorem test_div_timed :
  let t := after (.div 40 41 42) (timed [(40, 9), (41, 100), (42, 7)])
  t.core.rx 40 = 9 ∧ t.region.agenda.map (fun p => (p.due, p.act)) = [(134, .event (.cpResultPerform 40 14))] := by decide +kernel

/-- 03 R80, R82: a taken branch goes back four words; JR to an odd address is misaligned. -/
theorem test_branch :
  (after (.bne 32 0 (-4)) (loose [(32, 1)])).core.pc = 0x40000FF0 ∧ (after (.bne 32 0 (-4)) (loose [])).core.pc = 0x40001004 ∧
  (after (.jr 5 1 0) (loose [(1, 0x2001)])).core.cause = 0x300 ∧ (after (.jal 5 16) (loose [])).core.rx 5 = 0x40001004 := by decide +kernel

/-- 03 R87, R89: `loopi 0, 3` with its end two words on, and the last pass out of its body. -/
theorem test_loop :
  let t := after (.loopi 0 3 2) (loose [])
  t.core.active = [0] ∧ (t.core.loopAt 0).count = 3 ∧ (t.core.loopAt 0).start = 0x40001004 ∧ (t.core.loopAt 0).stop = 0x40001008 ∧
  (after (.add 1 1 1) (t.setCore { t.core with pc := 0x40001008 })).core.pc = 0x40001004 ∧
  (after (.loopi 0 0 2) (loose [])).core.pc = 0x4000100C := by decide +kernel

/-- 03 R94: `ldq.d.l` at cycle 100 has perform time 1,200; 03 R98: LQPOP before it is early consumption. -/
theorem test_ldq :
  let t := after (.ldq 40 10 3 1 0) (timed [(10, 0x4000)])
  t.core.loads.map (fun e => (e.perform, e.size, e.reg)) = [(some 1200, 8, 40)] ∧
  (after (.lqpop 41) t).region.traps.map (fun r => (r.cause, r.sub)) = [(6, 1)] := by decide +kernel

/-- 03 R99, 05: `stq.w` enters the store queue with the low four bytes, little-endian, and performs in memory. -/
theorem test_stq :
  let t := after (.stq 40 3 2 1) (loose [(3, 0x4000), (40, 0x1122334455667788)])
  t.core.stores.map (fun e => (e.va, e.kind)) = [(0x4004, .store [0x88, 0x77, 0x66, 0x55])] ∧
  (match t.core.stores with
   | e :: _ => ((after (.storePerform e.seq) t).readPa 0x4005, (after (.storePerform e.seq) t).core.stores.length)
   | [] => (0, 9)) = (0x77, 0) := by decide +kernel

/-- 03 R103: compare-and-swap, the signed minimum of 32-bit values, and an unsigned maximum. -/
theorem test_amo :
  amo64 9 5 7 5 = some 7 ∧ amo64 9 5 7 6 = none ∧ amo32 4 0xFFFFFFFF 1 0 = some 0xFFFFFFFF ∧ amo32 7 0xFFFFFFFF 1 0 = some 0xFFFFFFFF := by
  decide +kernel

/-- 03 R101: LDS of a word sign-free, from bytes stored little-endian, and an address beyond the scratchpad. -/
theorem test_lds :
  let s := loose [(2, 0x104)]
  let t := s.setCore { s.core with scratch := [(0x100, 0x88), (0x103, 0xFF)] }
  (after (.lds 41 2 2 (-1)) t).core.rx 41 = 0xFF000088 ∧ (after (.sts 2 0 3 0) (loose [])).core.scratch = [] ∧
  (after (.lds 41 2 0 0) (loose [(2, 0x180000)])).core.cause = 0x505 := by decide +kernel

/-- 03 R111, R112, 17 R378: TRAP 5 saves cause 0x1000, the pc and the number, and goes to tvec; TRET comes back. -/
theorem test_trap :
  let s := loose []
  let t := after (.trap 5) (s.setCore { s.core with tvec := 0x8000 })
  t.core.cause = 0x1000 ∧ t.core.epc = 0x40001000 ∧ t.core.tval = 5 ∧ t.core.pc = 0x8000 ∧ t.core.handler = true ∧
  (after .tret t).core.pc = 0x40001000 ∧ (after .tret t).core.handler = false ∧ (after (.trap 5) s).task.state = .ending .faulted := by
  decide +kernel

/-- 03 R107, R108, R118: CSRS of psig; a reserved bit of a selector stays 0, and the write waits for its tick's end. -/
theorem test_csr :
  let s := loose [(41, 0xFFFFFFFFFFFFFFFF)]
  (after (.csrs 40 41 0x18) s).csrRead 0x18 ≠ 0 ∧ (after (.csrw 0 41 0x28) s).core.csrNext = [(0x28, 0xFFFFFFFFFFFFFFFF)] ∧
  (s.core.csrSet 0x28 0xFFFFFFFFFFFFFFFF).hpe[0] = 0x3FF ∧
  (after (.csrw 0 41 0x13) s).csrRead 0x13 = 0xFFFFFFFFFFFFFFFC ∧ (after (.csrr 40 0) { s with ptc := 77 }).core.rx 40 = 77 := by
  decide +kernel

/-- 02 R62: WAITT is illegal in loose code, RETIRE in timed code; 02 R61: ma2 is illegal on a BX core (die 0). -/
theorem test_modes :
  (after (.waitt 0 500) (loose [])).core.cause = 0x200 ∧ (after (.waitt 0 500) (loose [])).core.tval = 0x040001F4 ∧
  (after .retire (timed [])).region.traps.map (·.cause) = [2] ∧ (after (.fmtw 2 1) (timed [])).region.traps.map (·.cause) = [1] := by
  decide +kernel

/-- 04 R142: `fma` on 2^24, 1 and 1 gives 2^24 four cycles later; 04: +∞ + −∞ is the canonical NaN. -/
theorem test_fma :
  lane (after (.fma (g 5 1 2 3 0)) (grid 0x4B800000 0x3F800000 0x3F800000)) = some (104, 0x4B800000) ∧
  lane (after (.fadd (g 5 1 2 0 0)) (grid 0x7F800000 0xFF800000 0)) = some (104, 0x7FC00000) := by decide +kernel

/-- 04 R148: 19 and 470 to a pair of E4M3: 0x5A and 0x7F; saturating, 0x7E. -/
theorem test_cvt :
  lane (after (.cvt (g 5 1 2 0 24)) (grid 0x41980000 0x43EB0000 0)) = some (102, 0x7F5A) ∧
  lane (after (.cvt (g 5 1 2 0 26)) (grid 0x41980000 0x43EB0000 0)) = some (102, 0x7E5A) := by decide +kernel

/-- 01 R39: the sum of 2^24, 1, 1, 1 and zeros along the tree is 16,777,218. -/
theorem test_lred :
  let s := timed []
  let v : Vec := (((splat 0).set 0 0x4B800000).set 1 0x3F800000).set 2 0x3F800000 |>.set 3 0x3F800000
  lane (after (.lred (g 5 1 0 0 0)) (s.setCore { s.core with els := [(0, { v := (Vector.replicate 16 (splat 0)).set 1 v })] })) =
    some (104, 0x4B800001) := by decide +kernel

/-- 04 R151: saturating addition, the high half of a signed product, an arithmetic shift. -/
theorem test_integer_lanes :
  lane (after (.iadd (g 5 1 2 0 1)) (grid 0x7FFFFFFF 1 0)) = some (101, 0x7FFFFFFF) ∧
  lane (after (.isub (g 5 1 2 0 2)) (grid 1 2 0)) = some (101, 0) ∧
  lane (after (.imul (g 5 1 2 0 1)) (grid 0xFFFFFFFF 2 0)) = some (101, 0xFFFFFFFF) ∧
  lane (after (.ish (g 5 1 2 0 2)) (grid 0x80000000 33 0)) = some (101, 0xC0000000) := by decide +kernel

/-- 01: the encodings of 1.0, the largest finite value and the smallest subnormal in every format. -/
theorem test_formats :
  [f64, f32, fbf, f16, e4m3, e5m2].map (fun f => f.encode false false (.fin false 1 0)) =
    [0x3FF0000000000000, 0x3F800000, 0x3F80, 0x3C00, 0x38, 0x3C] ∧
  f16.encode false false (f16.decode 0x7BFF) = 0x7BFF ∧ e4m3.encode true true (.fin false 1 20) = 0x7E ∧
  e5m2.encode false false (e5m2.decode 1) = 1 ∧ f32.encode false false (.fin true 0 0) = 0x80000000 := by decide +kernel

/-- 06 R204: `grun` with no configuration is the schedule fault 4; 06 R195: a descriptor that is not a multiple of 16. -/
theorem test_engine_commands :
  (after (.grun 44) (timed [])).region.traps.map (fun r => (r.cause, r.sub)) = [(6, 4)] ∧
  (after (.ringcfg 40 2) (timed [(40, 8)])).region.traps.map (fun r => (r.cause, r.tval)) = [(3, 8)] ∧
  (after (.ringcfg 40 2) (timed [(40, 16)])).region.agenda.map (fun p => (p.due, p.act)) = [(103, .phase (.ringSample 2 16 0))] ∧
  (after (.copy 40 1) (timed [])).region.traps.map (·.cause) = [1] := by decide +kernel

/-- 07 R221, R223: WLOAD with an empty format queue; an MMA whose weight format is not that of the latest WLOAD. -/
theorem test_arrays :
  (after (.wload 0 3) (timed [])).region.traps.map (fun r => (r.cause, r.sub)) = [(6, 8)] ∧
  (let s := timed []
   let t := s.setCore (s.core.setArr 0 { fq := [0] })
   ((after (.mmaR 0 0 2) t).region.traps.map (fun r => (r.cause, r.sub)), (after (.wload 0 3) t).region.agenda.map (·.due))) = ([(9, 2)], [102]) := by
  decide +kernel

/-- 12 R324, R325: the first SNAP of a range of pages with attribute SNAP gives slot 0 at depth 1, handle 0x10, and pages without it are
refused; SNAPQ of a handle that names no level is a snapshot error. -/
theorem test_snap :
  let s := loose [(41, 0x20000), (42, 0x10000)]
  let t := after (.snap 40 41 42) (s.writePa 0x100039 4)
  t.core.rx 40 = 0x10 ∧ ((t.ctx 0).range 0).depth = 1 ∧ (after (.snap 40 41 42) s).core.cause = 0xF05 ∧
  (after (.snapq 40 41 1) (loose [(41, 0x10)])).core.cause = 0xF06 := by decide +kernel

/-- 05 R177: SLIDEMAX takes 2^12 and refuses 2^12 − 1. -/
theorem test_slidemax :
  (after (.slidemaxWrite 0x1000) State.reset).slidemax = 0x1000 ∧ (after (.slidemaxWrite 0xFFF) State.reset).slidemax = 0x1000000 := by
  decide +kernel

/-- The placed word runs as the first instruction after reset (notes/assumptions/3.md). -/
theorem test_first_step :
  (next State.reset (step (State.reset.withFetchWord 32 0x10501FFD))).core.rx 10 = -3 ∧
  (next State.reset (step (State.reset.withFetchWord 32 0))).core.cause = 0x100 ∧
  stop (step { State.reset with power := .held }) = some .heldInReset ∧
  stop (step { State.reset with power := .removed }) = some .powerRemoved := by decide +kernel

/-! ### Witnesses: for every statement with hypotheses, states and operands that meet them, clause by clause -/

/-- A computation that gives a value gives some value. -/
theorem value_of {ε α : Type} {e : Except ε α} (h : e.isOk = true) : ∃ x, e = .ok x := by
  cases e with
  | ok x => exact ⟨x, rfl⟩
  | error x => cases h

/-- A computation that gives no value refuses. -/
theorem error_of {α β : Type} {ε : Type} {e : Except (β × ε) α} (h : e.isOk = false) : ∃ v f, e = .error (v, f) := by
  cases e with
  | ok x => cases h
  | error x => exact ⟨x.1, x.2, rfl⟩
/-- How a computation that may stop ends: 0 with a value, 1 in a trap, 2 in a wait. -/
def endsAs {α : Type} : Except Stopped α → Nat
  | .ok _ => 0
  | .error (.trap _ _) => 1
  | .error .wait => 2
theorem value_at {α : Type} {e : Except Stopped α} (h : endsAs e = 0) : ∃ x, e = .ok x := by
  cases e with
  | ok x => exact ⟨x, rfl⟩
  | error x => cases x <;> cases h
theorem trap_at {α : Type} {e : Except Stopped α} (h : endsAs e = 1) : ∃ f c, e = .error (.trap f c) := by
  cases e with
  | ok x => cases h
  | error x => cases x with
    | trap f c => exact ⟨f, c, rfl⟩
    | wait => cases h
theorem wait_at {α : Type} {e : Except Stopped α} (h : endsAs e = 2) : e = .error .wait := by
  cases e with
  | ok x => cases h
  | error x => cases x with
    | trap f c => cases h
    | wait => rfl
/-- A read fails. -/
def failed : Served → Bool
  | .failed _ _ => true
  | .done _ _ _ => false
theorem failed_of {r : Served} (h : failed r = true) : ∃ v f, r = .failed v f := by
  cases r with
  | failed v f => exact ⟨v, f, rfl⟩
  | done => cases h
/-- A load-queue entry of eight bytes at `va`, translated to itself. -/
def aLoad (va : Word) (value : Option Word) : LoadEntry :=
  { seq := 0, reg := 40, va := va, size := 8, cls := 1, issue := 0, pc := 0, perform := some 100, tr := some (va.toNat, 7), counted := false, late := 0,
    at' := 0, sent := some 0, hash := none, value := value, landed := value.isSome, poison := false }
/-- A store-queue entry, translated to itself. -/
def aStore (va : Word) (kind : StoreKind) (held : Option Nat) : StoreEntry :=
  { seq := 1, va := va, issue := 0, pc := 0, kind := kind, at' := 0, sent := none, hash := none, tr := some (va.toNat, 7), counted := false, heldSince := held }
/-- Eight bytes. -/
def eight : List Byte := [1, 2, 3, 4, 5, 6, 7, 8]
/-- Loose code with these entries in the queues of its core. -/
def queued (s : State) (l : List LoadEntry) (m : List StoreEntry) : State := s.setCore { s.core with loads := l, stores := m }
/-- A snapshot range of context 0 at level 1 over the granule at 0x20000, without quota. -/
def ranged (s : State) : State :=
  s.setCtx 0 { s.ctx 0 with ranges := [(0, { base := 0x20000, length := 0x10000, depth := 1, extent := [(0x20000, 0x10000)] })] }

theorem witness_OpResults :
    opResult (loose [(41, 5), (42, 7)]) (.add 40 41 42) = some (40, 12) ∧
    immResult (loose [(41, 5)]) (.addi 40 41 (-1)) = some (40, 4) := by decide +kernel
theorem witness_MulDivResults :
    mulResult (loose [(41, 5), (42, 7)]) (.mul 40 41 42) = some (40, 35) ∧
    divResult (loose [(41, 7)]) (.divn 40 41 0) = some (40, 0xFFFFFFFFFFFFFFFF) := by decide +kernel
theorem witness_BranchesAndJumps : branchForm (loose []) (.beq 0 0 5) = some (true, 5) := by decide +kernel
theorem witness_Waits : (timed []).timed = true := by decide +kernel
theorem witness_LoopInstructions :
    loopForm (loose [(40, 3)]) (.loop 2 40 4095) = some (2, 3, 4095) ∧ loopForm (timed []) (.loops 0 63 1) = some (0, 0, 1) ∧
    loopRegField (10 : BitVec 6).toNat = true := by decide +kernel
theorem witness_CsrInstructions : csrWritable 0x10 = true ∧ csrWritable 0x2B = true := by decide +kernel
theorem witness_TrapInstructions :
    (loose []).timed = false ∧ (timed []).noUnit (.wload 3 0) = true ∧
    ((timed []).noUnit .retire = false ∧ looseOnly .retire = true ∧ (timed []).timed = true) ∧
    ((loose []).noUnit .rgexit = false ∧ timedOnly .rgexit = true ∧ (loose []).timed = false) := by decide +kernel
/-- 03 R89: a core at the end of level 1 with this count. -/
def atEnd (n : BitVec 32) : Core :=
  { pc := 0x20, active := [1], loops := (Vector.replicate 3 {}).set 1 { count := n, start := 0x10, stop := 0x20 } }
theorem witness_EndOfBody :
    (({ handler := true } : Core).handler = true) ∧
    (∀ l ∈ ({ pc := 4, active := [1] } : Core).active, (({ pc := 4, active := [1] } : Core).loopAt l).stop ≠ 4) ∧
    ((atEnd 2).active = [] ++ 1 :: [] ∧ ((atEnd 2).loopAt 1).stop = (atEnd 2).pc ∧ 1 < ((atEnd 2).loopAt 1).count.toNat) ∧
    ((atEnd 1).active = [] ++ [1] ∧ ((atEnd 1).loopAt 1).stop = (atEnd 1).pc ∧ ((atEnd 1).loopAt 1).count.toNat ≤ 1) ∧
    ((atEnd 0).loopAt 1).count.toNat ≤ 1 := by decide +kernel
theorem witness_CountersAndSignature : (0x1000 : Word).getLsbD 0 = false := by decide +kernel
theorem witness_LoadPop :
    (loose []).core.loads = [] ∧ (queued (loose []) [aLoad 0x4000 (some 9)] []).core.loads = aLoad 0x4000 (some 9) :: [] := by
  decide +kernel
theorem witness_AmoIssue :
    amoForm (loose [(1, 0x4000), (2, 3)]) (.amo 1 2 0 1 0 1) =
      some ((loose [(1, 0x4000), (2, 3)]).rx 1, 0, true, (loose [(1, 0x4000), (2, 3)]).rx 2, 0, true, false) ∧
    (amoForm (loose []) (.amoCas 3 1 2 0 1 0)).isSome = true := ⟨rfl, rfl⟩
theorem witness_RangeAndMarkIssue : rangeForm (.cpf 1 2 127) = some (3, 1, 2, 127) := by decide +kernel
theorem witness_LoadServed :
    let s := queued (loose []) [aLoad 0x4078 none] []
    s.core.loads.find? (fun x => x.seq == 0) = some (aLoad 0x4078 none) ∧ (aLoad 0x4078 none).tr = some (0x4078, 7) ∧
    s.agent.remote 0x4078 7 = false ∧
    (∀ i < 8, s.foreign s.task.ctx (0x4078 + i) = false) ∧
    (queued (loose []) [aLoad 0x4000 (some 9)] []).core.loads.find? (fun x => x.seq == 0 && x.value.isSome) =
      some (aLoad 0x4000 (some 9)) ∧
    (loose []).core.storeCount < 32 ∧ (loose []).region.freeze = none := by decide +kernel
theorem witness_StorePerforms :
    let s := queued (loose []) [] [aStore 0x4078 (.store eight) none]
    s.core.stores.find? (fun x => x.seq == 1 && !x.isMark) = some (aStore 0x4078 (.store eight) none) ∧
    s.agent.remote 0x4078 7 = false ∧ s.foreign s.task.ctx 0x4078 = false ∧
    s.hedgeOk s.task.ctx (0x4078 / 128) (s.agent.target 0x4078 7) = true ∧ 1 ∉ s.core.storePoison ∧ 0x4078 % 128 + eight.length ≤ 128 := by
  decide +kernel
theorem witness_HedgerowWaits :
    (let s := ranged (queued (loose []) [] [aStore 0x20000 (.store eight) none])
     s.core.stores.find? (fun x => x.seq == 1 && !x.isMark) = some (aStore 0x20000 (.store eight) none) ∧
     s.agent.remote 0x20000 7 = false ∧ s.foreign s.task.ctx 0x20000 = false ∧ Config.deviceStorage 0x20000 = true ∧
     s.hedgeOk s.task.ctx (0x20000 / 128) (s.agent.target 0x20000 7) = false) ∧
    (let s := { ranged (queued (loose []) [] [aStore 0x20000 (.store eight) (some 0)]) with hedgePool := 8 }
     s.hedgeFree = 8 ∧ s.hostHeld = [] ∧ s.tasks = [] ++ (0, s.task) :: [] ∧ s.task.region.active = false ∧
     ({ s with cur := { task := 0 } } : State).heldFor 0 = some (1, 0x20000) ∧ { s with hedgePool := 0 }.hedgeFree = 0) ∧
    (loose []).heldFor 0 = none := by
  decide +kernel
theorem witness_AmoPerforms :
    let s := queued (loose []) [aLoad 0x4000 none] [aStore 0x4000 (.amo 0 true 3 0 false false) none]
    s.core.stores.find? (fun x => x.seq == 1 && !x.isMark) = some (aStore 0x4000 (.amo 0 true 3 0 false false) none) ∧
    (∀ i < 8, s.foreign s.task.ctx (0x4000 + i) = false) ∧ s.poisoned (s.agent.target 0x4000 7) 0x4000 = false ∧ s.history = [] ∧
    s.hedgeOk s.task.ctx (0x4000 / 128) (s.agent.target 0x4000 7) = true ∧ 1 ∉ s.core.storePoison ∧
    (∀ i < 8, ({ s with owners := [(0, 0x10000, 5)] } : State).foreign s.task.ctx (0x4000 + i) = true) := by decide +kernel

/-- The state with four radix pages of 2 MiB from 0x40000000, mapped to themselves (11 R308). -/
def paged (s : State) : State :=
  (s.writePas placedRadix (leBytes 8 0x102001)).writePas 0x102000
    (leBytes 8 0x40000003 ++ leBytes 8 0x40200003 ++ leBytes 8 0x40400003 ++ leBytes 8 0x40600003)
/-- Loose code before an RGENTER: the descriptor of a one-core region, its core table and its code, each in a page of its own
(05 R165, R166). -/
def entering (engines : SMap Nat) : State :=
  let s := (paged (loose [(11, 0x40200000)])).writePas 0x40200000
    (leBytes 8 0x40400000 ++ leBytes 4 1 ++ leBytes 4 0 ++ leBytes 8 4096 ++ leBytes 8 1000)
  let s1 := s.writePas 0x40400000 (leBytes 8 0x40600000 ++ leBytes 4 4)
  s1.setRegion { s1.region with engines := engines, ncores := 1 }
theorem witness_RegionLoading :
    ((loose []).timed = false ∧ (queued (loose []) [aLoad 0x4000 none] []).core.loads ≠ []) ∧
    ((loose [(11, 0x8001)]).storesDone = true ∧ ((loose [(11, 0x8001)]).rx 11).toNat % 128 ≠ 0 ∧ (loose []).task.failed = none) ∧
    (queued (loose []) [] [aStore 0x4000 (.store eight) none]).storesDone = false ∧
    ((∃ x, (entering []).plan ((entering []).rx 11) = .ok x) ∧ (entering []).storesDone = true ∧ (entering []).core.loads = []) ∧
    ∃ x, (entering [(0, 1)]).plan ((entering [(0, 1)]).rx 11) = .ok x :=
  ⟨by decide +kernel, by decide +kernel, by decide +kernel,
    ⟨value_of (by decide +kernel), by decide +kernel, by decide +kernel⟩, value_of (by decide +kernel)⟩
theorem witness_mayEnter : (entering []).mayEnter := by unfold State.mayEnter; decide +kernel
/-- A write of function 0 to the line of the descriptor waits at its home. -/
def behind (s : State) : State := { s with hostHeld := [⟨0, 0, 0x40200000, [1], false⟩] }

/-- The bytes that a read gives. -/
def bytesOf (e : Except Stopped (List Byte × Bool × State)) : List Byte :=
  match e with
  | .ok x => x.1
  | .error _ => []
theorem bytes_at {e : Except Stopped (List Byte × Bool × State)} (h : endsAs e = 0) : ∃ p t, e = .ok (bytesOf e, p, t) := by
  cases e with
  | ok x => exact ⟨x.2.1, x.2.2, rfl⟩
  | error x => cases x <;> cases h
/-- The entry of the descriptor's table has a code address that is not a multiple of four. -/
def badEntry : State := (entering []).writePas 0x40400000 [1]
/-- The state after the read of the descriptor. -/
def pastDesc (s : State) : State :=
  match s.readVa 0x40200000 128 with
  | .ok x => x.2.2
  | .error _ => s
theorem witness_RegionChecks :
    (∃ p t, (loose [(11, 0x40200000)]).readVa 0x40200000 128 = .ok (bytesOf ((loose [(11, 0x40200000)]).readVa 0x40200000 128), p, t)) ∧
    (¬ (loose [(11, 0x40200000)]).descLegal (bytesOf ((loose [(11, 0x40200000)]).readVa 0x40200000 128))) ∧
    (badEntry.descLegal (bytesOf (badEntry.readVa 0x40200000 128)) ∧
      (∃ p t, badEntry.readVa 0x40200000 128 = .ok (bytesOf (badEntry.readVa 0x40200000 128), p, t)) ∧
      leNat ((bytesOf (badEntry.readVa 0x40200000 128)).take 8) = 0x40400000 ∧
      (∃ p t, (pastDesc badEntry).readVa 0x40400000 32 = .ok (bytesOf ((pastDesc badEntry).readVa 0x40400000 32), p, t)) ∧
      ¬ entryLegal (bytesOf ((pastDesc badEntry).readVa 0x40400000 32))) ∧
    (∃ f c, (loose [(11, 0x40200000)]).plan ((loose [(11, 0x40200000)]).rx 11) = .error (.trap f c)) ∧
    (behind (entering [])).plan ((behind (entering [])).rx 11) = .error .wait ∧ (behind (entering [])).storesDone = true ∧
    (behind (entering [])).core.loads = [] :=
  ⟨bytes_at (by decide +kernel), fun h => absurd h.2.2.2.2.1 (by decide +kernel),
    ⟨⟨by decide +kernel, by decide +kernel, by decide +kernel, by decide +kernel, by decide +kernel, by decide +kernel, by decide +kernel,
      by decide +kernel, by decide +kernel, by decide +kernel, by decide +kernel, by decide +kernel, .inl (by decide +kernel)⟩,
      bytes_at (by decide +kernel), by decide +kernel, bytes_at (by decide +kernel), fun h => absurd h.2.1 (by decide +kernel)⟩,
    trap_at (by decide +kernel), wait_at (by decide +kernel), by decide +kernel, by decide +kernel⟩
/-- Task 0 waits in a joined RGENTER of this descriptor; member 1 has told of its own. -/
def joining (desc : Nat) : State :=
  let s := entering [(0, 1)]
  let t := s.setRegion { s.region with entering := true, joinSince := some 0, desc := desc, entry := 2048 }
  t.setCtx 0 { t.ctx 0 with join := some ⟨0, [0, 1], 9, true, []⟩, joining := [(1, ⟨5000, 1, 0, 0⟩)] }
/-- The state in which a JOIN_ENTRY makes the checks again. -/
def joined (s : State) : State := { (s.setCtx 0 { s.ctx 0 with joining := [] }) with cur := { task := 0 } }
theorem witness_JoinedEntry :
    (entering []).enginesFree 1 = true ∧
    (let s := entering []
     (s.setDie 0 { s.die 0 with ceOwner := (List.range 8).map fun e => (e, 7) }).enginesFree 1 = false) ∧
    (let s := joining 0x40200000
     s.region.entering = true ∧ s.region.joinSince.isSome = true ∧ s.joiner 0 = some 0 ∧ (s.taskAt 0).ctx = 0 ∧
     (∀ k < 2, SMap.has (SMap.put (s.ctx 0).joining 0 ⟨5000, 1, 0, 0⟩) k = true) ∧
     endsAs ((joined s).plan (BitVec.ofNat 64 s.region.desc)) = 0) ∧
    endsAs ((joined (joining 0x8000)).plan 0x8000) = 1 ∧ endsAs ((joined (behind (joining 0x40200000))).plan 0x40200000) = 2 ∧
    (joining 0).joinMissing = none ∧ ({ joining 0 with ptc := 0x1000000 } : State).joinMissing = some 0 := by
  decide +kernel
theorem witness_RegionEntryAndExit :
    ((loose []).setRegion { entering := true, ncores := 1 }).region.entering = true ∧ (timed []).timed = true ∧
    (timed []).region.active = true := by decide +kernel
/-- A freeze of a region. -/
def aFreeze : Freeze := { why := .slide, tick := 0, lastLand := 0, resume := none }
/-- An item of a region's agenda that has not landed. -/
def anItem : Pend := { due := 100, rank := 0, core := 0, act := .phase .cycleEnd, landed := false }
/-- A region frozen for this item, at its cycle. -/
def frozen (f : Freeze) (l : List Pend) : State :=
  let s := (timed []).setRegion { (timed []).region with freeze := some f, agenda := l }
  { s.setTask { s.task with noted := 3 } with ptc := 64 }
theorem witness_FreezeAndResume :
    (let s := frozen aFreeze []
     s.region.active = true ∧ s.region.freeze = some aFreeze ∧ s.heldStore = none ∧ s.timed = true ∧ s.task.state = .running ∧
     s.region.budgetAt = none ∧ s.cutHop = none ∧ s.queueFaults = [] ∧ s.region.stopAt = none ∧ s.lates = [] ∧
     s.throttle.active = false ∧ s.task.noted = s.task.stateCode ∧ s.queuesMove = none ∧ s.budgetMet = false ∧
     s.region.entering = false ∧ s.region.traps = [] ∧ s.landing = none ∧ (s.frozenMove aFreeze).isSome = true ∧
     max aFreeze.lastLand aFreeze.tick + s.region.ahead ≤ s.ptc ∧ ({ s with ptc := 63 } : State).ptc < max aFreeze.lastLand aFreeze.tick + s.region.ahead) ∧
    (frozen aFreeze [anItem]).lates ≠ [] ∧ (frozen aFreeze [anItem]).rt < (frozen aFreeze [anItem]).region.budget ∧
    (frozen aFreeze [anItem]).queueFaults = [] ∧ (frozen aFreeze [anItem]).landing = some anItem ∧
    (let s := { queued (timed []) [] [aStore 0x4000 (.store eight) (some 0)] with ptc := 0x1000000 }
     s.heldStore = some (0, 0x4000, 0)) := by decide +kernel
theorem witness_Rings :
    (timed []).timed = true ∧ (timed []).earlyRead (timed []).cur.core 0x100 16 = none ∧ (timed []).core.spoisoned 0x100 16 = false := by
  decide +kernel
theorem witness_ArrayIssue :
    (timed []).timed = true ∧ (timed []).noUnit (.fmtw 1 2) = false ∧ arrayForm (.mmaC 1 5 4) = some (1, false, true, 5, 4) ∧
    (timed []).noUnit (.mmaC 1 5 4) = false := by decide +kernel
/-- A command of an array. -/
def aCommand (load : Bool) : ArrCmd := ⟨5, load, false, 2, 3, 0, 0, 0, 100, 0, none, [], none, none, false⟩
theorem witness_ArrayEvents :
    (let s := (timed []).setCore ((timed []).core.setArr 0 { waiting := [aCommand true] })
     (s.core.arr 0).waiting = aCommand true :: []) ∧
    (let s := (timed []).setCore ((timed []).core.setArr 0 { running := [aCommand false] })
     (s.core.arr 0).running.find? (fun c => c.uid == 5) = some (aCommand false)) := by decide +kernel
theorem witness_ExactAccumulation : ∀ p ∈ [((false, 3, 2) : Bool × Nat × Int), (true, 1, -4)], (-4 : Int) ≤ p.2.2 := by decide +kernel
theorem witness_FormatsRoundTrip : f64 ∈ [f64, f32, fbf, f16, e4m3, e5m2] ∧ 0x7BFF < 2 ^ (1 + f16.ebits + f16.fbits) ∧
    (∃ neg m e, f16.decode 0x7BFF = .fin neg m e) ∧ ∃ neg m e, e4m3.decode 0 = .fin neg m e :=
  ⟨by decide, by decide, ⟨_, _, _, rfl⟩, ⟨_, _, _, rfl⟩⟩
/-- A chain of one X64 hop at slot 2 of core 0. -/
def aChain : Chain :=
  ⟨7, [], false, false, [⟨0, 2, false, 0, 0, 1, 0, 0, 0⟩], ⟨0, false, false, false, false, 1, 0, 0, 0⟩, 0, 0, [0], none, false⟩
/-- The core that holds its link. -/
def chained : State :=
  let s := (timed []).setRegion { (timed []).region with chains := [(4, aChain)] }
  s.setCore (s.core.setLink 2 { role := .hop, chain := 4, hop := 0 })
theorem witness_LinkSlots : chained.timed = true ∧ chained.region.chain 4 = some aChain := by decide +kernel
theorem witness_ChainCommands :
    chained.timed = true ∧ (timed []).tailOf (7 : BitVec 8).toNat = none ∧ chained.tailOf (7 : BitVec 8).toNat = some (4, aChain, 2) := by
  decide +kernel
theorem witness_ChainEvents : chained.region.chain 4 = some aChain ∧ aChain.hop 0 = some ⟨0, 2, false, 0, 0, 1, 0, 0, 0⟩ ∧
    (0 : Nat) < 1 := by decide +kernel
/-- A configuration image that has been sampled. -/
def anImage : Image := ⟨3, 0, 0, 0, true, none, 1, []⟩
/-- A run of two iterations. -/
def aRun : Run := ⟨9, 0, 0, 3, false, 2, some 100, false, false, []⟩
/-- An input stream from the scratchpad, and an output stream to memory at a virtual address. -/
def aDesc (dir space base : Nat) : StreamDesc := ⟨dir, space, 0, 0, 0, 0, 0, base, [(1, 0), (1, 0), (1, 0), (1, 0)]⟩
/-- A stream of run 9 with this descriptor. -/
def aStream (d : StreamDesc) (fetched : SMap (List Byte)) : Stream := ⟨6, 1, 0, 0, 0, some d, some 9, [], 0, fetched, false⟩
/-- A core with the run and a stream. -/
def streaming (d : StreamDesc) (fetched : SMap (List Byte)) : State :=
  (timed []).setCore { (timed []).core with runs := [aRun], streams := [aStream d fetched], images := [anImage] }
theorem witness_GridCommands :
    (timed []).timed = true ∧ runForm (timed [(1, 5)]) (.grunC 1) = some (true, 5) ∧
    (let s := (timed []).setCore { (timed []).core with shadow := some anImage }
     (s.core.shadow.toList ++ s.core.images).find? (fun x => x.uid == 3) = some anImage ∧ s.core.runs = [] ∧
     (s.core.images ++ s.core.shadow.toList).find? (fun x => x.uid == 3) = some anImage ∧ anImage.sampled = true) ∧
    (∃ x ∈ ((timed []).setCore { (timed []).core with streams := [{ aStream (aDesc 0 0 0) [] with run := none }] }).core.streams,
      x.run = none ∧ x.done = false) := by decide +kernel
theorem witness_GridRuns : (streaming (aDesc 0 0 0) []).core.runOf 9 = some aRun := by decide +kernel
theorem witness_StreamBeats :
    (let s := streaming (aDesc 0 0 0) [(0, [1])]
     s.core.streamIn 1 9 = some (aStream (aDesc 0 0 0) [(0, [1])]) ∧ s.core.runOf 9 = some aRun ∧ (aDesc 0 0 0).dir = 0 ∧
     SMap.has [(0, [(1 : Byte)])] 0 = true ∧ SMap.get [] [(0, [(1 : Byte)])] 0 ≠ []) ∧
    (let s := streaming (aDesc 1 2 0x4000) []
     s.core.streamIn 1 9 = some (aStream (aDesc 1 2 0x4000) []) ∧ (aDesc 1 2 0x4000).dir ≠ 0 ∧
     ∃ l, writeLines (s.streamAgent 1) .write (lineFuel 64) s ((aDesc 1 2 0x4000).addr 0x4000 0) 64 = .ok l) ∧
    (let s := streaming (aDesc 0 2 (2 ^ 40)) []
     s.core.streamIn 1 9 = some (aStream (aDesc 0 2 (2 ^ 40)) []) ∧
     ∃ v f, s.regionLoad (s.streamAgent 1) .read aRun.issue ((aDesc 0 2 (2 ^ 40)).addr (2 ^ 40) 0) 64 = .failed v f) ∧
    (let s := streaming (aDesc 1 2 (2 ^ 40)) []
     s.core.streamIn 1 9 = some (aStream (aDesc 1 2 (2 ^ 40)) []) ∧
     ∃ v f, writeLines (s.streamAgent 1) .write (lineFuel 64) s ((aDesc 1 2 (2 ^ 40)).addr (2 ^ 40) 0) 64 = .error (v, f)) :=
  ⟨by decide +kernel, ⟨by decide +kernel, by decide, value_of (by decide +kernel)⟩, ⟨by decide +kernel, failed_of (by decide +kernel)⟩,
    ⟨by decide +kernel, error_of (by decide +kernel)⟩⟩
/-- A copy of one row of 64 bytes between these spaces: 0 memory, 1 scratchpad. -/
def copyDesc (ssp dsp : Nat) : CopyDesc :=
  ⟨0x4000, 0x5000, 0, 0, ssp, 0, dsp, 0, 0, 0, false, 0, 0x6000, [⟨64, false, 0, 0, 0, 0⟩, ⟨1, false, 0, 0, 0, 0⟩, ⟨1, false, 0, 0, 0, 0⟩,
    ⟨1, false, 0, 0, 0, 0⟩, ⟨1, false, 0, 0, 0, 0⟩, ⟨1, false, 0, 0, 0, 0⟩]⟩
/-- A copy command that has been sampled. -/
def aCopy (ssp dsp : Nat) (digest : Bool) : Copy := ⟨8, digest, 0, 0, 0, 0, 0, 0, some 0, some (copyDesc ssp dsp), [], [], [], [], [], 0, 0, false⟩
/-- A region with the copy. -/
def copying (ssp dsp : Nat) (digest : Bool) : State := (timed []).setRegion { (timed []).region with copies := [aCopy ssp dsp digest] }
/-- A row is ready. -/
def ready : RowReady → Bool
  | .ready _ => true
  | _ => false
theorem ready_some {r : RowReady} (h : ready r = true) : ∃ s, r = .ready s := by
  cases r with
  | ready s => exact ⟨s, rfl⟩
  | _ => cases h
theorem witness_Copies :
    (timed []).timed = true ∧ (copying 1 1 false).region.copy 8 = some (aCopy 1 1 false) ∧
    (∀ a ∈ (copyDesc 1 1).srcRows (copyDesc 1 1).sbase 0, (copying 1 1 false).earlyRead (copyDesc 1 1).score a (copyDesc 1 1).count0 = none) ∧
    (∃ s, (copying 1 0 false).rowReady (aCopy 1 0 false) (copyDesc 1 0) 0 0 = .ready s) ∧
    (∃ s, (copying 0 1 true).rowReady (aCopy 0 1 true) (copyDesc 0 1) 0 0 = .ready s) ∧
    (copying 0 1 true).region.copy 8 = some (aCopy 0 1 true) :=
  ⟨by decide +kernel, by decide +kernel, by decide +kernel, ready_some (by decide +kernel), ready_some (by decide +kernel), by decide +kernel⟩
/-- A write of 16 bytes at scratchpad address 0x100 is due at cycle 102, and the checker watches the address; a copy of which row 0 is there. -/
def watching : State :=
  let s := (timed []).setRegion { (timed []).region with
    agenda := [{ anItem with due := 102, act := .phase (.engineWrite 0x100 (leBytes 16 0)), landed := true }]
    copies := [{ aCopy 1 1 false with desc := some { copyDesc 1 1 with sbase := 0x100 } }] }
  s.setCore { s.core with checker := (0x100, 16) }
theorem witness_EarlyReads :
    watching.earlyRead watching.cur.core 0x100 16 = some 102 ∧
    (let d := { copyDesc 1 1 with sbase := 0x100 }
     watching.region.copy 8 = some { aCopy 1 1 false with desc := some d } ∧ d.ssp = 1 ∧
     (watching.earlyReads d.score ((d.srcRows d.sbase 0).map fun a => (a, d.count0))).isSome = true) := by decide +kernel
theorem witness_StreamStarts :
    (let s := streaming (aDesc 0 0 0) []
     let x := aStream (aDesc 0 0 0) []
     s.core.stream 6 = some x ∧ x.desc = some (aDesc 0 0 0) ∧ x.run.bind s.core.runOf = some aRun ∧ aRun.start = some 100) := by decide +kernel
theorem witness_GridOperations :
    (floatLanes (grid 0 0 0) (.fadd (g 1 1 2 0 0))).isSome = true ∧ (integerLanes (grid 0 0 0) (.icmp (g 22 1 2 0 5))).isSome = true ∧
    (moveLanes (grid 0 0 0) (.mov (g 1 2 0 0 0))).isSome = true ∧ (g 7 2 0 0 31).m ≠ 0 ∧ (g 7 2 0 0 31).m ≠ 1 ∧
    decode 0x08084180 = some (.add 1 2 3) ∧ scalarLane (grid 0 0 0).gx (.add 1 2 3) = some (1, 0, 1) := by decide +kernel

/-- Memory with a queue of context 0 at 0x10000 that holds one record: a task of one core on a BX die (10 R277). -/
def queueOne : State :=
  let s := (loose []).writePas 0x10000 (leBytes 8 0x1000 ++ leBytes 4 100 ++ leBytes 2 1 ++ leBytes 2 0 ++ leBytes 8 1)
  let s1 := s.setCtx 0 { s.ctx 0 with saveBase := 0x40000000, saveStride := 0x3000000, saveCount := 2 }
  { s1 with queues := [(3, { base := 0x10000, log2n := 2, enabled := true, subcount := 1, readyTick := some 0 })], tasks := [], nextTask := 0 }
theorem witness_LaunchAndSubmit :
    (loose []).timed = false ∧ queueOne.windowOf 0 3 = true ∧ (queueOne.queue 3).claimcount ≤ (queueOne.queue 3).subcount ∧
    (queueOne.queue 3).claimcount + 1 ∉ (queueOne.queue 3).cancelled ∧
    (let s := (queueOne.writePa 0x1000E 2).writePas 0x10038 (leBytes 8 0x60000)
     let m := s.recordAt 3 1
     (s.queue 3).subcount = (s.queue 3).claimcount + 1 ∧ (s.queue 3).subcount ∉ (s.queue 3).cancelled ∧
     (recField m 0x0E 1).testBit 1 = true ∧ recField m 0x38 8 = 0x60000 ∧ translate s (s.queue 3).ctx 0x60000 .amo = .ok 0x60000 7 ∧
     ∀ i < 8, s.foreign (s.queue 3).ctx (0x60000 + i) = false) ∧
    (∀ n < 4, (recField (queueOne.recordAt 3 n) 0x0E 1).testBit 1 = false) ∧
    SMap.has (loose []).tasks 0 = true ∧ ((loose []).taskAt 0).queue = 0 ∧ ((loose []).taskAt 0).lives = true ∧
    (∀ p ∈ queueOne.tasks, p.1 = 5 → p.2.queue ≠ 3) := by decide +kernel
/-- Task 0 ends this way. -/
def ending (e : EndKind) : State := (loose []).setTask { (loose []).task with state := .ending e, group := some (2, 0), saveBlock := some 1 }
theorem witness_TaskEnds :
    (loose []).timed = false ∧ (∀ e, ((loose []).taskAt 0).state ≠ .ending e) ∧ ((ending .retired).taskAt 0).state = .ending .retired ∧
    ((ending .retired).taskAt 0).saveBlock = some 1 ∧ ((ending .retired).taskAt 0).group = some (2, 0) ∧
    (let s := (timed []).setRegion { (timed []).region with budgetAt := some 90 }
     s.region.budgetAt = some 90 ∧ 90 ≤ s.rt) :=
  ⟨by decide +kernel, fun e h => by cases e <;> exact absurd h (by decide +kernel), by decide +kernel, by decide +kernel, by decide +kernel,
    by decide +kernel⟩
/-- A task that has retired, with its counter at this address. -/
def signalling (a : Nat) : State :=
  (ending .retired).setTask { (ending .retired).task with record := putBytes [] 0x38 (leBytes 8 a) }
theorem witness_Signals :
    (let s := signalling 0x60000
     recField s.task.record 0x38 8 = 0x60000 ∧ translate s s.task.ctx 0x60000 .amo = .ok 0x60000 7 ∧
     s.outsideLocked ⟨s.task.ctx, 257, 0x60000, leBytes 8 0, true⟩ = false ∧ hedgeRun s.task.ctx [(0x60000, 0, 7)] s = none ∧
     (∀ i < 8, s.foreign s.task.ctx (0x60000 + i) = false) ∧
     ({ s with hostHeld := [⟨0, 257, 0, [1], false⟩] } : State).outsideLocked ⟨s.task.ctx, 257, 0x60000, leBytes 8 0, true⟩ = true) ∧
    hedgeRun 0 [(0x20000, 0, 7)] (ranged (signalling 0x20000)) = some 0 := by decide +kernel
theorem witness_Registers :
    (0 < [(1 : Byte)].length ∧ [(1 : Byte)].length ≤ 128) ∧ (queueOne.ctx 0).fqBase = 0 ∧
    (queueOne.setCtx 0 { queueOne.ctx 0 with fqBase := 0x1000 } |>.ctx 0).fqBase ≠ 0 ∧ (queueOne.queue 3).ctx = 0 := by decide +kernel
theorem witness_FaultRecords :
    ((loose []).setTask { (loose []).task with fault := some ⟨0x300, 0, 0, none, 0, false, false, false⟩ }).task.fault =
      some ⟨0x300, 0, 0, none, 0, false, false, false⟩ ∧ (loose []).task.fault = none := by decide +kernel
/-- A saved task of one core that the distributor has placed. -/
def savedTask (region : Region) (state : TaskState) : State :=
  let s := loose []
  s.setTask { s.task with state := state, region := region, recordVa := 0x100000, savedCores := s.task.cores }
theorem witness_SaveAndRestore :
    ((loose []).taskAt 0).state = .running ∧ 0 ∈ (loose []).gangOf 0 ∧
    ((savedTask {} .freezing).task.state = .freezing ∧
      (∀ p ∈ (savedTask {} .freezing).task.cores, p.2.stores = [] ∧ p.2.ranges = [] ∧ p.2.loads = []) ∧
      ((savedTask {} .freezing).coreAt 0).nextIssue ≤ (savedTask {} .freezing).ptc ∧ (savedTask {} .running).task.state ≠ .freezing) ∧
    ((savedTask {} .saved).task.state = .saved ∧ (savedTask {} .saved).task.places ≠ [] ∧ SMap.has (savedTask {} .saved).task.savedCores 0 = true) ∧
    (let s := savedTask { active := true, ncores := 1, freeze := some aFreeze } .saved
     s.task.region.active = true ∧ s.task.region.freeze = some aFreeze) ∧
    (let s := savedTask { active := true, ncores := 1, freeze := some aFreeze } .restoring
     s.task.state = .restoring ∧ s.task.region.freeze = some aFreeze) ∧
    ((loose []).setTask { (loose []).task with saveBlock := some 1 }).task.saveBlock.isSome = true ∧
    (let v : Group := { members := [{ view := 1 }], reports := [(0, 0, 5)] }
     let s := { (loose []).setTask { (loose []).task with wait := .report, group := some (2, 0) } with groups := [(2, v)] }
     s.task.wait = .report ∧ s.task.group = some (2, 0) ∧ ∃ r ∈ (s.group 2).reports, r.1 = 0) := by decide +kernel
theorem witness_JoinPreempted :
    (let s := joining 0x40200000
     s.gangOf 0 = [0] ∧ (s.taskAt 0).state = .running ∧ (s.taskAt 0).region.active = false ∧ (s.taskAt 0).region.joinSince.isSome = true) := by
  decide +kernel
theorem witness_FullCheckpoint :
    (let s := { (loose []).setTask { (loose []).task with state := .bound } with bringUp := 7, checkpoint := { isOpen := false, full := true } }
     s.checkpoint.full = true ∧ s.bringUp = 7 ∧ s.task.state = .bound ∧ s.allSaved = true) ∧
    (let s := { loose [] with groups := [(2, { queue := 3, firstSub := 1, members := [{ view := 1 }] })] }
     s.groupOf 3 1 = some (2, 0)) ∧
    (recField [(0x18, (1 : Byte))] 0x18 8 ≠ 0) := by decide +kernel
/-- Of the placements of a shape that fits somewhere, one is chosen (notes/assumptions/7.md). -/
theorem place_some (s : State) (held : List (Nat × Nat)) (shape : List (Nat × Nat))
    (h : (s.placements held (fun _ _ => true) shape).length ≠ 0) : ∃ p, s.place held shape = some p := by
  unfold State.place
  dsimp only
  have h1 := Nat.mod_lt (Config.choose s.fresh) (Nat.pos_of_ne_zero h)
  rw [List.getElem?_eq_getElem h1]
  exact ⟨_, rfl⟩
theorem place_none (s : State) (held : List (Nat × Nat)) (shape : List (Nat × Nat))
    (h : (s.placements held (fun _ _ => true) shape).length = 0) : s.place held shape = none := by
  unfold State.place
  dsimp only
  rw [List.length_eq_zero_iff.mp h]
  rfl
theorem witness_Distribution :
    (loose []).selected = none ∧ queueOne.selected = some ⟨3, 0, none⟩ ∧ (queueOne.queue 3).head = some 1 ∧ queueOne.together 3 1 = [1] ∧
    (∃ p, queueOne.place queueOne.heldCores (shapeOf (queueOne.recordAt 3 1)) = some p) ∧
    (let s := (loose []).setTask { (loose []).task with state := .bound, record := [(0x0C, 1), (0x10, 1)] }
     s.task.state = .bound ∧ s.task.places ≠ [] ∧ 0 < s.task.ncores ∧ s.bindPlace = some (s.task.dies, s.task.places) ∧
     ∀ p ∈ s.task.places, p.2.2 ∈ s.dieCores (SMap.get p.2.1 s.task.dies p.2.1)) ∧
    (let s := (loose []).setTask { (loose []).task with state := .bound, places := [], record := [(0x0C, 1), (0x10, 31)] }
     s.task.state = .bound ∧ s.bindPlace = none) ∧
    (let s := (loose []).setTask { (loose []).task with state := .saved, places := [], record := [(0x0C, 1), (0x10, 1)] }
     s.selected = some ⟨0, 0, some (0, [0])⟩) :=
  ⟨by decide +kernel, by decide +kernel, by decide +kernel, by decide +kernel, place_some _ _ _ (by decide +kernel), by decide +kernel,
    ⟨by decide +kernel, by
      unfold State.bindPlace
      rw [if_neg (by decide +kernel)]
      exact place_none _ _ _ (by decide +kernel)⟩, by decide +kernel⟩
/-- Loose code with a group record of two members at 0x40200000 (13 R338): arrays at 0x30100, 0x30200 and 0x30300, queue 3. -/
def forking : State :=
  let s := (paged queueOne).writePas 0x40200000 (leBytes 1 2 ++ leBytes 1 2 ++ leBytes 1 0 ++ leBytes 1 3 ++ leBytes 4 0 ++ leBytes 8 0 ++
    leBytes 8 0x30100 ++ leBytes 8 0x30200 ++ leBytes 8 0x30300)
  let t := loose [(11, 0x40200000)]
  { s with tasks := t.tasks }
/-- Where no group is live, views are free for every group (13 R341). -/
theorem freeViews_some (s : State) (n : Nat) (h : s.groups = []) (hn : n < 256) : (s.freeViews n).isNone = false := by
  have hl : 1 ∈ (((List.range 65535).map (· + 1)).filter fun v => decide (v + n ≤ 65536) && s.liveViews.all fun x => decide (x < v) || decide (v + n ≤ x)) := by
    refine List.mem_filter.mpr ⟨List.mem_map.mpr ⟨0, List.mem_range.mpr (by decide), rfl⟩, ?_⟩
    simp only [State.liveViews, h, List.flatMap_nil, List.all_nil, Bool.and_true, decide_eq_true_eq]
    omega
  unfold State.freeViews
  dsimp only
  rw [List.getElem?_eq_getElem (Nat.mod_lt _ (List.length_pos_of_mem hl))]
  rfl
theorem recField_byte (m : SMap Byte) : recField m 0 1 < 256 := by
  simp [recField, takeBytes, leNat]
  omega
/-- A TLB entry that agrees with the walk changes no translation, whether or not it has been kept (11 R311). -/
theorem translateAs_kept {s : State} {g : Agent} {va : Nat} {k : Access} {e : TlbEntry}
    (h : (if g.unit = 0 then [] else (s.ctx g.ctx).tlb).find?
      (fun e => e.unit == g.unit && decide (e.base ≤ va) && decide (va < e.base + e.size)) = some e)
    (he : permit k (e.pa + (va - e.base)) e.attr = translate s g.ctx va k) : translateAs s g va k = translate s g.ctx va k := by
  unfold translateAs State.tlbHit
  rw [h]
  cases Config.freeBool (s.fresh + va) <;> simp [he]
/-- A translation noted changes no byte that is served. -/
theorem noteTlb_serveByte (s : State) (g h : Agent) (va : Nat) (old : Old) (a pa attr : Nat) :
    (s.noteTlb g va).serveByte h old a pa attr = s.serveByte h old a pa attr := by
  unfold State.noteTlb
  split
  · rfl
  · split
    · rfl
    · split <;> rfl
/-- The core's reads of the record: the state before them, the state at the second line, and after both. -/
def forkStart (s : State) : State := s.countPages 0x40200000 256
def forkLine (s : State) : State := (((forkStart s).noteTlb s.agent 0x40200000).readLine s.agent noOld 0x40200000 0x40200000 0x807 128).2.2
def forkRest (s : State) : List Byte × Bool × State :=
  ((forkLine s).noteTlb s.agent 0x40200080).readLine s.agent noOld 0x40200080 0x40200080 0x807 128
/-- A record in one mapped page is read. -/
theorem record_read {s : State} {e : TlbEntry} {bytes : List Byte} (hw : s.readWaits .read 0x40200000 256 = false)
    (h1 : translateAs (forkStart s) s.agent 0x40200000 .read = .ok 0x40200000 0x807)
    (hk : (if s.agent.unit = 0 then [] else ((forkLine s).ctx s.agent.ctx).tlb).find?
      (fun e => e.unit == s.agent.unit && decide (e.base ≤ 0x40200080) && decide (0x40200080 < e.base + e.size)) = some e)
    (he : permit .read (e.pa + (0x40200080 - e.base)) e.attr = translate (forkLine s) s.agent.ctx 0x40200080 .read)
    (hp : translate (forkLine s) s.agent.ctx 0x40200080 .read = .ok 0x40200080 0x807)
    (hb : (List.range 128).map (fun i => (forkStart s).serveByte s.agent noOld (0x40200000 + i) (0x40200000 + i) 0x807) ++
      ((List.range 128).map (fun i => (forkLine s).serveByte s.agent noOld (0x40200080 + i) (0x40200080 + i) 0x807) ++ []) = bytes) :
    ∃ p, s.readVa 0x40200000 256 = .ok (bytes, p, (forkRest s).2.2) := by
  have h2 : translateAs (forkLine s) s.agent 0x40200080 .read = .ok 0x40200080 0x807 := (translateAs_kept hk he).trans hp
  have h3 := serveRead_line (old := noOld) (fuel := lineFuel 256 - 2) (n := 128) (by decide) h2 (l := []) (p := false) rfl
  have h4 : (forkStart s).load s.agent .read 0x40200000 256 = .done _ _ (forkRest s).2.2 :=
    serveRead_line (old := noOld) (fuel := lineFuel 256 - 1) (n := 256) (by decide) h1 h3
  simp only [State.readLine, noteTlb_serveByte, show inLine 0x40200000 256 = 128 from rfl, show inLine 0x40200080 128 = 128 from rfl,
    hb] at h4
  obtain ⟨p, h5⟩ : ∃ p, (forkStart s).load s.agent .read 0x40200000 256 = .done bytes p (forkRest s).2.2 := ⟨_, h4⟩
  refine ⟨p, ?_⟩
  unfold State.readVa
  rw [if_neg (by rw [hw]; decide), show s.countPages 0x40200000 256 = forkStart s from rfl, h5]
theorem fork_read : ∃ p, forking.readVa 0x40200000 256 =
    .ok ((List.range 256).map (fun i => forking.readPa (0x40200000 + i)), p, (forkRest forking).2.2) :=
  record_read (e := ⟨forking.agent.unit, 0x40200000, 0x200000, 0x40200000, 0x807⟩) (by decide +kernel) (by decide +kernel)
    (by decide +kernel) (by decide +kernel) (by decide +kernel) (by decide +kernel)
/-- The record's bytes. -/
def forkBytes : List Byte := (List.range 256).map fun i => forking.readPa (0x40200000 + i)
theorem fork_free : ∀ x ∈ forking.forkTraps 0x40200000 forkBytes 0x40200000 0x807, ¬ x.1 := by
  unfold State.forkTraps
  simp only [show leNat ((forkBytes.drop 0x10).take 8) = 0x30100 by decide +kernel, show leNat ((forkBytes.drop 0x18).take 8) = 0x30200 by decide +kernel,
    show leNat ((forkBytes.drop 0x20).take 8) = 0x30300 by decide +kernel, show leNat ((forkBytes.drop 0).take 1) = 2 by decide +kernel,
    show leNat ((forkBytes.drop 3).take 1) = 3 by decide +kernel, show leNat ((forkBytes.drop 8).take 8) = 0 by decide +kernel,
    show leNat ((forkBytes.drop 2).take 1) = 0 by decide +kernel,
    show pageStarts 0x30100 (4 * 2) ++ pageStarts 0x30200 (4 * 2) ++ pageStarts 0x30300 2 = [0x30100, 0x30200, 0x30300] by decide +kernel,
    List.flatMap_cons, List.flatMap_nil, List.mem_append, List.mem_cons, List.not_mem_nil, or_false, List.append_nil,
    or_imp, forall_and, forall_eq]
  have legal : groupLegal forkBytes (0x40200000 : Word).toNat := by unfold groupLegal; decide +kernel
  have read : ∀ a ∈ [0x30100, 0x30200, 0x30300], Machine.translate forking forking.task.ctx a .read = .ok a 7 ∧
      Machine.translate forking forking.task.ctx a .write = .ok a 7 := by decide +kernel
  have home : attrPolicy 7 = 0 ∧ Config.deviceStorage 0x30100 = true ∧ Config.deviceStorage 0x30200 = true ∧
      Config.deviceStorage 0x30300 = true := by decide +kernel
  obtain ⟨⟨r1, w1⟩, ⟨r2, w2⟩, r3, w3⟩ : (_ ∧ _) ∧ (_ ∧ _) ∧ _ ∧ _ :=
    ⟨read 0x30100 (by decide), read 0x30200 (by decide), read 0x30300 (by decide)⟩
  simp only [r1, w1, r2, w2, r3, w3, Tr.ok.injEq]
  refine ⟨⟨fun h => h ⟨legal, by decide +kernel⟩, ⟨fun h => h _ _ rfl, fun h => h _ _ rfl, fun h => h _ _ ⟨rfl, rfl⟩ ⟨home.1, home.2.1⟩⟩,
    ⟨fun h => h _ _ rfl, fun h => h _ _ rfl, fun h => h _ _ ⟨rfl, rfl⟩ ⟨home.1, home.2.2.1⟩⟩,
    fun h => h _ _ rfl, fun h => h _ _ rfl, fun h => h _ _ ⟨rfl, rfl⟩ ⟨home.1, home.2.2.2⟩⟩, ?_⟩
  refine ⟨by decide +kernel, by decide +kernel, ?_, by decide +kernel, by decide +kernel⟩
  rintro (h | h)
  · exact absurd h (by decide +kernel)
  · obtain ⟨y, hy, -⟩ := h 1 (by decide) (by decide)
    rw [show forking.liveViews = [] by decide +kernel] at hy
    cases hy
theorem fork_passes : ∃ x, forking.forkCheck 0x40200000 = .ok x := by
  obtain ⟨p, hr⟩ := fork_read
  refine value_at ?_
  unfold State.forkCheck
  simp only [show (0x40200000 : Word).toNat = 0x40200000 from rfl, hr, bind, Except.bind, State.forkRoom,
    freeViews_some forking _ (show forking.groups = [] by decide +kernel) (recField_byte _)]
  decide +kernel
theorem witness_Fork : (queued (loose []) [aLoad 0x4000 none] []).core.loads ≠ [] ∧ (loose [(11, 8)]).core.loads = [] ∧
    ((loose [(11, 8)]).rx 11).toNat % 256 ≠ 0 ∧ forking.timed = false ∧ forking.rx 11 = 0x40200000 ∧ forking.storesDone = true ∧
    forking.task.failed = none ∧ forking.core.loads = [] ∧ ∃ x, forking.forkCheck 0x40200000 = .ok x :=
  ⟨by decide +kernel, by decide +kernel, by decide +kernel, by decide +kernel, by decide +kernel, by decide +kernel, by decide +kernel,
    by decide +kernel, fork_passes⟩
/-- A record of zeros is refused by the first of the checks. -/
theorem witness_ForkRefused : ∃ b p t, b = List.replicate 256 (0 : Byte) ∧ (loose []).readVa 0x40200000 256 = .ok (b, p, t) ∧
    FirstFails ((loose []).forkTraps 0x40200000 b 0x40200000 0x807) ⟨0x0E, 1, 0x40200000⟩ := by
  obtain ⟨p, h⟩ := record_read (s := loose []) (bytes := List.replicate 256 0)
    (e := ⟨(loose []).agent.unit, 0x40000000, 0x40000000, 0x40000000, 0x807⟩) (by decide +kernel) (by decide +kernel)
    (by decide +kernel) (by decide +kernel) (by decide +kernel) (by decide +kernel)
  exact ⟨_, p, _, rfl, h, [], _, _, rfl, fun h => absurd h.1.1 (by decide +kernel), fun x h => by cases h⟩
/-- Group 2 of two members, open, with a report and a cancellation under way. -/
def grouped : State :=
  let s := loose []
  let v : Group := { state := 1, members := [{ view := 1 }, { view := 2 }], reports := [(0, 0x3F800000, 5)], cancels := [(0, some 0, 0)] }
  { s.setTask { s.task with group := some (2, 0) } with groups := [(2, v)] }
theorem witness_GroupCommands : grouped.timed = false := by decide +kernel
theorem witness_GroupRecordRead :
    (loose [(41, 0x4000)]).readWaits .read 0x4040 4 = false ∧ translateAs (loose []) (loose []).agent 0x4040 .read = .ok 0x4040 7 ∧
    (0x4040 : Nat) % 128 + 4 ≤ 128 ∧ (loose []).agent.remote 0x4040 7 = false ∧ (∀ i < 4, (loose []).foreign 0 (0x4040 + i) = false) ∧
    (let l : List (Nat × BitVec 32) := [(1, 0x3F800000), (1, 0x40000000)]
     2 ≤ (l.filter fun p => p.1 == 1).length ∧ l[0]? = some (1, 0x3F800000)) := by decide +kernel
theorem witness_GroupEvents :
    (grouped.group 2).state = 1 ∧ (grouped.group 9).state ≠ 1 ∧ (grouped.group 2).reports.find? (fun r => r.1 == 0) = some (0, 0x3F800000, 5) ∧
    0 < (grouped.group 2).members.length ∧ (∀ r ∈ (grouped.group 2).reports, r.1 ≠ 1) ∧ (grouped.group 2).members.length ≤ 2 ∧
    ((grouped.group 2).member 0).ended = false ∧ grouped.nextCancel (grouped.group 9) = none ∧
    grouped.nextCancel (grouped.group 2) = some (0, some 0, 0) ∧ SMap.has grouped.tasks 0 = true ∧
    grouped.tasks.find? (fun p => p.2.group == some (2, 0) && !p.2.cancelling && p.2.lives) = some (0, grouped.task) ∧
    grouped.taskAt 0 = grouped.task ∧ (∀ i < 2, (recField (grouped.recordAt 0 i) 0x0E 1).testBit 1 = false) ∧
    (∀ m ∈ (grouped.group 2).members, m.ended = false) ∧
    ((grouped.group 2).member 0).status = 0 ∧
    (let l : List (Nat × BitVec 32) := [(1, 0), (5, 0)]
     (l.filter fun p => p.1 == 1).length < 2 ∧ (l.getD 1 (0, 0)).1 ≠ 1) := by decide +kernel
/-- A saved line of the open level of the range at 0x20000. -/
def aShadow : Version := ⟨0x400, 0, 1, 0, some [(3, 7)], false⟩
theorem witness_Snapshots :
    (loose []).timed = false ∧
    (let s := { ranged (loose []) with versions := [aShadow] }
     let r := (s.ctx 0).range 0
     s.shadowsAt r r.depth = [aShadow] ∧ r.view = 0 ∧ aShadow.content = some [(3, 7)] ∧ (ranged (loose [])).shadowsAt r r.depth = []) ∧
    (let s := ranged (loose [])
     let t := s.setCtx 0 { s.ctx 0 with ranges := [(0, { (s.ctx 0).range 0 with view := 5 })] }
     ({ t with versions := [{ aShadow with view := 5 }] }.shadowsAt ((t.ctx 0).range 0) 1) = [{ aShadow with view := 5 }] ∧
     ((t.ctx 0).range 0).view ≠ 0) := by decide +kernel
/-- The range of `ranged` at level 2, with a line saved at this level. -/
def nested : State :=
  let s := ranged (loose [])
  { s.setCtx 0 { s.ctx 0 with ranges := [(0, { (s.ctx 0).range 0 with depth := 2 })] } with versions := [{ aShadow with level := 2 }] }
theorem witness_NestedLevels :
    (let r := (nested.ctx 0).range 0
     1 < r.depth ∧ nested.shadowsAt r r.depth = [{ aShadow with level := 2 }] ∧ nested.version 0x400 0 2 = some { aShadow with level := 2 } ∧
     (nested.version 0x400 0 1).isNone = true ∧ (∀ d ∈ nested.dies, d.2.remaps = [])) := by decide +kernel
/-- One loose load that has not been sent. -/
def unsent : State := queued (loose []) [{ aLoad 0x4000 none with sent := none }] []
/-- Granule 2 is being migrated to granule 3. -/
def moving (copied : Nat) (flipped : Bool) : State := (loose []).setRemap 2 (some ⟨2, 2, 3, copied, flipped⟩)
theorem witness_TranslationAndMigration :
    (loose []).region.active = false ∧ (timed []).region.active = true ∧ (0x100038 : Nat) % 8 = 0 ∧ (loose []).foreign 0 0x100038 = false ∧
    (loose []).editLocked [(0x100038, 3)] = false ∧ (loose []).editShort [(0x100038, 3)] = none ∧ (loose []).copies = [] ∧
    (queued (loose []) [{ aLoad 0x4000 none with tr := some (0x9000, 7) }] []).staleHeld 0 = true ∧ (loose []).staleHeld 0 = false ∧
    (let t := after (.translationFlush 0) unsent
     (unsent.taskAt 0).ctx = 0 ∧ ∃ e ∈ (SMap.get {} (t.taskAt 0).cores 0).loads, e.value = none ∧ e.sent = none ∧ e.cls ≠ 4 ∧ e.tr = some (0x4000, 7)) ∧
    translateAs (unsent.flush 0) (unsent.flush 0).agent 0x4000 .read = .ok 0x4000 7 ∧
    (let s := (timed []).setRegion { (timed []).region with freeze := some aFreeze }
     let u := queued s [{ aLoad (2 ^ 40) none with tr := none }] []
     u.region.freeze = some aFreeze ∧ u.stuckFault.isSome = true) ∧
    Config.deviceStorage (2 * 0x10000) = true ∧ Config.deviceStorage (3 * 0x10000) = true ∧ (loose []).remap (2 * 0x10000) = none ∧
    ((loose []).die (Config.paDie (2 * 0x10000))).remaps.length < 4096 ∧ (loose []).hedgeOk 0 (3 * 512 + 0) 0 = true ∧
    (moving 5 false).remap (2 * 0x10000) = some ⟨2, 2, 3, 5, false⟩ ∧ (moving 512 false).remap (2 * 0x10000) = some ⟨2, 2, 3, 512, false⟩ ∧
    (moving 512 true).remap (2 * 0x10000) = some ⟨2, 2, 3, 512, true⟩ ∧ (moving 512 true).remap (3 * 0x10000) = none ∧
    ((moving 512 true).evictWaits 2 (Config.paDie (3 * 0x10000))).isSome = false ∧
    (let s := { moving 512 true with copies := [{ die := 0, line := 2 * 512, bytes := [(0, 9)], dirty := 1 }], hostHeld := [⟨0, 0, 0x20000, [1], false⟩] }
     (s.evictWaits 2 (Config.paDie (3 * 0x10000))).isSome = true) := by decide +kernel
/-- A die's copy of a line, its first byte dirty. -/
def aLine : CopyLine := { die := 1, line := 0x80, bytes := [(0, 9)], dirty := 1 }
/-- Of three numbers, a list of two leaves one out. -/
theorem outside_two (l : List Nat) (h : l.length ≤ 2) : ∃ k < 3, k ∉ l := by
  match l, h with
  | [], _ => exact ⟨0, by decide, by simp⟩
  | [a], _ =>
    by_cases ha : a = 0
    · exact ⟨1, by decide, by simp [ha]⟩
    · exact ⟨0, by decide, by simp; omega⟩
  | [a, b], _ =>
    by_cases h0 : a ≠ 0 ∧ b ≠ 0
    · exact ⟨0, by decide, by simp; omega⟩
    · by_cases h1 : a ≠ 1 ∧ b ≠ 1
      · exact ⟨1, by decide, by simp; omega⟩
      · exact ⟨2, by decide, by simp; omega⟩
theorem witness_SliceRetire : ∃ k < 3, k ∉ fuseRetired 0 ∧ k ∉ ((loose []).die 0).retiredSlices ∧ k < Config.slices 0 + 2 ∧
    (let s : State := { State.reset with dies := [(0, { sliceMap := [(0, k), (1, k + 1)] })] }
     s.sliceOf 0 0 = k ∧ s.sliceOf 0 1 ≠ k) := by
  obtain ⟨k, hk, hn⟩ := outside_two (fuseRetired 0) (List.length_take_le _ _)
  refine ⟨k, hk, hn, ?_, ?_, ?_, ?_⟩
  · rw [show ((loose []).die 0).retiredSlices = [] by decide +kernel]
    exact List.not_mem_nil
  · simp [Config.slices, Config.isBX]
    omega
  · rfl
  · show k + 1 ≠ k
    omega
theorem witness_SlicesAndErrors :
    Config.slices 0 + 2 ≤ 34 ∧
    ({ loose [] with copies := [aLine] }.copyOf 1 0x80 = some aLine) ∧ (loose []).copyOf 1 0x80 = none ∧
    SMap.has (loose []).tasks 0 = true ∧ SMap.has ((loose []).taskAt 0).cores 0 = true ∧
    ((SMap.get {} (chained.taskAt 0).cores 0).link 2).role ≠ .unbuilt := by decide +kernel
theorem witness_Errors :
    (let s := { loose [] with copies := [aLine] }
     s.locked 0x80 (0, 2 ^ 32, 0) = false ∧ s.writeBackOk 1 0x80 = true ∧ s.copyOf 1 0x80 = some aLine ∧ aLine.dirty ≠ 0) ∧
    (let s := { ranged (loose []) with copies := [{ aLine with line := 0x400 }] }
     s.writeBackOk 1 0x400 = false ∧ s.hedgeShort 0 0x400 0 = some 0) ∧
    (let s := queued (loose []) [aLoad 0x4000 none] [aStore 0x4000 (.store eight) none]
     s.core.loads[0]? = some (aLoad 0x4000 none) ∧ (s.core.stores.filter fun e => !e.isMark)[0]? = some (aStore 0x4000 (.store eight) none)) ∧
    (let s := (timed []).setRegion { (timed []).region with agenda := [anItem] }
     SMap.has s.tasks 0 = true ∧ ((s.taskAt 0).region.agenda.filter fun q => q.core == 0)[0]? = some anItem) ∧
    0 < (({ fq := [0] } : Arr)).fq.length ∧ (loose []).taskAt 0 = (loose []).task ∧
    (∃ x ∈ (loose []).task.places, SMap.get x.2.1 (loose []).task.dies x.2.1 = 0 ∧ x.2.2 = 0) := by decide +kernel
theorem witness_HostAccess : (0 : Nat) < 64 ∧ 0x4000 + 8 ≤ 2 ^ 48 ∧ 0x4000 % 128 + 8 ≤ 128 ∧ (loose []).hostWaits 0 0x4000 8 = false ∧
    ({ loose [] with hostHeld := [⟨0, 0, 0x4000, [1], false⟩] } : State).hostWaits 0 0x4000 8 = true ∧
    translate (loose []) 0 0x4000 .read = .ok 0x4000 7 := by decide +kernel
theorem witness_Attestation :
    (({ tr := 0, version := 0x12 } : Req).version ≠ 0x13 ∧ ({ tr := 0, version := 0x13 } : Req).version = 0x13) ∧
    ({ loose [] with spdm := [(0, { negotiated := true })] }.responder 0).negotiated = true ∧ ((loose []).responder 0).negotiated = false := by
  decide +kernel
theorem witness_Trust :
    (let s := (loose []).setCtx 0 { (loose []).ctx 0 with tdi := .run }
     (s.ctx 0).unlocking = false ∧ (s.ctx 0).tdi = .run ∧ SMap.has s.tasks 0 = true ∧ (s.taskAt 0).ctx = 0 ∧ (s.taskAt 0).lives = true) ∧
    (let s := { queueOne with owners := [(0x20000, 0x10000, 5)] }
     (3, s.queue 3) ∈ s.queues ∧ (s.queue 3).claimcount < 1 ∧ 1 ≤ (s.queue 3).subcount ∧ (s.queue 3).ctx = 0 ∧
     (∀ n < 4, (recField (s.recordAt 3 n) 0x0E 1).testBit 1 = false) ∧
     (s.owners.any fun o => decide (o.1 ≤ 0x20000) && decide (0x20000 < o.1 + o.2.1) && o.2.2 == 5) = true) ∧
    (∀ o ∈ (loose []).owners, o.2.2 ≠ 0) ∧ (∀ p ∈ (loose []).groups, p.2.ctx ≠ 0) ∧ (∀ p ∈ (loose []).queues, p.2.ctx ≠ 0) ∧
    (let s := { loose [] with versions := [{ aShadow with ctx := 1 }] }
     ∃ v ∈ s.versions, v.ctx ≠ 0 ∧ v.view ∉ s.viewsOf 0) := by
  decide +kernel
/-- A region joined over two packages: hop 0 of its chain stands here, hop 1 on member 1, reached by port 4. -/
def farRegion (cut : List Nat) : State :=
  let c := { aChain with hops := aChain.hops ++ [⟨farCore + 1, 0, false, 0, 0, 1, 0, 0, 0⟩] }
  let q : Pend := { due := 200, rank := 0, core := 0, seq := 3, act := .event (.hopPerform 4 1 0 { x64 := true, elems := [], states := [], size := 0 }), landed := false }
  let u : Task := { ctx := 0, region := { active := true, total := 2, xlat := 5, rt := 200, cut := cut, chains := [(4, c)], agenda := [q, { anItem with seq := 4 }] } }
  let s := { (State.reset.setCtx 0 { join := some ⟨0, [0, 1], 9, true, [⟨1, 4, []⟩]⟩ }) with tasks := [(0, u)] }
  { s with cur := { task := 0 } }
theorem witness_Links :
    (let s := farRegion []
     s.tasks = [] ++ (0, s.task) :: [] ∧ s.usesPort 4 = true ∧ s.usesPort 5 = false ∧
     s.region.agenda.map s.farHop = [some (4, 0, 4), none] ∧ (∀ q ∈ s.region.agenda, q.landed = false) ∧ s.cutHop = none) ∧
    (farRegion [4]).cutHop.isSome = true ∧ (farRegion [4]).region.budgetAt.any (fun f => decide (f ≤ (farRegion [4]).rt)) = false := by
  decide +kernel
theorem witness_CheckpointsAndPower :
    SMap.has (loose []).tasks 0 = true ∧ ((loose []).taskAt 0).state = .running ∧ ((loose []).taskAt 0).region.entering = false ∧
    (∀ d ∈ (loose []).dies, d.2.remaps = []) ∧ (loose []).ownerOf (2 * 0x10000) = 0xFF ∧ (∀ p ∈ State.reset.tasks, p.2.places = []) ∧
    Config.deviceStorage (2 * 0x10000) = true ∧
    imageOpens ⟨[], [], []⟩ ⟨2, 0xFF, [], 0⟩ = true ∧ imageOpens ⟨[], [], []⟩ ⟨2, 5, [], 0⟩ = false ∧
    (∃ o ∈ ({ loose [] with owners := [(0x20000, 0x10000, 5)] } : State).owners, o.1 / 0x10000 ≤ 2 ∧ 2 < o.1 / 0x10000 + o.2.1 / 0x10000) := by
  decide +kernel
/-- A throttled region, and a throttled task in loose code. -/
def throttled (s : State) : State := { s with throttle := { active := true } }
theorem witness_Throttle :
    (let s := throttled (timed [])
     s.throttle.active = true ∧ s.task.state = .running ∧ s.region.active = true ∧ s.region.entering = false ∧ s.region.traps = [] ∧
     s.landing = none ∧ s.region.freeze = none ∧ s.heldStore = none ∧ s.region.total = 0) ∧
    ((timed []).setRegion { (timed []).region with total := 2 } |> throttled).region.stopAt = none ∧
    (let f := { aFreeze with why := .throttle }
     let s := frozen f []
     s.throttle.active = false ∧ s.task.state = .running ∧ s.region.budgetAt = none ∧ s.cutHop = none ∧ s.queueFaults = [] ∧
     s.region.stopAt = none ∧ f.why = .throttle ∧ f.peer = false ∧ s.region.freeze.isSome = true ∧ s.task.paused 64 = false ∧ 0 < s.region.ncores) ∧
    (let s := throttled (loose [])
     s.region.active = false ∧ s.region.entering = false ∧ s.task.noted = s.task.stateCode ∧ s.queuesMove = none ∧ s.budgetMet = false) := by
  decide +kernel
theorem witness_Schedule :
    ((timed []).setRegion { (timed []).region with opened := true }).tasks.find? (fun p => p.2.region.opened) =
      some (0, ((timed []).setRegion { (timed []).region with opened := true }).task) ∧
    (∀ p ∈ (loose []).tasks, p.2.region.opened = false) ∧ (loose []).groupMove = none ∧ (loose []).inboxMove = none ∧
    (loose []).throttleMove = none ∧ State.reset.distributorMove = none ∧ State.reset.messageMove = none ∧ State.reset.groupClose = none ∧
    State.reset.tasks = [] ∧ (loose []).tasks = [] ++ (0, (loose []).task) :: [] ∧ (loose []).taskMove.isSome = true ∧
    ({ loose [] with groups := [(2, { state := 1, deadline := 5 })], ptc := 5 } : State).groupMove.isSome = true ∧
    ({ loose [] with inbox := [(0, .slidemaxWrite 0)] } : State).inboxMove.isSome = true ∧
    ({ throttled (loose []) with throttle := { active := true, below := some 0 }, ptc := 65536 } : State).throttleMove.isSome = true ∧
    ({ queueOne with bringUp := 7 } : State).distributorMove.isSome = true ∧
    ({ State.reset with fns := [(0, { msixPending := [0] })] } : State).messageMove.isSome = true ∧
    ({ State.reset with groups := [(2, { state := 1, members := [{ status := 1 }] })] } : State).groupClose.isSome = true := by
  decide +kernel
/-- A granule whose digest is right; whether a signature verifies is free (notes/assumptions/12.md). -/
theorem witness_CheckpointImage : ∃ r : GranuleRecord, r.granule = 2 ∧
    r.digest = BitVec.ofNat 512 (leNat (sha512 (takeBytes r.content 0 0x10000))) :=
  ⟨⟨2, 0xFF, [], BitVec.ofNat 512 (leNat (sha512 (takeBytes [] 0 0x10000)))⟩, rfl, rfl⟩
theorem witness_RoundTrip :
    wellFormed (.cpf 1 2 127) = true ∧ slotWordOk (.cpf 1 2 127) = true ∧ encode (.cpf 1 2 127) = some 0xD600217F ∧
    slotWordOk (.gridSlotCScalar 0x08084180) = true ∧ encode (.gridSlotCScalar 0x08084180) = some 0x08084180 := by decide +kernel
theorem witness_NoOtherWord : decode 0x09453500 = some (.add 40 41 42) := by decide +kernel
theorem witness_StepRunsDecoded :
    (loose []).power = .on ∧ (loose []).turn = [({}, .issue)] ∧ ((loose []).fetchWord).isOk = true ∧ (loose []).fetchWaits = false ∧
    (queued (loose []) [] [aStore 0x40001000 (.store eight) none]).fetchWaits = true ∧ decode 0x02000000 = some (.idle 0) ∧
    (∀ r ∈ sources (.idle 0), r.toNat ∉ (loose []).core.regPoison) ∧
    (let s := (loose []).setCore { (loose []).core with regPoison := [5] }
     s.engineRefused (.add 1 5 2) = false ∧ s.modeRefused (.add 1 5 2) = false ∧
     (sources (.add 1 5 2)).find? (fun r => s.core.regPoison.contains r.toNat) = some 5) ∧
    (loose []).modeRefused .rgexit = true ∧
    ((timed []).setCore { (timed []).core with pc := 0x10000 }).fetchWord.isOk = false ∧ State.reset.turn = [] ∧
    { State.reset with power := .held, inbox := [(0, .powerOnReset)] }.resetWaits = true ∧ State.reset.resetWaits = false ∧
    translateAs (loose []) (loose []).agent 0x40001000 .fetch = .ok 0x40001000 0x807 ∧ (0x40001000 : Nat) % 128 + 4 ≤ 128 ∧
    (loose []).agent.remote 0x40001000 0x807 = false ∧ (timed []).core.gridPoison = [] := by decide +kernel
/-- A step that answers a next state. -/
def goesOn : Host.Outcome State Fault Refusal → Bool
  | .next _ => true
  | _ => false
theorem goesOn_some {o : Host.Outcome State Fault Refusal} (h : goesOn o = true) : ∃ t, o = .next t := by
  cases o with
  | next t => exact ⟨t, rfl⟩
  | _ => cases h
theorem witness_StepKeepsInv : (loose []).Inv ∧ ∃ t, step (loose []) = .next t :=
  ⟨⟨by decide +kernel, fun b h => (by
    have h0 : (loose []).pre = none := by decide +kernel
    rw [h0] at h; cases h), by decide +kernel⟩, goesOn_some (by decide +kernel)⟩

end Sys2Proof.Tests
end

section
/-!
PROOF. Thavy links (00 R3, 18 R398 to R401, 07 R243): what a flit, a nak, a failed and a retrained link change, the hops that a
failed link loses, the hop that a cut link ends its region for, and the flits that a port sends.
-/

namespace Sys2Proof

/-- Reading a map whose values were replaced by a function of key and value: the keys stay, an unlisted key reads the default. -/
theorem SMap.get_mapValues {α : Type} (d : α) (m : SMap α) (g : Nat → α → α) (i : Nat) :
    SMap.get d (m.map fun x => (x.1, g x.1 x.2)) i = if SMap.has m i = true then g i (SMap.get d m i) else d := by
  induction m with
  | nil => rfl
  | cons x m ih =>
    by_cases h : i = x.1
    · simp [SMap.get, SMap.has, h]
    · have hk : (x.1 == i) = false := beq_false_of_ne (Ne.symm h)
      rw [List.map_cons, SMap.get, SMap.get, if_neg h, if_neg h, ih, SMap.has, SMap.has, List.any_cons, hk, Bool.false_or]

/-- A key that a map does not list reads the default. -/
theorem SMap.get_of_has_eq_false {α : Type} (d : α) {m : SMap α} {i : Nat} (h : SMap.has m i = false) : SMap.get d m i = d := by
  have := SMap.get_mapValues d m (fun _ v => v) i
  simpa [h] using this

/-- The value at a key that one entry of a list alone has. -/
theorem SMap.get_append_cons {α : Type} (d : α) {m : SMap α} {i : Nat} (v : α) (m' : SMap α) (h : ∀ x ∈ m, x.1 ≠ i) :
    SMap.get d (m ++ (i, v) :: m') i = v := by
  induction m with
  | nil => simp [SMap.get]
  | cons x m ih =>
    have hx : i ≠ x.1 := fun e => h x List.mem_cons_self e.symm
    simpa [SMap.get, hx] using ih fun y hy => h y (List.mem_cons_of_mem _ hy)

end Sys2Proof

namespace Sys2Proof.Machine

/-! ### Little-endian bytes and the header of a flit (00 R7, 18 R398) -/

@[simp] theorem leBytes_length (n v : Nat) : (leBytes n v).length = n := by
  induction n generalizing v with
  | zero => rfl
  | succ n ih => simp [leBytes, ih]

/-- The n low bytes of a number give back its value modulo 256 ^ n. -/
theorem leNat_leBytes (n v : Nat) : leNat (leBytes n v) = v % 256 ^ n := by
  induction n generalizing v with
  | zero => simp [leBytes, leNat, Nat.mod_one]
  | succ n ih => rw [leBytes, leNat, ih, BitVec.toNat_ofNat, pow_succ' 256 n, Nat.mod_mul]

/-- A field of a flit whose header is a number of 16 bytes. -/
theorem flitField_of_head {f : Flit} {x : Nat} {l : List Byte} (h : f.bytes = leBytes 16 x ++ l) (lo n : Nat) :
    flitField f lo n = x % 2 ^ 128 / 2 ^ lo % 2 ^ n := by
  have : f.bytes.take 16 = leBytes 16 x := by rw [h, List.take_left' (leBytes_length 16 x)]
  rw [flitField, this, leNat_leBytes, show (256 : Nat) ^ 16 = 2 ^ 128 from rfl]

/-! ### Ports -/

theorem State.setPort_port_of_ne (s : State) {p q : Nat} (v : Port) (h : q ≠ p) : (s.setPort p v).port q = s.port q :=
  SMap.get_put_of_ne _ _ _ h

theorem Port.mem_freeSlots (v : Port) (i : Nat) : i ∈ v.freeSlots ↔ i < 64 ∧ ∀ x ∈ v.reserved, i ∉ x.2 := by
  simp [Port.freeSlots]

/-- The slot of an untimed flit (18 R399): one of the free slots by the draw of a free value, and slot 63 where none is free. -/
def Port.drawnSlot (v : Port) (draw : Nat) : Nat := v.freeSlots.getD (draw % max 1 v.freeSlots.length) 63

theorem Port.drawnSlot_mem (v : Port) (draw : Nat) (h : v.freeSlots ≠ []) : v.drawnSlot draw ∈ v.freeSlots := by
  have hpos : 0 < v.freeSlots.length := List.length_pos_iff.2 h
  have hlt : draw % max 1 v.freeSlots.length < v.freeSlots.length := by
    rw [Nat.max_eq_right hpos]; exact Nat.mod_lt _ hpos
  rw [Port.drawnSlot, List.getD_eq_getElem _ _ hlt]
  exact List.getElem_mem hlt

theorem Port.drawnSlot_lt (v : Port) (draw : Nat) : v.drawnSlot draw < 64 := by
  by_cases h : v.freeSlots = []
  · simp [Port.drawnSlot, h]
  · exact ((v.mem_freeSlots _).1 (v.drawnSlot_mem draw h)).1

/-- Where some slot is free, the slot drawn is. -/
theorem Port.drawnSlot_free (v : Port) (draw : Nat) (h : ∃ i < 64, ∀ x ∈ v.reserved, i ∉ x.2) :
    ∀ x ∈ v.reserved, v.drawnSlot draw ∉ x.2 := by
  obtain ⟨i, hi, hfree⟩ := h
  have hne : v.freeSlots ≠ [] := List.ne_nil_of_mem ((v.mem_freeSlots i).2 ⟨hi, hfree⟩)
  exact ((v.mem_freeSlots _).1 (v.drawnSlot_mem draw hne)).2

/-- A port that has failed, or is none of the 16, does nothing (00 R3). -/
theorem Port.down_iff (v : Port) (p : Nat) : (v.failed || decide (Config.thavyPorts ≤ p)) = true ↔ v.failed = true ∨ 16 ≤ p := by
  rw [Bool.or_eq_true, decide_eq_true_eq]; rfl

/-- Nor does one send whose replay buffer is full (18 R398). -/
theorem Port.mute_iff (v : Port) (p : Nat) :
    (v.failed || decide (Config.thavyPorts ≤ p) || decide (2048 ≤ v.replay.length)) = true ↔
      v.failed = true ∨ 16 ≤ p ∨ 2048 ≤ v.replay.length := by
  rw [Bool.or_eq_true, Port.down_iff, decide_eq_true_eq, or_assoc]

/-! ### Sending a flit (18 R398, R399) -/

/-- The header's number of an untimed flit that a port sends: sequence number, acknowledgement, kind and slot. -/
def Port.flitHead (v : Port) (kind slot : Nat) : Nat :=
  v.sendSeq + 2 ^ 12 * ((v.expectSeq + 4095) % 4096) + 2 ^ 24 * kind + 2 ^ 28 * slot

/-- The untimed flit that a port sends: its header, the payload in 232 bytes, and the CRC of both. -/
def Port.flitOf (v : Port) (kind slot : Nat) (payload : List Byte) : Flit :=
  let bytes := leBytes 16 (v.flitHead kind slot) ++ (payload ++ List.replicate (232 - payload.length) 0).take 232
  ⟨bytes, crcBytes bytes 0⟩

theorem Port.flitOf_length (v : Port) (kind slot : Nat) (payload : List Byte) : (v.flitOf kind slot payload).bytes.length = 248 := by
  simp [Port.flitOf]; omega

theorem Port.flitOf_seq (v : Port) (kind slot : Nat) (payload : List Byte) :
    flitSeq (v.flitOf kind slot payload) = v.sendSeq % 4096 := by
  rw [flitSeq, flitField_of_head (f := v.flitOf kind slot payload) rfl, Port.flitHead]; omega

/-- The header's fields of a flit that a port sends, where its numbers fit their fields. -/
theorem Port.flitOf_fields (v : Port) {kind slot : Nat} (payload : List Byte) (hseq : v.sendSeq < 4096) (hkind : kind < 16)
    (hslot : slot < 64) :
    flitField (v.flitOf kind slot payload) 24 4 = kind ∧
    flitField (v.flitOf kind slot payload) 12 12 = (v.expectSeq + 4095) % 4096 ∧
    flitField (v.flitOf kind slot payload) 28 6 = slot := by
  have hf := flitField_of_head (f := v.flitOf kind slot payload) rfl
  rw [hf, hf, hf, Port.flitHead]
  omega

theorem Port.flitOf_payload (v : Port) (kind slot : Nat) {payload : List Byte} (h : payload.length ≤ 232) :
    ((v.flitOf kind slot payload).bytes.drop 16).take payload.length = payload := by
  simp [Port.flitOf, List.drop_left' (leBytes_length 16 _), List.take_take, Nat.min_eq_left h]

/-- Sending an untimed flit from a port that is up and whose replay buffer has room. -/
theorem State.sendFlit_eq (s : State) {p : Nat} (kind : Nat) (payload : List Byte)
    (h : ¬ ((s.port p).failed = true ∨ 16 ≤ p ∨ 2048 ≤ (s.port p).replay.length)) :
    s.sendFlit p kind payload =
      let v := s.port p
      let f := v.flitOf kind (v.drawnSlot (Config.choose s.fresh)) payload
      { s.setPort p { v with sendSeq := (v.sendSeq + 1) % 4096, replay := v.replay ++ [f] } with
        outbox := s.outbox ++ [.flit p f], fresh := s.fresh + 1 } := by
  unfold State.sendFlit
  dsimp only
  rw [if_neg (by rwa [Port.mute_iff])]
  rfl

/-- Every untimed flit leaves as 18 R398 and R399 say. -/
theorem State.sendFlit_flitSent (s : State) (p kind : Nat) (payload : List Byte) :
    FlitSent s (s.sendFlit p kind payload) p kind payload := by
  unfold FlitSent
  dsimp only
  split
  · next h => unfold State.sendFlit; exact if_pos ((Port.mute_iff _ _).2 h)
  · next h =>
    have hslot := (s.port p).drawnSlot_lt (Config.choose s.fresh)
    exact ⟨_, _, s.sendFlit_eq kind payload h, Port.flitOf_length .., rfl, Port.flitOf_seq .., hslot,
      Port.drawnSlot_free _ _, fun hseq hkind => Port.flitOf_fields _ payload hseq hkind hslot, Port.flitOf_payload _ _ _⟩

/-! ### Receiving a flit (18 R398) -/

/-- A port after it has taken a flit: the next number is expected, and what the flit acknowledges leaves the replay buffer. -/
def Port.took (v : Port) (f : Flit) : Port :=
  let keep := v.replay.filter fun g => decide (2048 ≤ (flitField f 12 12 + 4096 - flitSeq g) % 4096)
  { v with expectSeq := (v.expectSeq + 1) % 4096, replay := keep, resends := if keep.length < v.replay.length then 0 else v.resends }

theorem Port.took_spec {v w : Port} {f : Flit} (h : w = v.took f) :
    w = { v with expectSeq := (v.expectSeq + 1) % 4096, replay := w.replay, resends := w.resends } ∧
    (∀ g, g ∈ w.replay ↔ g ∈ v.replay ∧ 2048 ≤ (flitField f 12 12 + 4096 - flitSeq g) % 4096) ∧
    w.resends = if w.replay.length < v.replay.length then 0 else v.resends := by
  subst h
  exact ⟨rfl, fun g => by simp [Port.took], rfl⟩

/-- What a flit brings to the inbox: an event that flits of its kind may carry. -/
def flitInbox (f : Flit) (ptc : Nat) : List (Nat × Instr) :=
  if flitField f 24 4 = 4 ∨ flitField f 24 4 = 5 then []
  else match flitEvent (flitField f 24 4) (f.bytes.drop 16) with
    | some i => if linkEvent (flitField f 24 4) i = true then [(ptc, i)] else []
    | none => []

/-- What a flit runs at once: a counter flit's arrival, or a nak. -/
def flitTurns (cur : Focus) (p : Nat) (f : Flit) : List (Focus × Turn) :=
  if flitField f 24 4 = 4 then [(cur, .event (.counterFlitReceive p (leNat ((f.bytes.drop 16).take 8))))]
  else if flitField f 24 4 = 5 then [(cur, .event (.nak p (leNat ((f.bytes.drop 16).take 2) % 4096)))] else []

theorem execFlitReceive_of_down {s : State} {p : Nat} (f : Flit) (h : (s.port p).failed = true ∨ 16 ≤ p) :
    execFlitReceive p f s = .next s := by
  unfold execFlitReceive
  dsimp only
  rw [if_pos ((Port.down_iff _ _).2 h)]

theorem execFlitReceive_of_refused {s : State} {p : Nat} {f : Flit} (h : ¬ ((s.port p).failed = true ∨ 16 ≤ p))
    (hf : ¬ (crcBytes f.bytes 0 = f.crc ∧ flitSeq f = (s.port p).expectSeq)) :
    execFlitReceive p f s = .next (s.emit (.nak p (s.port p).expectSeq)) := by
  unfold execFlitReceive
  dsimp only
  rw [if_neg (by rwa [Port.down_iff]), if_neg (by simpa using hf)]

theorem execFlitReceive_of_taken {s : State} {p : Nat} {f : Flit} (h : ¬ ((s.port p).failed = true ∨ 16 ≤ p))
    (hf : crcBytes f.bytes 0 = f.crc ∧ flitSeq f = (s.port p).expectSeq) :
    execFlitReceive p f s = .next { s.setPort p ((s.port p).took f) with
      turn := flitTurns s.cur p f ++ s.turn, inbox := s.inbox ++ flitInbox f s.ptc } := by
  unfold execFlitReceive
  dsimp only
  rw [if_neg (by rwa [Port.down_iff]), if_pos (by simpa using hf)]
  by_cases h4 : flitField f 24 4 = 4
  · simp [flitTurns, flitInbox, h4, Port.took]
  · by_cases h5 : flitField f 24 4 = 5
    · simp [flitTurns, flitInbox, h5, Port.took]
    · cases he : flitEvent (flitField f 24 4) (f.bytes.drop 16) with
      | none => simp [flitTurns, flitInbox, h4, h5, he, Port.took, State.setPort]
      | some i =>
        cases hl : linkEvent (flitField f 24 4) i <;>
          simp [flitTurns, flitInbox, h4, h5, he, hl, Port.took, State.setPort, Option.filter]

/-! ### Naks (18 R398) -/

/-- Emitting a list of outputs appends them. -/
theorem State.foldl_emit (s : State) {α : Type} (g : α → Output) (l : List α) :
    l.foldl (fun s x => s.emit (g x)) s = { s with outbox := s.outbox ++ l.map g } := by
  induction l generalizing s with
  | nil => simp
  | cons x l ih => rw [List.foldl_cons, ih]; simp [State.emit]

theorem execNak_of_down {s : State} {p : Nat} (n : Nat) (h : (s.port p).failed = true ∨ 16 ≤ p) : execNak p n s = .next s := by
  unfold execNak
  dsimp only
  rw [if_pos ((Port.down_iff _ _).2 h)]

theorem execNak_of_spent {s : State} {p : Nat} (n : Nat) (h : ¬ ((s.port p).failed = true ∨ 16 ≤ p)) (hr : 16 ≤ (s.port p).resends) :
    execNak p n s = .next { s with turn := (s.cur, .event (.linkFail p)) :: s.turn } := by
  unfold execNak
  dsimp only
  rw [if_neg (by rwa [Port.down_iff]), if_pos hr]

theorem execNak_of_resends {s : State} {p : Nat} (n : Nat) (h : ¬ ((s.port p).failed = true ∨ 16 ≤ p))
    (hr : ¬ 16 ≤ (s.port p).resends) :
    execNak p n s = .next { s.setPort p { s.port p with resends := (s.port p).resends + 1 } with
      outbox := s.outbox ++ ((s.port p).replay.filter fun g => decide ((flitSeq g + 4096 - n) % 4096 < 2048)).map (.flit p) } := by
  unfold execNak
  dsimp only
  rw [if_neg (by rwa [Port.down_iff]), if_neg hr, State.foldl_emit]
  rfl

/-! ### Hops between packages (18 R398, R400, R403) -/

/-- The task in focus and the contexts alone say which member hosts a core. -/
theorem State.packageOf_congr {s t : State} (hu : t.task = s.task) (hc : t.contexts = s.contexts) : t.packageOf = s.packageOf := by
  funext k; simp only [State.packageOf, State.ctx, hu, hc]

theorem State.linkTo_congr {s t : State} (hu : t.task = s.task) (hc : t.contexts = s.contexts) : t.linkTo = s.linkTo := by
  funext k; simp only [State.linkTo, State.ctx, hu, hc, State.packageOf_congr hu hc]

theorem State.farHop_congr {s t : State} (hu : t.task = s.task) (hc : t.contexts = s.contexts) : t.farHop = s.farHop := by
  funext q; simp only [State.farHop, State.region, hu, State.linkTo_congr hu hc]

theorem State.usesPort_congr {s t : State} (hu : t.task = s.task) (hc : t.contexts = s.contexts) : t.usesPort = s.usesPort := by
  unfold State.usesPort State.region State.ctx; rw [hu, hc]

/-- An item that is not a hop crosses no link. -/
theorem State.act_of_farHop (s : State) {x : Pend} {h : Nat × Nat × Nat} (hx : s.farHop x = some h) :
    ∃ uid hop b by', x.act = .event (.hopPerform uid hop b by') := by
  unfold State.farHop at hx
  split at hx
  · next h => exact ⟨_, _, _, _, h⟩
  · cases hx

/-- Nothing is sent to hop 0, where a chain begins. -/
theorem State.farHop_zero (s : State) {x : Pend} {uid b : Nat} {by' : Partial} (hact : x.act = .event (.hopPerform uid 0 b by')) :
    s.farHop x = none := by
  unfold State.farHop
  rw [hact]
  dsimp only
  cases s.region.chain uid <;> rfl

/-- A transfer from hop k to hop k + 1 crosses a link where one of the two stands here and the other does not (18 R403). -/
theorem State.farHop_succ (s : State) {x : Pend} {uid k b : Nat} {by' : Partial}
    (hact : x.act = .event (.hopPerform uid (k + 1) b by')) :
    s.farHop x = (s.region.chain uid).bind fun c => (c.hop k).bind fun h => (c.hop (k + 1)).bind fun h' =>
      if decide (farCore ≤ h.core) != decide (farCore ≤ h'.core) then
        (s.linkTo (if farCore ≤ h.core then h.core else h'.core)).map fun l => (uid, k, l.port)
      else none := by
  unfold State.farHop
  rw [hact]
  dsimp only
  cases s.region.chain uid with
  | none => rfl
  | some c =>
    simp only [Nat.succ_ne_zero, if_false, Nat.add_sub_cancel, Option.bind_some]
    cases c.hop k with
    | none => rfl
    | some h => cases c.hop (k + 1) <;> rfl

/-- The two directions in which a transfer between two cores crosses a link. -/
theorem State.crossing_iff (s : State) (a b uid k uid' k' q : Nat) :
    (if decide (farCore ≤ a) != decide (farCore ≤ b) then
        (s.linkTo (if farCore ≤ a then a else b)).map fun l => (uid, k, l.port)
      else none) = some (uid', k', q) ↔
    (uid = uid' ∧ k = k') ∧
      ((farCore ≤ a ∧ b < farCore ∧ (s.linkTo a).map (·.port) = some q) ∨
       (a < farCore ∧ farCore ≤ b ∧ (s.linkTo b).map (·.port) = some q)) := by
  have hport : ∀ o : Option JoinLink, o.map (fun l => (uid, k, l.port)) = some (uid', k', q) ↔
      (uid = uid' ∧ k = k') ∧ o.map (·.port) = some q := fun o => by cases o <;> simp [and_assoc]
  by_cases ha : farCore ≤ a
  · by_cases hb : farCore ≤ b
    · simp [ha, hb]
    · have hb' : b < farCore := not_le.1 hb
      simp [ha, hb', hport]
  · have ha' : a < farCore := not_le.1 ha
    by_cases hb : farCore ≤ b
    · simp [ha, ha', hb, hport]
    · simp [ha, hb]

/-- The hops that cross a link (18 R403). -/
theorem State.farHop_eq_some_iff (s : State) (x : Pend) (uid k q : Nat) :
    s.farHop x = some (uid, k, q) ↔ ∃ b by' c h h', x.act = .event (.hopPerform uid (k + 1) b by') ∧
      s.region.chain uid = some c ∧ c.hop k = some h ∧ c.hop (k + 1) = some h' ∧
      ((farCore ≤ h.core ∧ h'.core < farCore ∧ (s.linkTo h.core).map (·.port) = some q) ∨
       (h.core < farCore ∧ farCore ≤ h'.core ∧ (s.linkTo h'.core).map (·.port) = some q)) := by
  constructor
  · intro hx
    obtain ⟨uid', hop, b, by', hact⟩ := s.act_of_farHop hx
    cases hop with
    | zero => rw [s.farHop_zero hact] at hx; cases hx
    | succ n =>
      simp only [s.farHop_succ hact, Option.bind_eq_some_iff, State.crossing_iff] at hx
      obtain ⟨c, hc, h, hk, h', hk', ⟨rfl, rfl⟩, hside⟩ := hx
      exact ⟨b, by', c, h, h', hact, hc, hk, hk', hside⟩
  · rintro ⟨b, by', c, h, h', hact, hc, hk, hk', hside⟩
    rw [s.farHop_succ hact, hc, Option.bind_some, hk, Option.bind_some, hk', Option.bind_some]
    exact (s.crossing_iff ..).2 ⟨⟨rfl, rfl⟩, hside⟩

/-- The items in transfer over a port's link: those of the agenda that have not landed and cross it. -/
theorem State.mem_inTransfer (s : State) (p : Nat) (x : Pend × Nat × Nat) :
    x ∈ s.inTransfer p ↔ x.1 ∈ s.region.agenda ∧ x.1.landed = false ∧ s.farHop x.1 = some (x.2.1, x.2.2, p) := by
  obtain ⟨q, uid, k⟩ := x
  unfold State.inTransfer
  rw [List.mem_filterMap]
  constructor
  · rintro ⟨q', hq, hx⟩
    split at hx
    · cases hx
    · next hl =>
      obtain ⟨⟨uid', k', p'⟩, hfar, hx⟩ := Option.bind_eq_some_iff.1 hx
      split at hx
      · next hp =>
        cases hx
        exact ⟨hq, by simpa using hl, by rw [hfar, ← hp]⟩
      · cases hx
  · rintro ⟨hq, hl, hfar⟩
    exact ⟨q, hq, by simp [show q.landed = false from hl, show s.farHop q = _ from hfar]⟩

theorem State.cutHop_eq_some (s : State) {x : Pend} (h : s.cutHop = some x) :
    x ∈ s.region.agenda ∧ x.due = s.rt ∧ ∃ uid k q, s.farHop x = some (uid, k, q) ∧ q ∈ s.region.cut := by
  have hx := List.find?_some h
  refine ⟨List.mem_of_find?_eq_some h, ?_⟩
  simpa [Option.any_eq_true] using hx

theorem State.cutHop_eq_none (s : State) (h : s.cutHop = none) :
    ∀ x ∈ s.region.agenda, x.due = s.rt → ∀ uid k q, s.farHop x = some (uid, k, q) → q ∉ s.region.cut := by
  intro x hx hdue uid k q hq
  have := List.find?_eq_none.1 h x hx
  simpa [hdue, hq] using this

/-- A cycle with a hop over a link trained anew ends the task with the slide timeout, on the hop's core (18 R400). -/
theorem State.cycleOpen_of_cutHop {s : State} {x : Pend} (h : s.cutHop = some x)
    (hb : s.region.budgetAt.any (fun f => decide (f ≤ s.region.rt)) = false) :
    FaultsTask s (phaseCycleOpen s) x.by'
      ⟨0x800, x.pc, BitVec.ofNat 64 s.rt, some s.rt, x.by', true, false, (s.coreAt x.by').handler⟩ := by
  unfold phaseCycleOpen
  dsimp only
  rw [if_neg (Bool.eq_false_iff.1 hb), h]
  rfl
/-! ### A failed link (18 R398, 07 R243) -/

/-- The state with a task in focus. -/
def State.focusOn (s : State) (i : Nat) : State := { s with cur := { task := i } }

/-- A task's part in the failure of a port's link: its hops in transfer there fail, if its region uses the port. -/
def State.failLinkOf (p : Nat) (s : State) (i : Nat) : State :=
  if (s.focusOn i).usesPort p then s.failHops i ((s.focusOn i).inTransfer p) else s

/-- The freezes of chains that a task's part in the failure runs next. -/
def State.linkFreezes (p : Nat) (s : State) (i : Nat) : List (Focus × Turn) :=
  if (s.focusOn i).usesPort p then
    ((s.focusOn i).inTransfer p).map fun x => ({ task := i }, .event (.chainFreeze x.2.1 x.2.2 2))
  else []

/-- A link fails for every task in turn. -/
theorem execLinkFail_eq {p : Nat} (s : State) (hp : p < 16) :
    execLinkFail p s = .next (s.tasks.foldl (fun s x => s.failLinkOf p x.1) (s.setPort p { s.port p with failed := true })) :=
  congrArg Host.Outcome.next (if_neg (Nat.not_le.2 hp))

/-- A landing changes the freeze of a region that has been replaced at most. -/
theorem State.landed_setRegion (s : State) (r : Region) (decided : Bool) :
    ∃ f, (s.setRegion r).landed decided = s.setRegion { r with freeze := f } := by
  unfold State.landed
  rw [State.setRegion_region]
  split
  · next f _ =>
    cases decided with
    | false => exact ⟨r.freeze, rfl⟩
    | true => exact ⟨some { f with lastLand := s.ptc }, by simp [State.setRegion, State.setTask, State.task]⟩
  · exact ⟨r.freeze, rfl⟩

/-- Failing hops takes them off the agenda of the task's region and freezes their chains. -/
theorem State.failHops_eq (s : State) (i : Nat) (l : List (Pend × Nat × Nat)) :
    ∃ r : Region, r.agenda = (s.taskAt i).region.agenda.filter (fun q => !l.any fun x => x.1.seq == q.seq) ∧
      s.failHops i l = { s with
        tasks := SMap.put s.tasks i { s.taskAt i with region := r }
        turn := (l.map fun x => (({ task := i } : Focus), Turn.event (.chainFreeze x.2.1 x.2.2 2))) ++ s.turn } := by
  let r : Region := { (s.taskAt i).region with
    agenda := (s.taskAt i).region.agenda.filter fun q => !l.any fun x => x.1.seq == q.seq }
  let decided := l.any fun x => decide (x.1.due ≤ (s.focusOn i).rt)
  have h : s.failHops i l = { ((s.focusOn i).setRegion r).landed decided with
      cur := s.cur
      turn := (l.map fun x => (({ task := i } : Focus), Turn.event (.chainFreeze x.2.1 x.2.2 2))) ++ s.turn } := rfl
  obtain ⟨f, hf⟩ := (s.focusOn i).landed_setRegion r decided
  exact ⟨{ r with freeze := f }, rfl, by rw [h, hf]; rfl⟩

/-- Only the tasks change between two states and more turns come first, all of them freezes of chains. -/
def OnlyFreezes (s t : State) (l : List (Focus × Turn)) : Prop :=
  t = { s with tasks := t.tasks, turn := l ++ s.turn } ∧ ∀ x ∈ l, ∃ i uid k, x = ({ task := i }, .event (.chainFreeze uid k 2))

theorem OnlyFreezes.refl (s : State) : OnlyFreezes s s [] := ⟨rfl, by simp⟩

theorem OnlyFreezes.trans {s t u : State} {l m : List (Focus × Turn)} (h : OnlyFreezes s t l) (h' : OnlyFreezes t u m) :
    OnlyFreezes s u (m ++ l) := by
  obtain ⟨ht, hl⟩ := h
  obtain ⟨hu, hm⟩ := h'
  refine ⟨?_, fun x hx => (List.mem_append.1 hx).elim (hm x) (hl x)⟩
  rw [hu, ht, List.append_assoc]

theorem OnlyFreezes.contexts {s t : State} {l : List (Focus × Turn)} (h : OnlyFreezes s t l) : t.contexts = s.contexts := by
  rw [h.1]

theorem OnlyFreezes.port {s t : State} {l : List (Focus × Turn)} (h : OnlyFreezes s t l) : t.port = s.port := by
  rw [h.1]; rfl

theorem OnlyFreezes.turn {s t : State} {l : List (Focus × Turn)} (h : OnlyFreezes s t l) : t.turn = l ++ s.turn := by
  rw [h.1]

/-- The turns that come first are those between the two states. -/
theorem OnlyFreezes.unique {s t : State} {l m : List (Focus × Turn)} (h : OnlyFreezes s t l) (h' : OnlyFreezes s t m) : l = m :=
  List.append_cancel_right (h.turn.symm.trans h'.turn)

theorem State.failLinkOf_onlyFreezes (p : Nat) (s : State) (i : Nat) :
    OnlyFreezes s (s.failLinkOf p i) (s.linkFreezes p i) := by
  unfold State.failLinkOf State.linkFreezes
  split
  · obtain ⟨r, -, hr⟩ := s.failHops_eq i ((s.focusOn i).inTransfer p)
    refine ⟨by rw [hr], fun x hx => ?_⟩
    obtain ⟨y, -, rfl⟩ := List.mem_map.1 hx
    exact ⟨i, _, _, rfl⟩
  · exact .refl s

/-- No other task is touched. -/
theorem State.failLinkOf_taskAt_of_ne (p : Nat) (s : State) {i j : Nat} (h : j ≠ i) : (s.failLinkOf p i).taskAt j = s.taskAt j := by
  unfold State.failLinkOf
  split
  · obtain ⟨r, -, hr⟩ := s.failHops_eq i ((s.focusOn i).inTransfer p)
    rw [hr]; exact SMap.get_put_of_ne _ _ _ h
  · rfl

theorem State.failLinkOf_taskAt_of_not_usesPort {p : Nat} {s : State} {i : Nat} (h : (s.focusOn i).usesPort p = false) :
    (s.failLinkOf p i).taskAt i = s.taskAt i := by
  rw [State.failLinkOf, h]; rfl

/-- The agenda of a region that uses the port keeps what is not in transfer there. -/
theorem State.failLinkOf_agenda {p : Nat} {s : State} {i : Nat} (h : (s.focusOn i).usesPort p = true) :
    ((s.failLinkOf p i).taskAt i).region.agenda =
      (s.taskAt i).region.agenda.filter fun q => !((s.focusOn i).inTransfer p).any fun x => x.1.seq == q.seq := by
  obtain ⟨r, hr, hs⟩ := s.failHops_eq i ((s.focusOn i).inTransfer p)
  rw [State.failLinkOf, if_pos h, hs, ← hr]
  simp [State.taskAt]

/-- Over a list of tasks the failure only freezes chains. -/
theorem foldl_failLinkOf_onlyFreezes (p : Nat) (l : SMap Task) (s : State) :
    ∃ m, OnlyFreezes s (l.foldl (fun s x => s.failLinkOf p x.1) s) m := by
  induction l generalizing s with
  | nil => exact ⟨[], .refl s⟩
  | cons x l ih =>
    obtain ⟨m, hm⟩ := ih (s.failLinkOf p x.1)
    exact ⟨_, (s.failLinkOf_onlyFreezes p x.1).trans hm⟩

/-- A task that a list does not name is left. -/
theorem foldl_failLinkOf_taskAt (p : Nat) {l : SMap Task} {i : Nat} (s : State) (h : ∀ x ∈ l, x.1 ≠ i) :
    (l.foldl (fun s x => s.failLinkOf p x.1) s).taskAt i = s.taskAt i := by
  induction l generalizing s with
  | nil => rfl
  | cons x l ih =>
    rw [List.foldl_cons, ih _ fun y hy => h y (List.mem_cons_of_mem _ hy),
      s.failLinkOf_taskAt_of_ne p (h x List.mem_cons_self).symm]

/-- What the failure of a port's link does to one task, given the freezes that run next: a region that uses the port loses the hops in
transfer there and nothing else, and their chains freeze; any other task is left (07 R243). -/
def LosesHops (p i : Nat) (f t : State) (u : Task) (l : List (Focus × Turn)) : Prop :=
  if f.usesPort p = true then
    (∀ q ∈ u.region.agenda, q.landed = false → ∀ uid k, f.farHop q = some (uid, k, p) →
      ({ task := i }, .event (.chainFreeze uid k 2)) ∈ l ∧ ∀ x ∈ (t.taskAt i).region.agenda, x.seq ≠ q.seq) ∧
    ∀ x ∈ u.region.agenda,
      (∀ q ∈ u.region.agenda, q.landed = false → (∃ uid k, f.farHop q = some (uid, k, p)) → q.seq ≠ x.seq) →
      x ∈ (t.taskAt i).region.agenda
  else t.taskAt i = u

theorem State.failLinkOf_losesHops (p : Nat) (s : State) (i : Nat) :
    LosesHops p i (s.focusOn i) (s.failLinkOf p i) (s.taskAt i) (s.linkFreezes p i) := by
  unfold LosesHops
  split
  · next h =>
    rw [State.failLinkOf_agenda h, State.linkFreezes, if_pos h]
    refine ⟨fun q hq hl uid k hfar => ?_, fun x hx hkeep => ?_⟩
    · have hmem : (q, uid, k) ∈ (s.focusOn i).inTransfer p := ((s.focusOn i).mem_inTransfer p _).2 ⟨hq, hl, hfar⟩
      refine ⟨List.mem_map_of_mem hmem, fun x hx hseq => ?_⟩
      have := (List.mem_filter.1 hx).2
      simp only [Bool.not_eq_true', List.any_eq_false, beq_iff_eq] at this
      exact this _ hmem hseq.symm
    · refine List.mem_filter.2 ⟨hx, ?_⟩
      simp only [Bool.not_eq_true', List.any_eq_false, beq_iff_eq]
      intro y hy
      obtain ⟨hq, hl, hfar⟩ := ((s.focusOn i).mem_inTransfer p y).1 hy
      exact hkeep y.1 hq hl ⟨_, _, hfar⟩
  · next h => exact State.failLinkOf_taskAt_of_not_usesPort (Bool.eq_false_iff.2 h)

/-- What a task loses does not hang on the tasks before and after it. -/
theorem losesHops_of_others {p i : Nat} {s s₁ t : State} {l₁ l₂ : List (Focus × Turn)} (h₁ : OnlyFreezes s s₁ l₁)
    (hu₁ : s₁.taskAt i = s.taskAt i) (h₂ : OnlyFreezes (s₁.failLinkOf p i) t l₂)
    (hu₂ : t.taskAt i = (s₁.failLinkOf p i).taskAt i) :
    LosesHops p i (s.focusOn i) t (s.taskAt i) (l₂ ++ (s₁.linkFreezes p i ++ l₁)) ∧
      OnlyFreezes s t (l₂ ++ (s₁.linkFreezes p i ++ l₁)) := by
  refine ⟨?_, (h₁.trans (s₁.failLinkOf_onlyFreezes p i)).trans h₂⟩
  have hfocus : (s₁.focusOn i).task = (s.focusOn i).task := hu₁
  have hloses := s₁.failLinkOf_losesHops p i
  unfold LosesHops at hloses ⊢
  rw [State.usesPort_congr hfocus h₁.contexts, State.farHop_congr hfocus h₁.contexts, hu₁] at hloses
  rw [hu₂]
  split at hloses
  · next huse =>
    obtain ⟨hlose, hkeep⟩ := hloses
    rw [if_pos huse]
    refine ⟨fun q hq hland uid k hfar => ?_, hkeep⟩
    obtain ⟨hfreeze, hgone⟩ := hlose q hq hland uid k hfar
    exact ⟨List.mem_append_right _ (List.mem_append_left _ hfreeze), hgone⟩
  · next huse => rw [if_neg huse]; exact hloses

/-- The failure runs over a list of tasks, and one that the list names once loses its hops. -/
theorem foldl_failLinkOf_losesHops (p i : Nat) (u : Task) {pre post : SMap Task} (s : State)
    (h : ∀ x ∈ pre ++ post, x.1 ≠ i) {l : List (Focus × Turn)}
    (hl : OnlyFreezes s ((pre ++ (i, u) :: post).foldl (fun s x => s.failLinkOf p x.1) s) l) :
    LosesHops p i (s.focusOn i) ((pre ++ (i, u) :: post).foldl (fun s x => s.failLinkOf p x.1) s) (s.taskAt i) l := by
  rw [List.foldl_append, List.foldl_cons] at hl ⊢
  obtain ⟨l₁, h₁⟩ := foldl_failLinkOf_onlyFreezes p pre s
  have hu₁ := foldl_failLinkOf_taskAt p s fun x hx => h x (List.mem_append_left _ hx)
  obtain ⟨l₂, h₂⟩ := foldl_failLinkOf_onlyFreezes p post ((pre.foldl (fun s x => s.failLinkOf p x.1) s).failLinkOf p i)
  have hu₂ := foldl_failLinkOf_taskAt p ((pre.foldl (fun s x => s.failLinkOf p x.1) s).failLinkOf p i) fun x hx =>
    h x (List.mem_append_right _ hx)
  obtain ⟨hloses, hfreezes⟩ := losesHops_of_others h₁ hu₁ h₂ hu₂
  rwa [hl.unique hfreezes]

/-! ### Training a link anew (18 R400) -/

/-- A region that is under way is one of a listed task: an unlisted one reads as inactive. -/
theorem State.has_of_usesPort {s : State} {p i : Nat} (h : (s.focusOn i).usesPort p = true) : SMap.has s.tasks i = true := by
  by_contra hn
  have ht : (s.focusOn i).task = {} := SMap.get_of_has_eq_false (m := s.tasks) (i := i) ({} : Task) (Bool.eq_false_iff.2 hn)
  unfold State.usesPort State.region at h
  rw [ht] at h
  cases h

/-- A region uses a port where it is under way, joined, and its context's join names the port. -/
theorem State.usesPort_iff (s : State) (p i : Nat) :
    (s.focusOn i).usesPort p = true ↔ (s.taskAt i).region.active = true ∧ (s.taskAt i).region.total ≠ 0 ∧
      ((s.ctx (s.taskAt i).ctx).join.any fun j => j.ports.contains p) = true := by
  have h : (s.focusOn i).usesPort p = ((s.taskAt i).region.active && decide ((s.taskAt i).region.total ≠ 0) &&
      (s.ctx (s.taskAt i).ctx).join.any fun j => j.ports.contains p) := by
    change (_ && _ && match (s.ctx (s.taskAt i).ctx).join with | some j => j.ports.contains p | none => false) = _
    cases (s.ctx (s.taskAt i).ctx).join <;> rfl
  rw [h, Bool.and_eq_true, Bool.and_eq_true, decide_eq_true_eq, and_assoc]

/-- A task after a port's link has been trained anew: its region is marked if it uses the port. -/
def State.retrainedTask (p : Nat) (s : State) (i : Nat) (u : Task) : Task :=
  if (s.focusOn i).usesPort p then { u with region := { u.region with cut := p :: u.region.cut } } else u

/-- A latency that no link declares, or a port that is none of the 16 (00 R3, 18 R400). -/
theorem retrain_refused_iff (p n : Nat) :
    (decide (n = 0) || decide (4095 < n) || decide (Config.thavyPorts ≤ p)) = true ↔ n = 0 ∨ 4095 < n ∨ 16 ≤ p := by
  simp only [Bool.or_eq_true, decide_eq_true_eq, or_assoc]; rfl

theorem execLinkRetrain_of_refused {p n : Nat} (s : State) (h : n = 0 ∨ 4095 < n ∨ 16 ≤ p) : execLinkRetrain p n s = .next s := by
  unfold execLinkRetrain
  dsimp only
  rw [if_pos ((retrain_refused_iff p n).2 h)]

theorem execLinkRetrain_of_trained {p n : Nat} (s : State) (h : ¬ (n = 0 ∨ 4095 < n ∨ 16 ≤ p)) :
    execLinkRetrain p n s = .next { s.setPort p
        { die := (s.port p).die, latency := n, slew := (s.port p).slew, peer := Config.freeWord s.fresh } with
      fresh := s.fresh + 1, tasks := s.tasks.map fun x => (x.1, s.retrainedTask p x.1 x.2) } := by
  unfold execLinkRetrain
  dsimp only
  rw [if_neg (by rwa [retrain_refused_iff])]
  rfl

/-- Of a port trained anew the die and the slew stay, the latency is the one declared, and who stands at the other end is found. -/
theorem Port.eq_of_retrained {v w : Port} {n : Nat} {peer : Word} (h : w = { die := v.die, latency := n, slew := v.slew, peer := peer }) :
    w = { die := v.die, latency := n, slew := v.slew, peer := w.peer } := by
  subst h; rfl

theorem State.retrainedTask_taskAt (p : Nat) (s : State) (i : Nat) :
    SMap.get {} (s.tasks.map fun x => (x.1, s.retrainedTask p x.1 x.2)) i = s.retrainedTask p i (s.taskAt i) := by
  rw [SMap.get_mapValues]
  split
  · rfl
  · next h =>
    have hn : (s.focusOn i).usesPort p ≠ true := fun hu => h (State.has_of_usesPort hu)
    rw [State.retrainedTask, if_neg hn, State.taskAt, SMap.get_of_has_eq_false {} (Bool.eq_false_iff.2 h)]

/-! ### Counter flits (18 R401) -/

/-- A counter flit says whether its port is aligned, and the upstream port's sets the slew. -/
theorem execCounterFlitReceive_eq (p n : Nat) (s : State) :
    execCounterFlitReceive p n s = .next (
      let v := s.port p
      let d : Int := n + v.latency - s.ptc
      if 16 ≤ p then s else s.setPort p { v with
        aligned := decide (-1 ≤ d ∧ d ≤ 1), slew := if s.upstream = some p ∧ -2 ^ 27 ≤ d ∧ d ≤ 2 ^ 27 then d else 0 }) := by
  have haligned (d : Int) : d.natAbs ≤ 1 ↔ -1 ≤ d ∧ d ≤ 1 := by omega
  have hslew (d : Int) : d.natAbs ≤ 2 ^ 27 ↔ -2 ^ 27 ≤ d ∧ d ≤ 2 ^ 27 := by omega
  simp only [execCounterFlitReceive, haligned, hslew, Bool.and_eq_true, decide_eq_true_eq]
  rfl

/-! ### The obligation -/

/-- Settles O53, with one lemma above for each event of a link; the failure of a link goes by induction over the tasks, each of which
loses its own hops in transfer and touches no other task. -/
theorem links : Obligations.Links := by
  unfold Obligations.Links
  rintro s p _ rfl
  refine ⟨fun f => ?flit, fun n => ?nak, fun hp => congrArg Host.Outcome.next (if_pos hp), fun hp => ?fail, fun n => ?retrain,
    fun x hx hb => s.cycleOpen_of_cutHop hx hb, ?cut, s.farHop_eq_some_iff,
    ⟨_, rfl, s.sendFlit_flitSent p 4 _⟩, fun n => ⟨_, execCounterFlitReceive_eq p n s, rfl⟩⟩
  case flit =>
    by_cases hd : (s.port p).failed = true ∨ 16 ≤ p
    · exact ⟨s, execFlitReceive_of_down f hd, by rw [if_pos hd]⟩
    by_cases hf : crcBytes f.bytes 0 = f.crc ∧ flitSeq f = (s.port p).expectSeq
    · refine ⟨_, execFlitReceive_of_taken hd hf, ?_⟩
      rw [if_neg hd, if_pos hf]
      obtain ⟨hport, hreplay, hresends⟩ := Port.took_spec (s.setPort_port p ((s.port p).took f))
      exact ⟨rfl, fun q hq => s.setPort_port_of_ne _ hq, hport, hreplay, hresends, rfl, rfl⟩
    · exact ⟨_, execFlitReceive_of_refused hd hf, by rw [if_neg hd, if_neg hf]; rfl⟩
  case nak =>
    by_cases hd : (s.port p).failed = true ∨ 16 ≤ p
    · exact ⟨s, execNak_of_down n hd, by rw [if_pos hd]⟩
    by_cases hr : 16 ≤ (s.port p).resends
    · exact ⟨_, execNak_of_spent n hd hr, by rw [if_neg hd, if_pos hr]⟩
    · exact ⟨_, execNak_of_resends n hd hr, by rw [if_neg hd, if_neg hr]⟩
  case fail =>
    obtain ⟨l, hl⟩ := foldl_failLinkOf_onlyFreezes p s.tasks (s.setPort p { s.port p with failed := true })
    have hport := hl.port
    refine ⟨_, execLinkFail_eq s hp, ?_, ?_, l, ?_, hl.2, fun i u pre post htasks huniq => ?_⟩
    · rw [hport, State.setPort_port]
    · intro q hq
      rw [hport, s.setPort_port_of_ne _ hq]
    · rw [hl.1]; rfl
    · have hu : s.taskAt i = u := by
        rw [State.taskAt, htasks, SMap.get_append_cons _ _ _ fun x hx => huniq x (List.mem_append_left _ hx)]
      subst hu
      have h := foldl_failLinkOf_losesHops p i (s.taskAt i) (s.setPort p { s.port p with failed := true }) huniq (htasks ▸ hl)
      rw [← htasks] at h
      exact h
  case retrain =>
    by_cases hn : n = 0 ∨ 4095 < n ∨ 16 ≤ p
    · exact ⟨s, execLinkRetrain_of_refused s hn, by rw [if_pos hn]⟩
    refine ⟨_, execLinkRetrain_of_trained s hn, ?_⟩
    rw [if_neg hn]
    refine ⟨rfl, ?_, fun q hq => s.setPort_port_of_ne _ hq, fun i => ?_⟩
    · exact Port.eq_of_retrained (s.setPort_port p _)
    · exact (s.retrainedTask_taskAt p i).trans (if_congr (s.usesPort_iff p i) rfl rfl)
  case cut =>
    split
    · next x hx => exact s.cutHop_eq_some hx
    · next hx => exact s.cutHop_eq_none hx

end Sys2Proof.Machine
end

section
/-!
PROOF. Number formats and X64 accumulation (01 R15 to R17, R29, R32): a finite pattern is a sign bit and a magnitude that its exact
value determines, so no rounding moves it; a product on the grid of an X64 element enters it with its exact multiple of the anchor.
-/

namespace Sys2Proof.Machine

/-! ### Rounding a value that needs none (01 R29) -/

theorem roundAt_of_le (rtz : Bool) (m : Nat) {e s : Int} (h : s ≤ e) : roundAt rtz m e s = m * 2 ^ (e - s).toNat :=
  if_pos h

@[simp] theorem roundAt_self (rtz : Bool) (m : Nat) (e : Int) : roundAt rtz m e e = m := by
  simp [roundAt_of_le]

theorem bitLen_le_of_lt_two_pow {m k : Nat} (h : m < 2 ^ k) : bitLen m ≤ k := by
  by_cases hm : m = 0
  · simp [bitLen, hm]
  · rw [bitLen, if_neg hm]
    exact (Nat.log2_lt hm).2 h

theorem bitLen_add_two_pow {m k : Nat} (h : m < 2 ^ k) : bitLen (m + 2 ^ k) = k + 1 := by
  have hlog : (m + 2 ^ k).log2 = k := (Nat.log2_eq_iff (by omega)).2 ⟨by omega, by omega⟩
  rw [bitLen, if_neg (by omega), hlog]

namespace Fmt

variable (f : Fmt) (rtz sat neg : Bool)

/-! ### Encoding a value that its format holds -/

/-- A significand whose rounding step is its own exponent loses nothing: the pattern holds it whole (01 R29). -/
theorem encodeFin_of_step_eq {m : Nat} {e : Int} {x mag : Nat} (hstep : max (e + bitLen m - (f.fbits + 1)) f.sub = e)
    (hx : e = f.sub + x) (hmag : (if m = 0 then 0 else x * 2 ^ f.fbits + m) = mag) (hfin : mag ≤ f.maxFin) :
    f.encodeFin rtz sat neg m e = f.signBit neg + mag := by
  have hexp : (e - f.sub).toNat = x := by omega
  simp [encodeFin, hstep, hexp, hmag, Nat.not_lt.2 hfin]

theorem encodeFin_subnormal {mag : Nat} (hmag : mag < 2 ^ f.fbits) (hfin : mag ≤ f.maxFin) :
    f.encodeFin rtz sat neg mag f.sub = f.signBit neg + mag := by
  have hlen := bitLen_le_of_lt_two_pow hmag
  refine f.encodeFin_of_step_eq rtz sat neg (x := 0) (max_eq_right (by omega)) (by simp) ?_ hfin
  split <;> omega

theorem encodeFin_normal {frac x : Nat} (hfrac : frac < 2 ^ f.fbits) (hfin : (x + 1) * 2 ^ f.fbits + frac ≤ f.maxFin) :
    f.encodeFin rtz sat neg (frac + 2 ^ f.fbits) (f.sub + x) = f.signBit neg + ((x + 1) * 2 ^ f.fbits + frac) := by
  have hlen := bitLen_add_two_pow hfrac
  refine f.encodeFin_of_step_eq rtz sat neg (x := x) ?_ rfl ?_ hfin
  · rw [hlen, max_eq_left] <;> omega
  · rw [if_neg (by omega), Nat.add_one_mul]
    omega

/-! ### The parts of a pattern -/

/-- The sign of a pattern, as `decode` reads it. -/
def signOf (bits : Nat) : Bool := decide (bits / 2 ^ (f.ebits + f.fbits) % 2 = 1)

/-- The exponent and fraction of a pattern, as `decode` reads them. -/
def magOf (bits : Nat) : Nat := bits % 2 ^ (f.ebits + f.fbits)

theorem signBit_add_magOf {bits : Nat} (h : bits < 2 ^ (1 + f.ebits + f.fbits)) :
    f.signBit (f.signOf bits) + f.magOf bits = bits := by
  have hsign : f.signBit (f.signOf bits) = 2 ^ (f.ebits + f.fbits) * (bits / 2 ^ (f.ebits + f.fbits)) := by
    have hq : bits / 2 ^ (f.ebits + f.fbits) < 2 :=
      Nat.div_lt_of_lt_mul (by rwa [← pow_succ, Nat.add_comm _ 1, ← Nat.add_assoc])
    obtain h0 | h1 := Nat.le_one_iff_eq_zero_or_eq_one.1 (Nat.lt_succ_iff.1 hq)
    · simp [signBit, signOf, h0]
    · simp [signBit, signOf, h1]
  rw [hsign, magOf, Nat.div_add_mod]

theorem magOf_lt (bits : Nat) : f.magOf bits < f.top + 2 ^ f.fbits := by
  have hpow : f.top + 2 ^ f.fbits = 2 ^ (f.ebits + f.fbits) := by
    rw [top, ← Nat.add_one_mul, Nat.sub_add_cancel Nat.one_le_two_pow, pow_add]
  exact hpow ▸ Nat.mod_lt _ (Nat.two_pow_pos _)

/-- A pattern that decodes to a finite value is at most the largest finite one, and its exponent tells a subnormal from a normal. -/
theorem decode_eq_of_finite {bits : Nat} (h : ∃ neg m e, f.decode bits = .fin neg m e) :
    f.magOf bits ≤ f.maxFin ∧
    f.decode bits = if f.magOf bits / 2 ^ f.fbits = 0 then .fin (f.signOf bits) (f.magOf bits % 2 ^ f.fbits) f.sub else
      .fin (f.signOf bits) (f.magOf bits % 2 ^ f.fbits + 2 ^ f.fbits) (f.sub + (f.magOf bits / 2 ^ f.fbits : Nat) - 1) := by
  have hlt := f.magOf_lt bits
  obtain ⟨neg, m, e, h⟩ := h
  rw [decode, ← magOf, ← signOf] at h ⊢
  dsimp only at h ⊢
  split at h
  · cases h
  split at h
  · cases h
  split at h
  · cases h
  next hnan hinf hnan' =>
    rw [if_neg hnan, if_neg hinf, if_neg hnan']
    refine ⟨?_, rfl⟩
    rw [maxFin]
    cases hi : f.hasInf with
    | true =>
      simp only [hi, Bool.true_and, decide_eq_true_eq, if_true] at hnan hinf ⊢
      omega
    | false =>
      simp only [hi, Bool.not_false, Bool.true_and, decide_eq_true_eq, Bool.false_eq_true, if_false] at hnan' ⊢
      omega

/-- Rounding the exact value of a finite pattern gives the pattern back, whatever the widths of the format. -/
theorem encode_decode_of_finite {bits : Nat} (hbits : bits < 2 ^ (1 + f.ebits + f.fbits))
    (h : ∃ neg m e, f.decode bits = .fin neg m e) : f.encode rtz sat (f.decode bits) = bits := by
  obtain ⟨hfin, hdec⟩ := f.decode_eq_of_finite h
  have hfrac : f.magOf bits % 2 ^ f.fbits < 2 ^ f.fbits := Nat.mod_lt _ (Nat.two_pow_pos _)
  have hmag := Nat.div_add_mod' (f.magOf bits) (2 ^ f.fbits)
  rw [hdec]
  cases hx : f.magOf bits / 2 ^ f.fbits with
  | zero =>
    rw [hx, Nat.zero_mul, Nat.zero_add] at hmag
    rw [if_pos rfl, encode, f.encodeFin_subnormal _ _ _ hfrac (hmag.symm ▸ hfin), hmag,
      f.signBit_add_magOf hbits]
  | succ x =>
    rw [hx] at hmag
    have hexp : f.sub + (x + 1 : Nat) - 1 = f.sub + x := by omega
    rw [if_neg (Nat.succ_ne_zero x), hexp, encode, f.encodeFin_normal _ _ _ hfrac (hmag.symm ▸ hfin), hmag,
      f.signBit_add_magOf hbits]

end Fmt

/-! ### Products entering an X64 element (01 R32) -/

theorem enterX64_of_anchor_le (neg : Bool) (m : Nat) {anchor e : Int} (h : anchor ≤ e) (n : BitVec 64) (st : BitVec 2) :
    enterX64 anchor (.fin neg m e) n st = (n + BitVec.ofInt 64 (scaled neg m e anchor), st, false) := by
  simp [enterX64, scaled, roundAt_of_le false m h, h]

/-! ### The obligations -/

/-- Settles O27, by induction on the products: each adds its own multiple of the anchor. -/
theorem exactAccumulation : Obligations.ExactAccumulation := by
  unfold Obligations.ExactAccumulation
  intro anchor ps
  induction ps with
  | nil => simp [contributeX64]
  | cons p ps ih =>
    intro n st ix hps
    rw [List.forall_mem_cons] at hps
    obtain ⟨hp, hps⟩ := hps
    rw [List.map_cons, contributeX64, enterX64_of_anchor_le _ _ hp, Bool.or_false, ih _ _ _ hps, List.map_cons, List.sum_cons,
      BitVec.ofInt_add, BitVec.add_assoc]

/-- Settles O28, which holds of every format with infinities or without, the six of R15 among them. -/
theorem formatsRoundTrip : Obligations.FormatsRoundTrip := by
  unfold Obligations.FormatsRoundTrip
  exact fun f _ rtz sat _ hbits h => f.encode_decode_of_finite rtz sat hbits h

end Sys2Proof.Machine
end

section
/-!
PROOF. Words (02 R45 to R47, R54 to R61): the word of an instruction decodes to it, and no other word does. A word is the packed
word of a format just if its fields are the format's; so a decoder that reads every field and tests every reserved one meets the
packed words alone.
-/

namespace Sys2Proof.Laws

/-! ### The words of a format are those with its fields (02 R45, R46) -/

/-- A field of a word is two values side by side just if its upper and its lower bits are them. -/
theorem fld_eq_append_iff {w : Word32} {lo n m : Nat} {x : BitVec n} (y : BitVec m) :
    fld w lo (n + m) = x ++ y ↔ fld w (lo + m) n = x ∧ fld w lo m = y := by
  have hw : fld w lo (n + m) = fld w (lo + m) n ++ fld w lo m := by
    apply BitVec.eq_of_toNat_eq
    rw [toNat_append, fld_toNat, fld_toNat, fld_toNat, pow_add, pow_add, ← Nat.div_div_eq_div_mul, mul_comm (2 ^ n), Nat.mod_mul,
      mul_comm (2 ^ m), Nat.add_comm]
  constructor
  · intro h
    rw [hw] at h
    constructor
    · rw [← BitVec.extractLsb'_append_eq_left (a := x) (b := y), ← h, BitVec.extractLsb'_append_eq_left]
    · rw [← BitVec.setWidth_append_eq_right (a := x) (b := y), ← h, BitVec.setWidth_append_eq_right]
  · rintro ⟨rfl, rfl⟩
    exact hw

theorem eq_pack_iff {w : Word32} {op : BitVec 7} {r : BitVec 25} :
    w = pack op r ↔ (fld w 25 7).toNat = op.toNat ∧ fld w 0 25 = r := by
  have hw : fld w 0 (7 + 25) = w := by simp [fld]
  rw [BitVec.toNat_inj]
  exact (iff_of_eq (congrArg (· = op ++ r) hw.symm)).trans (fld_eq_append_iff r)

theorem eq_packRR_iff {w : Word32} {op : BitVec 7} {d a b : Reg} {f : BitVec 7} :
    w = packRR op d a b f ↔ (fld w 25 7).toNat = op.toNat ∧ fd w = d ∧ fa w = a ∧ fb w = b ∧ (fld w 0 7).toNat = f.toNat := by
  rw [packRR, eq_pack_iff, fld_eq_append_iff f, fld_eq_append_iff b, fld_eq_append_iff a, and_assoc, and_assoc, BitVec.toNat_inj (y := f)]
  rfl

theorem eq_packRI_iff {w : Word32} {op : BitVec 7} {d a : Reg} {i : BitVec 13} :
    w = packRI op d a i ↔ (fld w 25 7).toNat = op.toNat ∧ fd w = d ∧ fa w = a ∧ fld w 0 13 = i := by
  rw [packRI, eq_pack_iff, fld_eq_append_iff i, fld_eq_append_iff a, and_assoc]
  rfl

theorem eq_packU_iff {w : Word32} {op : BitVec 7} {d : Reg} {i : BitVec 19} :
    w = packU op d i ↔ (fld w 25 7).toNat = op.toNat ∧ fd w = d ∧ fld w 0 19 = i := by
  rw [packU, eq_pack_iff, fld_eq_append_iff i]
  rfl

theorem eq_packQ_iff {w : Word32} {op : BitVec 7} {d a : Reg} {z c : BitVec 2} {o : BitVec 9} :
    w = packQ op d a z c o ↔
      (fld w 25 7).toNat = op.toNat ∧ fd w = d ∧ fa w = a ∧ fld w 11 2 = z ∧ fld w 9 2 = c ∧ fld w 0 9 = o := by
  rw [packQ, eq_pack_iff, fld_eq_append_iff o, fld_eq_append_iff c, fld_eq_append_iff z, fld_eq_append_iff a, and_assoc, and_assoc,
    and_assoc]
  rfl

theorem eq_packAM_iff {w : Word32} {d a b : Reg} {p : BitVec 4} {q r x : BitVec 1} :
    w = packAM d a b p q r x ↔ (fld w 25 7).toNat = 0x46 ∧
      fd w = d ∧ fa w = a ∧ fb w = b ∧ fld w 3 4 = p ∧ fld w 2 1 = q ∧ fld w 1 1 = r ∧ fld w 0 1 = x := by
  rw [packAM, eq_pack_iff, fld_eq_append_iff x, fld_eq_append_iff r, fld_eq_append_iff q, fld_eq_append_iff p, fld_eq_append_iff b,
    fld_eq_append_iff a, and_assoc, and_assoc, and_assoc, and_assoc, and_assoc]
  rfl

theorem eq_packCR_iff {w : Word32} {k : BitVec 2} {d a : Reg} {c : BitVec 11} :
    w = packCR k d a c ↔ (fld w 25 7).toNat = 0x47 ∧ fd w = d ∧ fa w = a ∧ (fld w 11 2).toNat = k.toNat ∧ fld w 0 11 = c := by
  rw [packCR, eq_pack_iff, fld_eq_append_iff c, fld_eq_append_iff k, fld_eq_append_iff a, and_assoc, and_assoc, BitVec.toNat_inj (y := k)]
  rfl

theorem eq_packE_iff {w : Word32} {op : BitVec 7} {u : BitVec 2} {f : BitVec 3} {i : BitVec 8} {a b : Reg} :
    w = packE op u f i a b ↔
      (fld w 25 7).toNat = op.toNat ∧ eu w = u ∧ (ef w).toNat = f.toNat ∧ ei w = i ∧ ea w = a ∧ eb w = b := by
  rw [packE, eq_pack_iff, fld_eq_append_iff b, fld_eq_append_iff a, fld_eq_append_iff i, fld_eq_append_iff f, and_assoc, and_assoc,
    and_assoc, BitVec.toNat_inj (y := f)]
  rfl

/-! ### What decodes is the word of what it decodes to -/

/-- Whatever a decoder gives for the word is a well-formed instruction of the CP, and the word is its word. -/
def Encodes (w : Word32) (o : Option Instr) : Prop := ∀ i, o = some i → wellFormed i = true ∧ gridSlot i = 3 ∧ encode i = some w

theorem encodes_none (w : Word32) : Encodes w none := fun _ h => nomatch h

theorem encodes_keep {w v : Word32} {r : Bool} {i : Instr} (hs : gridSlot i = 3) (he : encode i = some v) (hv : r = true → w = v) :
    Encodes w (keep r i) := by
  intro j hj
  unfold keep at hj
  split at hj
  · next h =>
    obtain ⟨hr, hw⟩ := (Bool.and_eq_true _ _).mp h
    obtain rfl := Option.some.inj hj
    exact ⟨hw, hs, hv hr ▸ he⟩
  · cases hj

section
variable {w : Word32}

/-! #### Reserved fields that the decoder tests as one -/

theorem fld_eq_zero_iff {lo : Nat} (n m : Nat) : fld w lo (n + m) = 0 ↔ fld w (lo + m) n = 0 ∧ fld w lo m = 0 := by
  rw [← fld_eq_append_iff]
  simp

/-- No b and no func, of RR (02 R45). -/
theorem fld_0_13_eq_zero_iff : fld w 0 13 = 0#13 ↔ fb w = 0 ∧ (fld w 0 7).toNat = 0 :=
  (fld_eq_zero_iff 6 7).trans (and_congr_right' BitVec.toNat_inj.symm)

/-- No fa and no fb, of E (02 R46). -/
theorem fld_0_12_eq_zero_iff : fld w 0 12 = 0#12 ↔ ea w = 0 ∧ eb w = 0 := fld_eq_zero_iff 6 6

/-- No unit, no fl and no idx, of E (02 R46). -/
theorem fld_12_13_eq_zero_iff : fld w 12 13 = 0#13 ↔ (eu w = 0 ∧ (ef w).toNat = 0) ∧ ei w = 0 :=
  (fld_eq_zero_iff 5 8).trans (and_congr_left' ((fld_eq_zero_iff 2 3).trans (and_congr_right' BitVec.toNat_inj.symm)))

/-! #### The decoders -/

theorem encodes_decodeOp (hop : (fld w 25 7).toNat = 0x04) : Encodes w (decodeOp w) := by
  unfold decodeOp
  split
  case h_19 => exact encodes_none w
  all_goals exact encodes_keep rfl rfl fun hr => by simp_all [eq_packRR_iff]

theorem encodes_decodeMuldiv (hop : (fld w 25 7).toNat = 0x06) : Encodes w (decodeMuldiv w) := by
  unfold decodeMuldiv
  split
  case h_8 => exact encodes_none w
  all_goals exact encodes_keep rfl rfl fun hr => by simp_all [eq_packRR_iff]

theorem encodes_decodeShift (hop : (fld w 25 7).toNat = 0x0E) : Encodes w (decodeShift w) := by
  unfold decodeShift
  split
  case h_4 => exact encodes_none w
  all_goals
    next hkind =>
      exact encodes_keep rfl rfl fun _ =>
        eq_packRI_iff.2 ⟨hop, rfl, rfl, (fld_eq_append_iff (fld w 0 6)).2 ⟨BitVec.eq_of_toNat_eq hkind, rfl⟩⟩

theorem encodes_decodeLreg (hop : (fld w 25 7).toNat = 0x27) : Encodes w (decodeLreg w) := by
  unfold decodeLreg
  split
  case h_3 => exact encodes_none w
  all_goals exact encodes_keep rfl rfl fun hr => by simp_all [eq_packRR_iff]

theorem encodes_decodeAmo (hop : (fld w 25 7).toNat = 0x46) : Encodes w (decodeAmo w) := by
  unfold decodeAmo
  split
  all_goals exact encodes_keep rfl rfl fun hr => by simp_all [eq_packAM_iff]

theorem encodes_decodeCsr (hop : (fld w 25 7).toNat = 0x47) : Encodes w (decodeCsr w) := by
  have hcop : (fld w 11 2).toNat < 4 := (fld w 11 2).isLt
  unfold decodeCsr
  split
  case h_4 h0 h1 h2 =>
    rw [imp_false] at h0 h1 h2
    have h3 : (fld w 11 2).toNat = 3 := by omega
    exact encodes_keep rfl rfl fun _ => eq_packCR_iff.2 ⟨hop, rfl, rfl, h3, rfl⟩
  all_goals exact encodes_keep rfl rfl fun hr => by simp_all [eq_packCR_iff]

theorem encodes_decodeMma (hop : (fld w 25 7).toNat = 0x54) : Encodes w (decodeMma w) := by
  unfold decodeMma
  split
  case h_3 => exact encodes_none w
  all_goals exact encodes_keep rfl rfl fun hr => by simp_all [eq_packE_iff]

theorem encodes_decodeLread (hop : (fld w 25 7).toNat = 0x5C) : Encodes w (decodeLread w) := by
  unfold decodeLread
  split
  case h_3 => exact encodes_none w
  all_goals exact encodes_keep rfl rfl fun hr => by simp_all [eq_packE_iff]

theorem encodes_decodeGrun (hop : (fld w 25 7).toNat = 0x62) : Encodes w (decodeGrun w) := by
  unfold decodeGrun
  split
  · split
    case h_5 => exact encodes_none w
    all_goals exact encodes_keep rfl rfl fun hr => by simp_all [eq_packE_iff]
  · exact encodes_none w

theorem encodes_decodeErchk (hop : (fld w 25 7).toNat = 0x66) : Encodes w (decodeErchk w) := by
  unfold decodeErchk
  split
  · split
    case h_3 => exact encodes_none w
    all_goals exact encodes_keep rfl rfl fun hr => by simp_all [eq_packE_iff]
  · exact encodes_none w

theorem encodes_decodeGwait (hop : (fld w 25 7).toNat = 0x72) : Encodes w (decodeGwait w) := by
  unfold decodeGwait
  split
  case h_1 h =>
    obtain ⟨hb, hf⟩ := fld_0_13_eq_zero_iff.1 (BitVec.eq_of_toNat_eq h)
    exact encodes_keep rfl rfl fun _ => eq_packRR_iff.2 ⟨hop, rfl, rfl, hb, hf⟩
  case h_2 h =>
    have hlow : fld w 0 13 = (0 : BitVec 6) ++ (1 : BitVec 7) := BitVec.eq_of_toNat_eq h
    rw [fld_eq_append_iff (1 : BitVec 7)] at hlow
    exact encodes_keep rfl rfl fun _ => eq_packRR_iff.2 ⟨hop, rfl, rfl, hlow.1, congrArg _ hlow.2⟩
  case h_3 => exact encodes_none w

/-- Where the arms above split a field or leave a part of it reserved, the equation of the word is written out; in every other arm
the word has the opcode that the arm is for, its reserved fields are zero, and each other field is the instruction's own. -/
theorem encodes_decode : Encodes w (decode w) := by
  unfold decode
  split
  case h_3 hop => exact encodes_decodeOp hop
  case h_4 hop => exact encodes_decodeMuldiv hop
  case h_11 hop => exact encodes_decodeShift hop
  case h_13 hop =>
    exact encodes_keep rfl rfl fun hr => eq_packRR_iff.2
      ⟨hop, rfl, rfl, rfl, congrArg BitVec.toNat ((fld_eq_append_iff (fld w 0 6)).2 ⟨of_decide_eq_true hr, rfl⟩)⟩
  case h_24 hop =>
    exact encodes_keep rfl rfl fun hr => eq_packRI_iff.2
      ⟨hop, (fld_eq_append_iff (fld w 19 2)).2 ⟨of_decide_eq_true hr, rfl⟩, rfl, rfl⟩
  case h_25 hop =>
    exact encodes_keep rfl rfl fun _ => eq_pack_iff.2 ⟨hop, by
      rw [fld_eq_append_iff (fld w 0 11), fld_eq_append_iff (fld w 11 12)]
      exact ⟨⟨rfl, rfl⟩, rfl⟩⟩
  case h_26 hop =>
    exact encodes_keep rfl rfl fun hr => eq_pack_iff.2 ⟨hop, by
      rw [fld_eq_append_iff (fld w 0 11), fld_eq_append_iff (0 : BitVec 6), fld_eq_append_iff (fld w 17 6)]
      exact ⟨⟨⟨rfl, rfl⟩, of_decide_eq_true hr⟩, rfl⟩⟩
  case h_27 hop => exact encodes_decodeLreg hop
  case h_33 hop =>
    exact encodes_keep rfl rfl fun hr => eq_pack_iff.2 ⟨hop, by
      rw [fld_eq_append_iff (0 : BitVec 19), fld_eq_append_iff (fld w 19 3)]
      exact ⟨⟨rfl, rfl⟩, of_decide_eq_true hr⟩⟩
  case h_34 hop => exact encodes_decodeAmo hop
  case h_35 hop => exact encodes_decodeCsr hop
  case h_47 hop => exact encodes_decodeMma hop
  case h_54 hop => exact encodes_decodeLread hop
  case h_57 hop => exact encodes_decodeGrun hop
  case h_60 hop => exact encodes_decodeErchk hop
  case h_68 hop => exact encodes_decodeGwait hop
  case h_75 => exact encodes_none w
  all_goals
    exact encodes_keep rfl rfl fun hr => by
      simp_all [eq_pack_iff, eq_packRR_iff, eq_packRI_iff, eq_packU_iff, eq_packQ_iff, eq_packE_iff, fld_0_13_eq_zero_iff,
        fld_0_12_eq_zero_iff, fld_12_13_eq_zero_iff]

end
end Sys2Proof.Laws

namespace Sys2Proof.Laws.RoundTrip

/-- Each coded instruction by its own lemma; an event has no word. -/
theorem statement (i : Instr) : Statement i := by
  cases i with
  | idle n => exact idle n
  | waitt a i => exact waitt a i
  | add d a b => exact add d a b
  | sub d a b => exact sub d a b
  | and d a b => exact and d a b
  | or d a b => exact or d a b
  | xor d a b => exact xor d a b
  | sll d a b => exact sll d a b
  | srl d a b => exact srl d a b
  | sra d a b => exact sra d a b
  | slt d a b => exact slt d a b
  | sltn d a b => exact sltn d a b
  | min d a b => exact min d a b
  | max d a b => exact max d a b
  | minn d a b => exact minn d a b
  | maxn d a b => exact maxn d a b
  | clz d a => exact clz d a
  | ctz d a => exact ctz d a
  | popc d a => exact popc d a
  | sext d a w => exact sext d a w
  | mul d a b => exact mul d a b
  | mulh d a b => exact mulh d a b
  | mulhn d a b => exact mulhn d a b
  | div d a b => exact div d a b
  | divn d a b => exact divn d a b
  | rem d a b => exact rem d a b
  | remn d a b => exact remn d a b
  | addi d a i => exact addi d a i
  | andi d a i => exact andi d a i
  | ori d a i => exact ori d a i
  | xori d a i => exact xori d a i
  | slti d a i => exact slti d a i
  | sltni d a i => exact sltni d a i
  | slli d a sh => exact slli d a sh
  | srli d a sh => exact srli d a sh
  | srai d a sh => exact srai d a sh
  | lui d i => exact lui d i
  | addsh d a b sh => exact addsh d a b sh
  | madi d a b i => exact madi d a b i
  | beq a b o => exact beq a b o
  | bne a b o => exact bne a b o
  | blt a b o => exact blt a b o
  | bge a b o => exact bge a b o
  | bltn a b o => exact bltn a b o
  | bgen a b o => exact bgen a b o
  | j o => exact j o
  | jal d o => exact jal d o
  | jr d a i => exact jr d a i
  | loop l a e => exact loop l a e
  | loopi l c e => exact loopi l c e
  | loops l k e => exact loops l k e
  | lregRead d f => exact lregRead d f
  | lregWrite a f => exact lregWrite a f
  | ldq d a z c o => exact ldq d a z c o
  | lqpop d => exact lqpop d
  | stq d a z o => exact stq d a z o
  | lds d a z o => exact lds d a z o
  | sts d a z o => exact sts d a z o
  | mark g s => exact mark g s
  | amo a b p acq rel w => exact amo a b p acq rel w
  | amoCas d a b acq rel w => exact amoCas d a b acq rel w
  | csrr d c => exact csrr d c
  | csrw d a c => exact csrw d a c
  | csrs d a c => exact csrs d a c
  | csrc d a c => exact csrc d a c
  | trap n => exact trap n
  | brk n => exact brk n
  | tret => exact tret
  | retire => exact retire
  | rgenter d a => exact rgenter d a
  | rgexit => exact rgexit
  | realign a i => exact realign a i
  | ringcfg a n => exact ringcfg a n
  | ringq d n s => exact ringq d n s
  | fmtw u a => exact fmtw u a
  | wload u m => exact wload u m
  | mmaR u l m => exact mmaR u l m
  | mmaC u l m => exact mmaC u l m
  | chbuild i a => exact chbuild i a
  | chclose i => exact chclose i
  | chfree i => exact chfree i
  | chstat i a => exact chstat i a
  | chsplice i a k => exact chsplice i a k
  | lzero s => exact lzero s
  | lread s m => exact lread s m
  | lreadM s m => exact lreadM s m
  | sstr a n => exact sstr a n
  | gcfg a => exact gcfg a
  | grun a => exact grun a
  | grunC a => exact grunC a
  | grunS k => exact grunS k
  | grunCS k => exact grunCS k
  | copy a n => exact copy a n
  | copyd a n => exact copyd a n
  | erchkOn a b => exact erchkOn a b
  | erchkOff => exact erchkOff
  | cwb a b => exact cwb a b
  | cinv a b => exact cinv a b
  | cwbi a b => exact cwbi a b
  | cpf a b c => exact cpf a b c
  | launch d a b => exact launch d a b
  | fork d a => exact fork d a
  | greport a => exact greport a
  | gwait d a => exact gwait d a
  | gwaitY d a => exact gwaitY d a
  | gcancel d a b => exact gcancel d a b
  | gstat d a b sel => exact gstat d a b sel
  | snap d a b => exact snap d a b
  | accept d a => exact accept d a
  | reject d a => exact reject d a
  | snapq d a sel => exact snapq d a sel
  | fadd f => exact fadd f
  | fsub f => exact fsub f
  | fmul f => exact fmul f
  | fma f => exact fma f
  | fms f => exact fms f
  | fmin f => exact fmin f
  | fmax f => exact fmax f
  | fcmp f => exact fcmp f
  | fsel f => exact fsel f
  | fsgn f => exact fsgn f
  | fspec f => exact fspec f
  | cvt f => exact cvt f
  | bf2 f => exact bf2 f
  | iadd f => exact iadd f
  | isub f => exact isub f
  | imul f => exact imul f
  | ilog f => exact ilog f
  | ish f => exact ish f
  | icmp f => exact icmp f
  | iminmax f => exact iminmax f
  | mov f => exact mov f
  | lperm f => exact lperm f
  | lbcast f => exact lbcast f
  | lred f => exact lred f
  | lshift f => exact lshift f
  | msk f => exact msk f
  | rngc f => exact rngc f
  | defer f => exact defer f
  | gridSlotCScalar w => exact gridSlotCScalar w
  | _ => rintro _ _ _ ⟨⟩

end Sys2Proof.Laws.RoundTrip

namespace Sys2Proof

/-! ### The obligations -/

/-- Settles O55, by the lemma of each coded instruction. -/
theorem roundTrip : Obligations.RoundTrip := by
  unfold Obligations.RoundTrip
  exact fun i w hw hs he => Laws.RoundTrip.statement i hw hs w he

/-- Settles O56: each arm of the decoder keeps an instruction whose word is the one decoded. -/
theorem noOtherWord : Obligations.NoOtherWord := by
  unfold Obligations.NoOtherWord
  exact fun _ => Laws.encodes_decode

/-- Settles O57, by running the decoders on the words. -/
theorem decodeWords : Obligations.DecodeWords := by
  unfold Obligations.DecodeWords
  decide

end Sys2Proof
end

section
/-!
PROOF. Where a grid result performs (02 R52, R53, 04 R131 to R133, R157): one element of one core changes, a deferral is posted, or
nothing at all.
-/

namespace Sys2Proof.Machine

/-! ### A core of the task in focus replaced -/

theorem State.onlyCore_setCore (s : State) (c : Core) : OnlyCore s (s.setCore c) := by
  rw [State.setCore_eq]
  exact ⟨s.onlyHere_here _ _ _, s.here_region _ _ _⟩

theorem State.sameMemory_setCore (s : State) (c : Core) : SameMemory s (s.setCore c) := fun _ _ _ => rfl

/-! ### An element and its poison (17 R382) -/

theorem State.onlyElem_setCore (s : State) (k : Nat) (e : Elem) (g : List Nat) :
    OnlyElem s (s.setCore { s.core.setElem k e with gridPoison := g }) k e := by
  refine ⟨s.onlyCore_setCore _, s.sameMemory_setCore _, ?_⟩
  rw [State.setCore_core]
  rfl

/-- A core is replaced, and poison of its elements cleared. -/
theorem State.setCore_clearGridPoison (s : State) (c : Core) (n : Nat) :
    ∃ g, (s.setCore c).clearGridPoison n = s.setCore { c with gridPoison := g } := by
  unfold State.clearGridPoison
  split
  · exact ⟨c.gridPoison, rfl⟩
  · rw [State.setCore_setCore, State.setCore_core]
    exact ⟨_, rfl⟩

/-- The element in focus receives a whole register, whose poison goes. -/
theorem State.onlyElem_written (s : State) (e : Elem) (n : Nat) :
    OnlyElem s ((s.setCore (s.core.setElem s.cur.el e)).clearGridPoison n) s.cur.el e := by
  obtain ⟨g, h⟩ := s.setCore_clearGridPoison (s.core.setElem s.cur.el e) n
  rw [h]
  exact s.onlyElem_setCore _ _ _

/-- An element's port is written, and its poison goes. -/
theorem State.onlyElem_port (s : State) (k n : Nat) (e : Elem) :
    OnlyElem s ({ ({ s with cur := { s.cur with el := k } } : State).clearGridPoison n with cur := s.cur }.setPorts k e) k e := by
  unfold State.clearGridPoison
  split
  · exact s.onlyElem_setCore k e s.core.gridPoison
  · change OnlyElem s ((s.setCore { s.core with gridPoison := s.core.gridPoison.filter (· != 64 * k + n) }).setPorts k e) k e
    rw [State.setPorts, State.setCore_setCore, State.setCore_core]
    exact s.onlyElem_setCore k e _

/-! ### The agenda of the region in focus (05 R183) -/

theorem State.onlyRegion_setRegion (s : State) (r : Region) : OnlyRegion s (s.setRegion r) := by
  rw [OnlyRegion, State.setRegion_task, State.setRegion_region]
  exact ⟨rfl, rfl⟩

/-- An item goes on the agenda, and nothing else changes. -/
theorem State.posted_post (s : State) (p : Pend) :
    OnlyRegion s (s.post p) ∧ SameMemory s (s.post p) ∧ Posted s (s.post p) [(p.due, p.core, p.act)] := by
  refine ⟨s.onlyRegion_setRegion _, fun _ _ _ => rfl, [{ p with seq := s.region.seq, took := s.region.rt }], rfl, ?_⟩
  rw [State.post, State.setRegion_region]

/-! ### Masks (04 R133) -/

/-- Bit j alone is set. -/
theorem getLsbD_one_shiftLeft (i j : Fin 16) : (((1 <<< j.val : Nat) : BitVec 16)).getLsbD i.val = decide (i = j) := by
  rw [BitVec.natCast_eq_ofNat, BitVec.getLsbD_ofNat, Nat.one_shiftLeft, Nat.testBit_two_pow]
  simp [Fin.ext_iff, eq_comm]

/-- One lane's step of the mask. -/
theorem maskStep_getLsbD (v : Vec) (m : BitVec 16) (i j : Fin 16) :
    (if v[j] = 0 then m else m ||| (1 <<< j.val)).getLsbD i.val = true ↔ m.getLsbD i.val = true ∨ i = j ∧ v[i] ≠ 0 := by
  split
  · next hv => exact ⟨.inl, Or.rec id fun ⟨hij, hne⟩ => absurd (hij ▸ hv) hne⟩
  · next hv =>
    rw [BitVec.getLsbD_or, getLsbD_one_shiftLeft, Bool.or_eq_true, decide_eq_true_eq]
    exact or_congr_right ⟨fun hij => ⟨hij, hij ▸ hv⟩, And.left⟩

theorem maskOf_getLsbD (v : Vec) (i : Fin 16) : (maskOf v).getLsbD i.val = decide (v[i] ≠ 0) := by
  have h (l : List (Fin 16)) (m : BitVec 16) :
      (l.foldl (fun (m : BitVec 16) (j : Fin 16) => if v[j] = 0 then m else m ||| (1 <<< j.val)) m).getLsbD i.val = true ↔
        m.getLsbD i.val = true ∨ i ∈ l ∧ v[i] ≠ 0 := by
    induction l generalizing m with
    | nil => simp
    | cons j l ih => rw [List.foldl_cons, ih, maskStep_getLsbD, or_assoc, ← or_and_right, List.mem_cons]
  rw [Bool.eq_iff_iff, maskOf, h]
  simp

/-! ### The obligation -/

/-- Settles O37, by the ranges of the destination code that the statement names, in their order. -/
theorem gridResults : Obligations.GridResults := by
  unfold Obligations.GridResults
  refine fun s => ⟨fun code v => ⟨_, rfl, ?vec⟩, fun n v => ⟨_, rfl, ?scalar⟩, fun pairs => ⟨_, rfl, ?append⟩⟩
  case vec =>
    dsimp only
    by_cases hv : code.toNat < 16
    · rw [dif_pos hv, dif_pos hv]
      exact s.onlyElem_written _ _
    rw [dif_neg hv, dif_neg hv]
    by_cases hport : code.toNat < 20
    · rw [if_pos hport, if_pos hport]
      cases hn : neighbour s.cur.el (code.toNat - 16) with
      | none => rfl
      | some kp =>
        dsimp only
        intro hp
        rw [dif_pos hp]
        exact s.onlyElem_port _ _ _
    rw [if_neg hport, if_neg hport]
    by_cases hs : code.toNat = 20
    · rw [if_pos hs, if_pos hs]
      exact s.onlyElem_written _ _
    rw [if_neg hs, if_neg hs]
    by_cases hm : 22 ≤ code.toNat ∧ code.toNat < 26
    · rw [dif_pos hm, dif_pos hm]
      exact ⟨_, maskOf_getLsbD v, s.onlyElem_written _ _⟩
    · rw [dif_neg hm, dif_neg hm]
  case scalar =>
    by_cases hn : n = 0
    · rw [if_pos hn, dif_pos hn]
    · rw [if_neg hn, dif_neg hn]
      exact s.onlyElem_written _ _
  case append =>
    cases s.core.deferStream (4 + s.cur.el / 8) (s.rt - 1) with
    | none => rfl
    | some x =>
      dsimp only
      by_cases hp : pairs = []
      · rw [if_pos hp, if_pos (by rw [hp]; rfl)]
      · rw [if_neg hp, if_neg (by simpa using hp)]
        exact s.posted_post _

end Sys2Proof.Machine
end

section
/-!
PROOF. The traps that an instruction's own word raises (02 R61 to R63, 03 R110 to R112): the three trapping instructions, the return
from the handler, and the mode in which an instruction is legal.
-/

namespace Sys2Proof.Machine

/-! ### Traps whose tval is a field of the word -/

/-- A trap with a field of the word as tval (17 R378). -/
theorem State.raise_field {w : Nat} (s : State) (cause sub : Nat) (n : BitVec w) :
    Traps s (s.raise cause sub (n.setWidth 64)) cause sub (BitVec.ofNat 64 n.toNat) := by
  rw [← BitVec.ofNat_toNat]
  exact s.raise_spec _ _ _

/-! ### TRET (03 R112) -/

@[simp] theorem State.count_setCore (s : State) (ev n : Nat) (c : Core) : (s.count ev n).setCore c = s.setCore c := by
  unfold State.count
  split
  · rfl
  · exact s.setCore_setCore _ c

/-- Counting an event changes the counters of the core in focus, and those only where they select the event (03 R116). -/
theorem State.count_core (s : State) (ev n : Nat) :
    (s.count ev n).core = { s.core with hpc := (s.count ev n).core.hpc, hpcNow := (s.count ev n).core.hpcNow } ∧
    ∀ i : Fin 4, selects s.core.hpe[i] s.timed ev = false →
      (s.count ev n).core.hpc[i] = s.core.hpc[i] ∧ (s.count ev n).core.hpcNow[i] = s.core.hpcNow[i] := by
  unfold State.count
  split
  · exact ⟨rfl, fun _ _ => ⟨rfl, rfl⟩⟩
  · simp only [State.setCore_core]
    exact ⟨s.core.count_eq _ _ _, fun i h => s.core.count_hpc _ _ _ i h⟩

/-- The state that a return from the handler leaves behind (03 R112). -/
def State.returned (s : State) : State := ((s.count 1 1).returnTrap).issueAfter 1

theorem State.returned_eq (s : State) (hl : s.timed = false) :
    ∃ ni fr, s.returned = s.here { (s.count 1 1).core with pc := s.core.epc, handler := false, nextIssue := ni } s.region fr ∧
      s.ptc + 1 ≤ ni := by
  have hepc : (s.count 1 1).core.epc = s.core.epc := by rw [(s.count_core 1 1).1]
  rw [State.returned, State.returnTrap, State.count_setCore, hepc, State.issueAfter, State.setCore_timed, hl,
    if_neg Bool.false_ne_true, State.setCore_core, State.setCore_setCore]
  exact ⟨_, _, rfl, Nat.le_add_right _ _⟩

/-- A return from the handler (03 R112). -/
theorem State.returned_spec (s : State) (hl : s.timed = false) :
    OnlyCore s s.returned ∧ SameMemory s s.returned ∧ SameRegs s s.returned ∧
      { s.core with handler := false }.SameUnits s.returned.core ∧
      s.returned.core.pc = s.core.epc ∧ s.returned.core.loops = s.core.loops ∧ s.returned.core.active = s.core.active ∧
      s.returned.core.psig = s.core.psig ∧ CountsOnly s s.returned [1] ∧ IssuesAfter s s.returned 1 := by
  obtain ⟨ni, fr, h, hni⟩ := s.returned_eq hl
  obtain ⟨hc, hcounts⟩ := s.count_core 1 1
  rw [h]
  unfold SameRegs Core.SameUnits CountsOnly IssuesAfter
  rw [State.here_core, if_neg (by rw [hl]; exact Bool.false_ne_true)]
  refine ⟨⟨s.onlyHere_here _ _ _, s.here_region _ _ _⟩, s.sameMemory_here _ _ _, fun r => ?_, ?_, rfl, ?_, ?_, ?_,
    fun i hi => hcounts i (hi 1 (List.mem_singleton_self 1)), hni⟩
  all_goals rw [hc]
  rfl

/-- TRET in loose code. -/
theorem execTret_loose (s : State) (hl : s.timed = false) :
    execTret s = .next (if s.core.handler then s.returned else s.illegal (wordOf .tret)) := by
  rw [execTret, State.needLoose, hl]
  rfl

/-! ### The mode of an instruction (02 R62) -/

theorem State.illegalMode_spec (s : State) (i : Instr) : Traps s (s.illegalMode i) 2 0 (wordOf i) := s.raise_spec _ _ _

theorem State.needTimed_loose (s : State) (i : Instr) (t : State) (h : s.timed = false) :
    s.needTimed i t = .next (s.illegalMode i) := by
  rw [State.needTimed, h]
  rfl

theorem State.needLoose_timed (s : State) (i : Instr) (t : State) (h : s.timed = true) :
    s.needLoose i t = .next (s.illegalMode i) := by
  rw [State.needLoose, h]
  rfl

theorem State.needArray_of_present (s : State) (i : Instr) (u : BitVec 2) (t : State)
    (h : (s.onBX && decide (2 ≤ u.toNat)) = false) : s.needArray i u t = s.needTimed i t := by
  rw [State.needArray, h]
  rfl

theorem State.needArray_of_absent (s : State) (i : Instr) (u : BitVec 2) (t : State)
    (h : (s.onBX && decide (2 ≤ u.toNat)) = true) : s.needArray i u t = .next (s.illegal (wordOf i)) := by
  rw [State.needArray, h]
  rfl

theorem State.startCopy_of_present (s : State) (i : Instr) (a n : Reg) (digest : Bool) (h : decide (s.cecount ≤ n.toNat) = false) :
    ∃ t, s.startCopy i a n digest = s.needTimed i t := by
  rw [State.startCopy, if_neg (of_decide_eq_false h)]
  exact ⟨_, rfl⟩

theorem State.startCopy_of_absent (s : State) (i : Instr) (a n : Reg) (digest : Bool) (h : decide (s.cecount ≤ n.toNat) = true) :
    s.startCopy i a n digest = .next (s.illegal (wordOf i)) := by
  rw [State.startCopy, if_pos (of_decide_eq_true h)]
  rfl

/-- A command that names an array or an engine which is not there is illegal in either mode (02 R61, R63). -/
theorem exec_noUnit (s : State) (i : Instr) (h : s.noUnit i = true) : exec i s = .next (s.illegal (wordOf i)) := by
  cases i with
  | fmtw u a => exact s.needArray_of_absent _ u _ h
  | wload u m => exact s.needArray_of_absent _ u _ h
  | mmaR u l m => exact s.needArray_of_absent _ u _ h
  | mmaC u l m => exact s.needArray_of_absent _ u _ h
  | copy a n => exact s.startCopy_of_absent _ a n _ h
  | copyd a n => exact s.startCopy_of_absent _ a n _ h
  | _ => cases h

/-- An instruction of timed code asks for timed code, behind the check of its unit. -/
theorem exec_timedOnly (s : State) (i : Instr) (h : timedOnly i = true) (hu : s.noUnit i = false) :
    ∃ t, exec i s = s.needTimed i t := by
  cases i with
  | fmtw u a => exact ⟨_, s.needArray_of_present _ u _ hu⟩
  | wload u m => exact ⟨_, s.needArray_of_present _ u _ hu⟩
  | mmaR u l m => exact ⟨_, s.needArray_of_present _ u _ hu⟩
  | mmaC u l m => exact ⟨_, s.needArray_of_present _ u _ hu⟩
  | copy a n => exact s.startCopy_of_present _ a n _ hu
  | copyd a n => exact s.startCopy_of_present _ a n _ hu
  | waitt | realign | loops | rgexit | ringcfg | chbuild | chclose | chfree | chstat | chsplice | lzero | lread | lreadM | sstr
  | gcfg | grun | grunC | grunS | grunCS | erchkOn | erchkOff => exact ⟨_, rfl⟩
  | _ => cases h

/-- An instruction of loose code asks for loose code. -/
theorem exec_looseOnly (s : State) (i : Instr) (h : looseOnly i = true) : ∃ t, exec i s = s.needLoose i t := by
  cases i with
  | tret | retire | rgenter | launch | fork | greport | gwait | gwaitY | gcancel | gstat | snap | accept | reject | snapq =>
    exact ⟨_, rfl⟩
  | _ => cases h

/-! ### The obligation -/

/-- Settles O7: each clause is the trap rule at the trap that the instruction raises, but for TRET in the handler. -/
theorem trapInstructions : Obligations.TrapInstructions := by
  unfold Obligations.TrapInstructions
  refine ⟨fun s => ⟨fun n => ⟨_, rfl, s.raise_field _ _ n⟩, fun n => ⟨_, rfl, s.raise_field _ _ n⟩,
    fun w => ⟨_, rfl, s.raise_field _ _ w⟩, fun hl => ⟨_, execTret_loose s hl, ?tret⟩⟩,
    fun s i => ⟨fun hu => ⟨_, exec_noUnit s i hu, s.raise_spec _ _ _⟩, fun hu hm => ⟨_, ?mode, s.illegalMode_spec i⟩⟩⟩
  case tret =>
    by_cases hh : s.core.handler = true
    · rw [if_pos hh, if_pos hh]
      exact s.returned_spec hl
    · rw [if_neg hh, if_neg hh]
      exact s.raise_spec _ _ _
  case mode =>
    obtain ⟨ht, hl⟩ | ⟨hl, ht⟩ := hm
    · obtain ⟨t, h⟩ := exec_timedOnly s i ht hu
      rw [h, s.needTimed_loose i t hl]
    · obtain ⟨t, h⟩ := exec_looseOnly s i hl
      rw [h, s.needLoose_timed i t ht]

end Sys2Proof.Machine
end

section
/-!
PROOF. CSR instructions (02 R50, R65, 03 R107, R108): what a CSR's write changes of a core, what reads as before, and the three times
at which a write takes effect.
-/

namespace Sys2Proof.Machine

/-! ### What a CSR's write changes of a core -/

/-- A CSR's write changes the CSRs that software writes, and nothing else. -/
theorem Core.csrSet_eq (c : Core) (n : Nat) (v : Word) :
    c.csrSet n v = { c with cause := (c.csrSet n v).cause, epc := (c.csrSet n v).epc, tval := (c.csrSet n v).tval,
                            tvec := (c.csrSet n v).tvec, psig := (c.csrSet n v).psig, hpc := (c.csrSet n v).hpc,
                            hpe := (c.csrSet n v).hpe } := by
  unfold Core.csrSet
  split <;> rfl

/-- A CSR below the counters changes no counter and no selector. -/
theorem Core.csrSet_counters (c : Core) (n : Nat) (v : Word) (h : n < 0x20) :
    (c.csrSet n v).hpc = c.hpc ∧ (c.csrSet n v).hpe = c.hpe := by
  unfold Core.csrSet
  split
  any_goals exact ⟨rfl, rfl⟩
  all_goals omega

@[simp] theorem Core.csrSet_csrSet (c : Core) (n : Nat) (v : Word) : (c.csrSet n v).csrSet n v = c.csrSet n v := by
  unfold Core.csrSet
  split <;> simp

/-- Writes that wait for the tick's end take no part in a CSR's write. -/
theorem Core.csrSet_csrNext (c : Core) (n : Nat) (v : Word) (l : List (Nat × Word)) :
    { c with csrNext := l }.csrSet n v = { c.csrSet n v with csrNext := l } := by
  unfold Core.csrSet
  split <;> rfl

theorem Core.csrSet_cause (c : Core) {n : Nat} (v : Word) (h : n ≠ 0x10) : (c.csrSet n v).cause = c.cause := by
  unfold Core.csrSet
  split <;> simp_all
theorem Core.csrSet_epc (c : Core) {n : Nat} (v : Word) (h : n ≠ 0x11) : (c.csrSet n v).epc = c.epc := by
  unfold Core.csrSet
  split <;> simp_all
theorem Core.csrSet_tval (c : Core) {n : Nat} (v : Word) (h : n ≠ 0x12) : (c.csrSet n v).tval = c.tval := by
  unfold Core.csrSet
  split <;> simp_all
theorem Core.csrSet_tvec (c : Core) {n : Nat} (v : Word) (h : n ≠ 0x13) : (c.csrSet n v).tvec = c.tvec := by
  unfold Core.csrSet
  split <;> simp_all
theorem Core.csrSet_psig (c : Core) {n : Nat} (v : Word) (h : n ≠ 0x18) : (c.csrSet n v).psig = c.psig := by
  unfold Core.csrSet
  split <;> simp_all
theorem Core.csrSet_hpc (c : Core) {n : Nat} (v : Word) (i : Fin 4) (h : n ≠ 0x20 + i.val) :
    (c.csrSet n v).hpc[i] = c.hpc[i] := by
  unfold Core.csrSet
  split <;> simp only [Fin.getElem_fin, Vector.getElem_set] <;> rw [if_neg (by omega)]
theorem Core.csrSet_hpe (c : Core) {n : Nat} (v : Word) (i : Fin 4) (h : n ≠ 0x28 + i.val) :
    (c.csrSet n v).hpe[i] = c.hpe[i] := by
  unfold Core.csrSet
  split <;> simp only [Fin.getElem_fin, Vector.getElem_set] <;> rw [if_neg (by omega)]

/-- The core's place and its copy engines do not depend on the core's own state. -/
@[simp] theorem State.setCore_dieOf (s : State) (c : Core) (k : Nat) : (s.setCore c).dieOf k = s.dieOf k := by
  rw [State.dieOf, State.setCore_task, State.dieOf]
@[simp] theorem State.setCore_onBX (s : State) (c : Core) : (s.setCore c).onBX = s.onBX := by
  rw [State.onBX, State.myDie, State.physDie, State.setCore_dieOf, State.setCore_task, State.onBX, State.myDie, State.physDie,
    State.setCore_cur]
@[simp] theorem State.setCore_cecount (s : State) (c : Core) : (s.setCore c).cecount = s.cecount := by
  simp [State.cecount, State.ctx]

/-- Another CSR reads as before (02 R50). -/
theorem State.csrRead_csrSet_of_ne (s : State) (v : Word) {n m : Nat} (h : m ≠ n) :
    (s.setCore (s.core.csrSet n v)).csrRead m = s.csrRead m := by
  unfold State.csrRead
  split
  all_goals simp only [State.setCore_core, State.setCore_timed, State.setCore_rt, State.setCore_region, State.setCore_ptc,
    State.setCore_slidemax, State.setCore_cur, State.setCore_dieOf, State.setCore_task, State.setCore_cecount]
  · exact s.core.csrSet_cause v h.symm
  · exact s.core.csrSet_epc v h.symm
  · exact s.core.csrSet_tval v h.symm
  · exact s.core.csrSet_tvec v h.symm
  · exact s.core.csrSet_psig v h.symm
  · exact s.core.csrSet_hpc v 0 h.symm
  · exact s.core.csrSet_hpc v 1 h.symm
  · exact s.core.csrSet_hpc v 2 h.symm
  · exact s.core.csrSet_hpc v 3 h.symm
  · exact s.core.csrSet_hpe v 0 h.symm
  · exact s.core.csrSet_hpe v 1 h.symm
  · exact s.core.csrSet_hpe v 2 h.symm
  · exact s.core.csrSet_hpe v 3 h.symm

theorem csrWritable_iff (n : Nat) : csrWritable n = true ↔ n = 0x10 ∨ n = 0x11 ∨ n = 0x12 ∨ n = 0x13 ∨ n = 0x18 ∨
    n = 0x20 ∨ n = 0x21 ∨ n = 0x22 ∨ n = 0x23 ∨ n = 0x28 ∨ n = 0x29 ∨ n = 0x2A ∨ n = 0x2B := by
  simp only [csrWritable, Bool.or_eq_true, Bool.and_eq_true, decide_eq_true_eq]
  omega

/-- What a CSR holds after a write; bits of reserved fields are discarded (02 R65). -/
theorem State.csrRead_csrSet_self (s : State) (v : Word) {n : Nat} (h : csrWritable n = true) :
    (s.setCore (s.core.csrSet n v)).csrRead n =
      if n = 0x10 then v &&& 0xFFFF
      else if n = 0x11 ∨ n = 0x13 then v &&& 0xFFFFFFFFFFFFFFFC
      else if n = 0x12 ∨ n = 0x18 ∨ n < 0x28 then v
      else v &&& 0x3FF := by
  rw [csrWritable_iff] at h
  obtain rfl | rfl | rfl | rfl | rfl | rfl | rfl | rfl | rfl | rfl | rfl | rfl | rfl := h
  all_goals simp [State.csrRead, Core.csrSet]

/-! ### The three times of a write (03 R107, R108) -/

/-- The core in focus when a result has been delivered: a loose one stands in its register (03 R71). -/
def State.deliverCore (s : State) (d : Reg) (v : Word) : Core := if s.timed then s.core else s.core.wx d v

/-- The region when a result has been delivered: a timed one stands on the agenda, unless it goes to x0 (03 R72, R73). -/
def State.deliverRegion (s : State) (d : Reg) (v : Word) (n : Nat) : Region :=
  if s.timed then (if d = 0 then s.region else s.region.with1 (cpItem s d v n)) else s.region

theorem State.deliver_eq (s : State) (d : Reg) (v : Word) (n : Nat) :
    s.deliver d v n = if d = 0 then s else if s.timed then s.setRegion (s.region.with1 (cpItem s d v n)) else s.setCore (s.core.wx d v) :=
  rfl

theorem State.deliver_core (s : State) (d : Reg) (v : Word) (n : Nat) : (s.deliver d v n).core = s.deliverCore d v := by
  rw [State.deliver_eq, State.deliverCore]
  by_cases hd : d = 0
  · rw [if_pos hd, Core.wx, if_pos hd, ite_self]
  · rw [if_neg hd]
    split <;> simp

theorem State.deliver_region (s : State) (d : Reg) (v : Word) (n : Nat) : (s.deliver d v n).region = s.deliverRegion d v n := by
  rw [State.deliver_eq, State.deliverRegion]
  by_cases hd : d = 0
  · rw [if_pos hd, if_pos hd, ite_self]
  · rw [if_neg hd, if_neg hd]
    split <;> simp

theorem State.deliver_cur (s : State) (d : Reg) (v : Word) (n : Nat) : (s.deliver d v n).cur = s.cur := by
  rw [State.deliver_eq]
  split
  · rfl
  · split <;> rfl

theorem State.deliver_setCore (s : State) (d : Reg) (v : Word) (n : Nat) (c : Core) :
    (s.deliver d v n).setCore c = s.here c (s.deliverRegion d v n) s.fresh := by
  rw [State.deliver_eq, State.deliverRegion]
  by_cases hd : d = 0
  · rw [if_pos hd, if_pos hd, ite_self, State.setCore_eq]
  · rw [if_neg hd, if_neg hd]
    split
    · exact s.setRegion_setCore _ _
    · rw [State.setCore_setCore, State.setCore_eq]

theorem State.deliver_setRegion_setCore (s : State) (d : Reg) (v : Word) (n : Nat) (r : Region) (c : Core) :
    ((s.deliver d v n).setRegion r).setCore c = s.here c r s.fresh := by
  rw [State.setRegion_setCore, ← State.here_setRegion _ c (s.deliver d v n).region, ← State.setCore_eq, State.deliver_setCore,
    State.here_setRegion]

theorem State.deliverRegion_active (s : State) (d : Reg) (v : Word) (n : Nat) : (s.deliverRegion d v n).active = s.timed := by
  unfold State.deliverRegion
  split
  · split <;> rfl
  · rfl

theorem State.deliverRegion_rt (s : State) (d : Reg) (v : Word) (n : Nat) : (s.deliverRegion d v n).rt = s.rt := by
  unfold State.deliverRegion
  split
  · split <;> rfl
  · rfl

/-- A delivered result changes a register of the core at most. -/
theorem State.deliverCore_eq (s : State) (d : Reg) (v : Word) :
    s.deliverCore d v = { s.core with x := (s.deliverCore d v).x, regPoison := (s.deliverCore d v).regPoison } := by
  unfold State.deliverCore
  split
  · rfl
  · exact s.core.wx_eq d v

theorem State.deliverCore_timed (s : State) (d : Reg) (v : Word) (h : s.timed = true) : s.deliverCore d v = s.core := if_pos h

theorem State.deliverCore_rx_loose (s : State) (d : Reg) (v : Word) (h : s.timed = false) (r : Reg) :
    (s.deliverCore d v).rx r = if r = d ∧ d ≠ 0 then v else s.core.rx r := by
  rw [State.deliverCore, h]
  exact s.core.rx_wx d r v

theorem State.deliverCore_csrSet (s : State) (d : Reg) (v : Word) (n : Nat) (w : Word) :
    (s.deliverCore d v).csrSet n w = { s.core.csrSet n w with x := (s.deliverCore d v).x, regPoison := (s.deliverCore d v).regPoison } := by
  have h := s.deliverCore_eq d v
  generalize s.deliverCore d v = c at h ⊢
  rw [h]
  unfold Core.csrSet
  split <;> rfl

/-- The agenda's item of a timed write of a counter or selector (03 R108). -/
def csrItem (s : State) (n : Nat) (v : Word) : Pend :=
  { due := s.rt, rank := 31, key := [n], core := s.cur.core, act := .phase (.csrWrite n v), took := s.rt,
    pc := s.core.pc, by' := s.cur.core }

/-- A CSR below the counters takes its value at once. -/
theorem State.csrWrite_now (s : State) (d : Reg) (n : Nat) (v : Word) (h : n < 0x20) :
    s.csrWrite d n v =
      .next ((s.here ((s.deliverCore d (s.csrRead n)).csrSet n v) (s.deliverRegion d (s.csrRead n) 2) s.fresh).finish 1) := by
  rw [State.csrWrite, if_pos h, State.deliver_setCore, State.deliver_core]

theorem State.post_eq (s : State) (p : Pend) :
    s.post p = s.setRegion (s.region.with1 { p with seq := s.region.seq, took := s.region.rt }) := rfl

/-- A timed write of a counter or selector waits for the cycle's end. -/
theorem State.csrWrite_timed (s : State) (d : Reg) (n : Nat) (v : Word) (h : ¬ n < 0x20) (ht : s.timed = true) :
    s.csrWrite d n v = .next ((s.here (s.deliverCore d (s.csrRead n)) ((s.deliverRegion d (s.csrRead n) 2).with1
      { csrItem s n v with seq := (s.deliverRegion d (s.csrRead n) 2).seq }) s.fresh).finish 1) := by
  have hrt : (s.deliver d (s.csrRead n) 2).rt = s.rt := by rw [State.rt, State.deliver_region, State.deliverRegion_rt]
  rw [State.csrWrite, if_neg h, if_pos ht, ← State.finish_setCore, State.phaseIn, State.post_eq, State.deliver_setRegion_setCore,
    State.setRegion_core, State.deliver_core, State.deliver_region, State.deliver_cur, hrt, State.deliverCore_timed s d _ ht,
    State.deliverRegion_rt]
  rfl

/-- A write that waits for the tick's end. -/
def State.queueCsr (s : State) (n : Nat) (v : Word) : State := s.setCore { s.core with csrNext := s.core.csrNext ++ [(n, v)] }

theorem State.queueCsr_here (s : State) (c : Core) (r : Region) (k n : Nat) (v : Word) :
    (s.here c r k).queueCsr n v = s.here { c with csrNext := c.csrNext ++ [(n, v)] } r k := by
  rw [State.queueCsr, State.here_setCore, State.here_core]

/-- A loose write of a counter or selector waits for the tick's end. -/
theorem State.csrWrite_loose (s : State) (d : Reg) (n : Nat) (v : Word) (h : ¬ n < 0x20) (ht : s.timed = false) :
    s.csrWrite d n v = .next (((s.here (s.deliverCore d (s.csrRead n)) s.region s.fresh).finish 1).queueCsr n v) := by
  have hr : s.deliverRegion d (s.csrRead n) 2 = s.region := by rw [State.deliverRegion, if_neg (by rw [ht]; exact Bool.false_ne_true)]
  have hf : (s.deliver d (s.csrRead n) 2).finish 1 = (s.here (s.deliverCore d (s.csrRead n)) s.region s.fresh).finish 1 := by
    rw [← State.finish_setCore, State.deliver_setCore, State.deliver_core, hr]
  rw [State.csrWrite, if_neg h, ht, if_neg Bool.false_ne_true, hf]
  rfl

/-! ### Passing on behind a changed CSR -/

theorem State.setCore_here (s : State) (b c : Core) (r : Region) (n : Nat) : (s.setCore b).here c r n = s.here c r n := by
  simp [State.here, State.setCore, State.setTask, State.task]

/-- Control passes from a core with the counters of the core in focus. -/
theorem State.passesFrom_of_setCore (s : State) (b : Core) (t : State) (k : Nat) (evs : List Nat) (hpe : b.hpe = s.core.hpe)
    (hpc : b.hpc = s.core.hpc) (hnow : b.hpcNow = s.core.hpcNow) (h : Passes (s.setCore b) t k evs) : PassesFrom b s t k evs := by
  obtain ⟨hcontrol, hcounts, hissue⟩ := h
  simp only [CountsOnly, IssuesAfter, State.setCore_core, State.setCore_timed, State.setCore_rt, State.setCore_ptc, hpe, hpc, hnow]
    at hcontrol hcounts hissue
  exact ⟨hcontrol, hcounts, hissue⟩

/-! ### The obligation's clauses -/

/-- The registers and the region behind the delivery of the old value. -/
theorem State.deliver_regs (s t : State) (d : Reg) (v : Word) (r : Region)
    (hrx : ∀ x, t.core.rx x = (s.deliverCore d v).rx x) (hr : t.region = if s.timed then r else s.region) :
    if s.timed then SameRegs s t ∧ t.region = r else Sets s t d v ∧ t.region = s.region := by
  split
  · next ht =>
    rw [if_pos ht] at hr
    exact ⟨fun x => by rw [hrx, s.deliverCore_timed d v ht], hr⟩
  · next ht =>
    rw [if_neg ht] at hr
    exact ⟨fun x => by rw [hrx, s.deliverCore_rx_loose d v (by simpa using ht)], hr⟩

/-- What a CSR write does, the old value delivered. -/
def CsrWrites (s t : State) (d : Reg) (n : Nat) (v : Word) : Prop :=
  OnlyHere s t ∧ SameMemory s t ∧
    (let r := if d = 0 then s.region else s.region.with1 (cpItem s d (s.csrRead n) 2)
     if s.timed then SameRegs s t ∧ t.region = (if n < 0x20 then r else r.with1 { csrItem s n v with seq := r.seq })
     else Sets s t d (s.csrRead n) ∧ t.region = s.region) ∧
    (if n < 0x20 then (s.core.csrSet n v).SameUnits t.core ∧ PassesFrom (s.core.csrSet n v) s t 1 []
     else if s.timed then s.core.SameUnits t.core ∧ Passes s t 1 []
     else { s.core with csrNext := s.core.csrNext ++ [(n, v)] }.SameUnits t.core ∧ Passes s t 1 [])

theorem State.csrWrite_spec_now (s : State) (d : Reg) (n : Nat) (v : Word) (h : n < 0x20) :
    ∃ t, s.csrWrite d n v = .next t ∧ CsrWrites s t d n v := by
  refine ⟨_, s.csrWrite_now d n v h, ?_⟩
  obtain ⟨hhere, hmem, hreg, hunits, hrx⟩ := s.finish_near ((s.deliverCore d (s.csrRead n)).csrSet n v)
    (s.deliverRegion d (s.csrRead n) 2) s.fresh 1
  have hc := s.deliverCore_csrSet d (s.csrRead n) n v
  obtain ⟨hhpc, hhpe⟩ := s.core.csrSet_counters n v h
  have hnow : (s.core.csrSet n v).hpcNow = s.core.hpcNow := by rw [s.core.csrSet_eq n v]
  refine ⟨hhere, hmem, s.deliver_regs _ d _ _ (fun x => (hrx x).trans (by rw [hc]; rfl)) ?_, ?_⟩
  · rw [hreg, if_pos h]
    rfl
  · rw [if_pos h]
    rw [hc] at hunits ⊢
    refine ⟨hunits, s.passesFrom_of_setCore _ _ _ _ hhpe hhpc hnow ?_⟩
    rw [← s.setCore_here (s.core.csrSet n v)]
    refine State.passes_finish _ _ _ _ _ [] ?_ ?_ ?_ ?_ ?_ fun _ _ => ?_
    · rw [State.setCore_timed, State.deliverRegion_active]
    · rw [State.setCore_rt, State.deliverRegion_rt]
    all_goals rw [State.setCore_core]
    · exact ⟨rfl, rfl, rfl, rfl⟩
    · exact ⟨rfl, rfl⟩

theorem State.csrWrite_spec_timed (s : State) (d : Reg) (n : Nat) (v : Word) (h : ¬ n < 0x20) (ht : s.timed = true) :
    ∃ t, s.csrWrite d n v = .next t ∧ CsrWrites s t d n v := by
  refine ⟨_, s.csrWrite_timed d n v h ht, ?_⟩
  obtain ⟨hhere, hmem, hreg, hunits, hrx⟩ := s.finish_near (s.deliverCore d (s.csrRead n))
    ((s.deliverRegion d (s.csrRead n) 2).with1 { csrItem s n v with seq := (s.deliverRegion d (s.csrRead n) 2).seq }) s.fresh 1
  have hr : s.deliverRegion d (s.csrRead n) 2 = if d = 0 then s.region else s.region.with1 (cpItem s d (s.csrRead n) 2) := if_pos ht
  refine ⟨hhere, hmem, s.deliver_regs _ d _ _ hrx ?_, ?_⟩
  · rw [if_pos ht, if_neg h, hreg, hr]
  · rw [if_neg h, if_pos ht]
    rw [s.deliverCore_timed d _ ht] at hunits ⊢
    exact ⟨hunits, s.passes_finish _ _ _ _ [] (s.deliverRegion_active _ _ _) (s.deliverRegion_rt _ _ _) ⟨rfl, rfl, rfl, rfl⟩ rfl rfl
      fun _ _ => ⟨rfl, rfl⟩⟩

theorem State.csrWrite_spec_loose (s : State) (d : Reg) (n : Nat) (v : Word) (h : ¬ n < 0x20) (ht : s.timed = false) :
    ∃ t, s.csrWrite d n v = .next t ∧ CsrWrites s t d n v := by
  refine ⟨_, s.csrWrite_loose d n v h ht, ?_⟩
  have hc := s.deliverCore_eq d (s.csrRead n)
  have hrx := s.deliverCore_rx_loose d (s.csrRead n) ht
  generalize s.deliverCore d (s.csrRead n) = c at hc hrx ⊢
  obtain ⟨-, -, -, hunits, hnear⟩ := s.finish_near c s.region s.fresh 1
  have hpass : Passes s ((s.here c s.region s.fresh).finish 1) 1 [] :=
    s.passes_finish c s.region s.fresh 1 [] rfl rfl (by rw [hc]; exact ⟨rfl, rfl, rfl, rfl⟩) (by rw [hc]) (by rw [hc])
      fun _ _ => by rw [hc]; exact ⟨rfl, rfl⟩
  obtain ⟨ni, fr, e, -⟩ := s.here_finish c s.region s.fresh 1
  rw [e] at hunits hnear hpass ⊢
  rw [State.queueCsr_here]
  rw [State.here_core] at hunits hnear
  generalize { c.passed s.region.active with nextIssue := ni } = q at hunits hnear hpass ⊢
  refine ⟨s.onlyHere_here _ _ _, s.sameMemory_here _ _ _, ?_, ?_⟩
  · rw [ht, if_neg Bool.false_ne_true, State.here_region]
    refine ⟨fun x => ?_, rfl⟩
    rw [State.here_core, ← hrx x, ← hnear x]
    rfl
  · rw [if_neg h, ht, if_neg Bool.false_ne_true, State.here_core]
    refine ⟨?_, ?_⟩
    · rw [hunits, hc]
      rfl
    · simp only [Passes, PassesFrom, CountsOnly, IssuesAfter, State.here_core] at hpass ⊢
      exact hpass

theorem State.csrWrite_spec (s : State) (d : Reg) (n : Nat) (v : Word) : ∃ t, s.csrWrite d n v = .next t ∧ CsrWrites s t d n v := by
  by_cases h : n < 0x20
  · exact s.csrWrite_spec_now d n v h
  · cases ht : s.timed with
    | true => exact s.csrWrite_spec_timed d n v h ht
    | false => exact s.csrWrite_spec_loose d n v h ht

/-! ### The end of the tick and of the cycle (03 R108, R118) -/

theorem Core.count_csrNext (c : Core) (m : Bool) (ev n : Nat) : (c.count m ev n).csrNext = c.csrNext := by rw [Core.count_eq]

/-- What a tick counts leaves the writes that wait for its end. -/
theorem Task.tickCounts_csrNext (t : Task) (ptc k : Nat) (c : Core) : (t.tickCounts ptc k c).csrNext = c.csrNext := by
  unfold Task.tickCounts
  dsimp only
  repeat' split
  all_goals simp only [Core.foldCounts, Core.count_csrNext]

/-- A waiting write takes effect when the tick is over. -/
theorem Task.countTick_csrNext (u : Task) (tick k n : Nat) (throttled : Bool) (v : Word) (c : Core) (hk : (k, c) ∈ u.cores)
    (hc : c.csrNext = [(n, v)]) : ∃ d, (k, d) ∈ (u.countTick tick throttled).cores ∧ d.csrNext = [] ∧ d.csrSet n v = d := by
  have h1 : (u.tickCounts tick k c).csrNext = [(n, v)] := (u.tickCounts_csrNext tick k c).trans hc
  refine ⟨{ (u.tickCounts tick k c).csrSet n v with csrNext := [] }, ?_, rfl, ?_⟩
  · refine List.mem_map.mpr ⟨(k, c), hk, ?_⟩
    dsimp only
    rw [h1]
    rfl
  · rw [Core.csrSet_csrNext, Core.csrSet_csrSet]

/-- The core behind the second part of a timed write: a written counter loses the counts of its cycle. -/
def Core.csrLanded (c : Core) (n : Nat) (v : Word) : Core :=
  let d := c.csrSet n v
  if h : 0x20 ≤ n ∧ n < 0x24 then { d with hpcNow := d.hpcNow.set (n - 0x20) 0 (by omega) } else d

theorem runPhase_csrWrite (s : State) (n : Nat) (v : Word) :
    runPhase (.csrWrite n v) s = s.setCore (s.core.csrLanded n v) := rfl

theorem Core.csrLanded_spec (c : Core) (n : Nat) (v : Word) :
    c.csrLanded n v = { c.csrSet n v with hpcNow := (c.csrLanded n v).hpcNow } ∧
    ∀ i : Fin 4, (c.csrLanded n v).hpcNow[i] = if n = 0x20 + i.val then 0 else c.hpcNow[i] := by
  have hnow : (c.csrSet n v).hpcNow = c.hpcNow := by rw [c.csrSet_eq n v]
  unfold Core.csrLanded
  split
  · refine ⟨rfl, fun i => ?_⟩
    simp only [Fin.getElem_fin, Vector.getElem_set, hnow]
    exact if_congr (by omega) rfl rfl
  · refine ⟨rfl, fun i => ?_⟩
    simp only [hnow]
    rw [if_neg (by omega)]

/-! ### The obligation -/

/-- Settles O6: CSRR is a result, a CSR's write has one lemma for each of its three times, and the CSRs' fields are apart. -/
theorem csrInstructions : Obligations.CsrInstructions := by
  unfold Obligations.CsrInstructions
  refine ⟨fun s d a c => ⟨s.result_spec d _ 2, fun i v hi _ => ?_⟩,
    fun u tick k n throttled v c => u.countTick_csrNext tick k n throttled v c,
    fun s n v => ?_, fun s v n m hn => ?_⟩
  · have hw : exec i s = s.csrWrite d c.toNat v := by
      obtain ⟨rfl, rfl⟩ | ⟨rfl, rfl⟩ | ⟨rfl, rfl⟩ := hi <;> rfl
    rw [hw]
    exact s.csrWrite_spec d c.toNat v
  · refine ⟨s.onlyCore_setCore _, s.sameMemory_setCore _, ?_⟩
    simp only [runPhase_csrWrite, State.setCore_core]
    exact s.core.csrLanded_spec n v
  · by_cases hm : m = n
    · subst hm
      rw [if_neg (fun h => h rfl)]
      exact s.csrRead_csrSet_self v hn
    · rw [if_pos hm]
      exact s.csrRead_csrSet_of_ne v hm

end Sys2Proof.Machine
end

section
/-!
PROOF. What a step runs (02 R44, 17 R382, R383): what stands first on the turn, the word at the pc when a core issues, or what the
schedule puts next.
-/

namespace Sys2Proof.Machine

/-! ### A part with power (02 R44) -/

theorem step_turn {s : State} {f : Focus} {tn : Turn} {rest : List (Focus × Turn)} (hon : s.power = .on)
    (h : s.turn = (f, tn) :: rest) : step s = runTurn tn { s with cur := f, turn := rest } := by
  simp only [step, hon, State.advance, h]

theorem step_schedule {s : State} (hon : s.power = .on) (h : s.turn = []) : step s = .next s.schedule := by
  simp only [step, hon, State.advance, h]

/-! ### What a fetch admits -/

theorem State.triesLater_tryLater (s : State) (w : Wait) : TriesLater s (s.tryLater w) w := by
  have hcore : (s.setTask { s.task with wait := w }).core = s.core := by rw [State.setTask_core]; rfl
  have h : s.tryLater w =
      s.setTask { s.task with cores := SMap.put s.task.cores s.cur.core { s.core with nextIssue := s.ptc + 1 }, wait := w } := by
    rw [State.tryLater, hcore]
    simp [State.setCore, State.setTask, State.task]
  have hc : (s.tryLater w).core = { s.core with nextIssue := s.ptc + 1 } := by rw [h, State.setTask_core, SMap.get_put_self]
  refine ⟨?_, fun _ _ _ => rfl, hc, ?_⟩
  · rw [OnlyTask, h, State.setTask_task]
    rfl
  · rw [hc, h, State.setTask_task]

theorem State.fetch_of_waits {s : State} (h : s.fetchWaits = true) : s.fetch = .stop (s.tryLater .stores) := by
  rw [State.fetch, if_pos h]

theorem State.fetch_of_error {s : State} {e : Trapped} (h : s.fetchWaits = false) (he : s.fetchWord = .error e) :
    s.fetch = .stop ((if s.timed then s else s.countWalk s.core.pc.toNat).raise e.cause e.sub e.tval) := by
  rw [State.fetch, h, if_neg Bool.false_ne_true, he]

theorem State.fetch_of_none {s s1 : State} {w : Word32} (h : s.fetchWaits = false) (hw : s.fetchWord = .ok (w, s1))
    (hd : decode w = none) : s.fetch = .run (.illegalInstruction w) s1 := by
  simp only [State.fetch, h, if_neg Bool.false_ne_true, hw, hd]

theorem State.fetch_of_some {s s1 : State} {w : Word32} {i : Instr} (h : s.fetchWaits = false) (hw : s.fetchWord = .ok (w, s1))
    (hd : decode w = some i) : s.fetch = s1.admitRead i := by
  simp only [State.fetch, h, if_neg Bool.false_ne_true, hw, hd]

/-- An instruction runs whose registers are clean, or that the checks of encoding and mode refuse ahead of them. -/
theorem State.admitRead_runs {s : State} {i : Instr}
    (h : (∀ r ∈ sources i, r.toNat ∉ s.core.regPoison) ∨ s.engineRefused i = true ∨ s.modeRefused i = true) :
    s.admitRead i = .run i s := by
  have hn : (if s.core.regPoison.isEmpty || s.engineRefused i || s.modeRefused i then none
      else (sources i).find? fun r => s.core.regPoison.contains r.toNat) = none := by
    split
    · rfl
    · next hb =>
      obtain hr | he | hm := h
      · exact List.find?_eq_none.mpr fun r hr' => by simpa using hr r hr'
      · exact absurd (by simp [he]) hb
      · exact absurd (by simp [hm]) hb
  rw [State.admitRead, hn]

/-- A poisoned register stops an instruction that the checks admit. -/
theorem State.admitRead_stops {s : State} {i : Instr} {r : Reg} (he : s.engineRefused i = false) (hm : s.modeRefused i = false)
    (hr : (sources i).find? (fun r => s.core.regPoison.contains r.toNat) = some r) :
    s.admitRead i = .stop (s.raise 0x0C 7 (r.setWidth 64)) := by
  have hne : s.core.regPoison.isEmpty = false := by
    have hmem : r.toNat ∈ s.core.regPoison := by simpa using List.find?_some hr
    exact List.isEmpty_eq_false_iff.mpr (List.ne_nil_of_mem hmem)
  simp only [State.admitRead, hne, he, hm, hr, Bool.or_self, if_neg Bool.false_ne_true]

theorem State.admitEvent_runs {s : State} (i : Instr) (h : s.core.gridPoison = []) : s.admitEvent i = .run i s := by
  simp only [State.admitEvent, h, List.isEmpty_nil, if_pos]

/-! ### The trap of a failing fetch -/

/-- Writing the core in focus back changes no trap of loose code. -/
theorem Traps.of_setCore {s t : State} {cause sub : Nat} {tval : Word} (hl : s.timed = false) (h : Traps s t cause sub tval) :
    Traps (s.setCore s.core) t cause sub tval := by
  obtain ⟨hmem, hregs, hframe, hmode⟩ := h
  have hput (u : Task) : SMap.put (s.setCore s.core).tasks s.cur.task u = SMap.put s.tasks s.cur.task u := SMap.put_put _ _ _ _
  simp only [Traps, SameRegs, State.setCore_core, State.setCore_timed, State.setCore_region, State.setCore_cur, State.setCore_turn,
    State.setCore_task, SMap.put_put, hput, hl, if_neg Bool.false_ne_true] at hmode ⊢
  exact ⟨hmem, hregs, hframe, hmode⟩

theorem State.count_timed (s : State) (ev n : Nat) : (s.count ev n).timed = s.timed := by
  unfold State.count
  split
  · rfl
  · exact s.setCore_timed _

theorem State.countWalk_setCore (s : State) (va : Nat) (c : Core) : (s.countWalk va).setCore c = s.setCore c := by
  unfold State.countWalk
  split
  · split
    · rfl
    · exact s.count_setCore _ _ c
  · rw [State.count_setCore, State.count_setCore]

theorem State.countWalk_timed (s : State) (va : Nat) : (s.countWalk va).timed = s.timed := by
  rw [← State.setCore_timed _ s.core, State.countWalk_setCore, State.setCore_timed]

/-- The counts of a translation change the counters that select walks or misses (03 R117). -/
theorem State.countWalk_core (s : State) (va : Nat) :
    (s.countWalk va).core = { s.core with hpc := (s.countWalk va).core.hpc, hpcNow := (s.countWalk va).core.hpcNow } ∧
    CountsOnly s (s.countWalk va) [0x0B, 0x0C] := by
  unfold State.countWalk
  split
  · split
    · exact ⟨rfl, fun _ _ => ⟨rfl, rfl⟩⟩
    · obtain ⟨hcore, hcounts⟩ := s.count_core 0x0B 1
      exact ⟨hcore, fun i h => hcounts i (h 0x0B (by simp))⟩
  · obtain ⟨hcore, hcounts⟩ := s.count_core 0x0B 1
    obtain ⟨hcore', hcounts'⟩ := (s.count 0x0B 1).count_core 0x0C 1
    have hhpe : (s.count 0x0B 1).core.hpe = s.core.hpe := by rw [hcore]
    rw [State.count_timed, hhpe] at hcounts'
    refine ⟨hcore'.trans (by rw [hcore]), fun i h => ?_⟩
    obtain ⟨hpc, hnow⟩ := hcounts i (h 0x0B (by simp))
    obtain ⟨hpc', hnow'⟩ := hcounts' i (h 0x0C (by simp))
    exact ⟨hpc'.trans hpc, hnow'.trans hnow⟩

theorem State.trapsWalked_countWalk (s : State) (va cause sub : Nat) (tval : Word) (hl : s.timed = false) :
    TrapsWalked s ((s.countWalk va).raise cause sub tval) cause sub tval := by
  obtain ⟨hcore, hcounts⟩ := s.countWalk_core va
  have htrap := (s.countWalk va).raise_spec cause sub tval
  refine ⟨(s.countWalk va).setCore (s.countWalk va).core, ?_, htrap.of_setCore ((s.countWalk_timed va).trans hl)⟩
  rw [State.countWalk_setCore]
  refine ⟨s.onlyCore_setCore _, s.sameMemory_setCore _, ?_, ?_⟩
  · simp only [State.setCore_core]
    exact hcore
  · simp only [CountsOnly, State.setCore_core]
    exact hcounts

/-! ### What the schedule puts next (5.md) -/

/-- With no open cycle, the schedule takes the first that has something to do. -/
theorem State.schedule_idle {s : State} (h : ∀ p ∈ s.tasks, p.2.region.opened = false) :
    s.schedule = (((((((s.groupMove.orElse fun _ => s.inboxMove).orElse fun _ => s.throttleMove).orElse fun _ =>
      s.tasks.findSome? fun x => (s.onTask x.1).taskMove).orElse fun _ => s.distributorMove).orElse fun _ =>
      s.messageMove).orElse fun _ => s.groupClose).getD { s with turn := [(s.cur, .phase .tick)] }) := by
  have hn : s.tasks.find? (fun p => p.2.region.opened) = none := List.find?_eq_none.mpr fun p hp => by simp [h p hp]
  rw [State.schedule, hn]

end Sys2Proof.Machine
end

section
/-!
PROOF. The fetch of loose code (02 R44, 11 R309 to R311): what the page table says of an address, and what the word's bytes are.
-/

namespace Sys2Proof.Machine

/-- The state with other tasks: memory, page tables and what the memory system keeps stay. -/
def State.withTasks (s : State) (ts : SMap Task) : State := { s with tasks := ts }

section
variable (s : State) (ts : SMap Task)

theorem State.withTasks_readPas (pa n : Nat) : (s.withTasks ts).readPas pa n = s.readPas pa n := by
  induction n generalizing pa with
  | zero => rfl
  | succ n ih => rw [State.readPas, ih, State.readPas]; rfl

theorem State.withTasks_physNat (pa n : Nat) : (s.withTasks ts).physNat pa n = s.physNat pa n := by
  rw [State.physNat, State.withTasks_readPas, State.physNat]

theorem nodeKey_withTasks (node i : Nat) : nodeKey (s.withTasks ts) node i = nodeKey s node i := s.withTasks_physNat ts _ _
theorem nodeChild_withTasks (node i : Nat) : nodeChild (s.withTasks ts) node i = nodeChild s node i := s.withTasks_physNat ts _ _
theorem leafAt_withTasks (node j : Nat) : leafAt (s.withTasks ts) node j = leafAt s node j := by
  simp only [leafAt, State.withTasks_physNat]
theorem interiorOk_withTasks (node n : Nat) : interiorOk (s.withTasks ts) node n = interiorOk s node n := by
  simp only [interiorOk, nodeKey_withTasks, nodeChild_withTasks, State.withTasks_physNat]
theorem leavesOk_withTasks (node n : Nat) : leavesOk (s.withTasks ts) node n = leavesOk s node n := by
  simp only [leavesOk, leafAt_withTasks, State.withTasks_physNat]

theorem walkNodes_withTasks (va fuel node : Nat) : walkNodes (s.withTasks ts) va fuel node = walkNodes s va fuel node := by
  induction fuel generalizing node with
  | zero => rfl
  | succ fuel ih =>
    simp only [walkNodes, interiorOk_withTasks, leavesOk_withTasks, leafAt_withTasks, nodeKey_withTasks, nodeChild_withTasks,
      State.withTasks_physNat, ih]

theorem walkRadix_withTasks (o left t : Nat) : walkRadix (s.withTasks ts) o left t = walkRadix s o left t := by
  induction left generalizing t with
  | zero => rfl
  | succ left ih => simp only [walkRadix, State.withTasks_physNat, ih]

theorem walk_withTasks (c va : Nat) : walk (s.withTasks ts) c va = walk s c va := by
  have hctx : (s.withTasks ts).ctx c = s.ctx c := rfl
  simp only [walk, hctx, walkNodes_withTasks, walkRadix_withTasks]

theorem translateAs_withTasks (g : Agent) (va : Nat) (k : Access) : translateAs (s.withTasks ts) g va k = translateAs s g va k := by
  have hit : (s.withTasks ts).tlbHit g va = s.tlbHit g va := rfl
  simp only [translateAs, translate, hit, walk_withTasks]

end

/-! ### Translations keep an address's place in its line -/

theorem leafOk_aligned {l : Leaf} {r : Nat} (h : leafOk l r = true) :
    l.base % 0x10000 = 0 ∧ (l.rdx = false → l.target % 0x10000 = 0) := by
  simp only [leafOk, Bool.and_eq_true, decide_eq_true_eq] at h
  obtain ⟨⟨⟨⟨⟨⟨⟨⟨⟨⟨⟨hbase, -⟩, -⟩, -⟩, -⟩, -⟩, -⟩, -⟩, -⟩, -⟩, -⟩, htarget⟩ := h
  refine ⟨hbase, fun hr => ?_⟩
  rw [hr, if_neg Bool.false_ne_true] at htarget
  simp only [Bool.and_eq_true, decide_eq_true_eq] at htarget
  exact htarget.1.1

theorem leavesOk_leaf {s : State} {node n j : Nat} (h : leavesOk s node n = true) (hj : j < n) :
    ∃ r, leafOk (leafAt s node j) r = true := by
  simp only [leavesOk, Bool.and_eq_true, List.all_eq_true] at h
  exact ⟨_, (h.1.2 j (List.mem_range.mpr hj)).1⟩

theorem walkNodes_aligned {s : State} {va fuel node : Nat} {l : Leaf} (h : walkNodes s va fuel node = .ok l) :
    l.base ≤ va ∧ l.base % 0x10000 = 0 ∧ (l.rdx = false → l.target % 0x10000 = 0) := by
  induction fuel generalizing node with
  | zero => cases h
  | succ fuel ih =>
    simp only [walkNodes] at h
    split at h
    · cases h
    split at h
    · split at h
      · cases h
      split at h
      · cases h
      split at h
      · exact ih h
      · cases h
    split at h
    · split at h
      · cases h
      next hok =>
      split at h
      · next j hj =>
        cases h
        have hlt := List.mem_range.mp (List.mem_of_find?_eq_some hj)
        have hin := List.find?_some hj
        simp only [Bool.and_eq_true, decide_eq_true_eq] at hin
        obtain ⟨r, hr⟩ := leavesOk_leaf (by simpa using hok) hlt
        exact ⟨hin.1, leafOk_aligned hr⟩
      · cases h
    · cases h

theorem radixPage_dvd (level : Nat) : 0x10000 ∣ radixPage level := by
  unfold radixPage
  split
  · decide
  · split <;> decide

theorem walkRadix_aligned {s : State} {o left t pa page : Nat} (h : walkRadix s o left t = .ok (pa, page)) :
    pa % 0x10000 = o % 0x10000 := by
  induction left generalizing t with
  | zero => cases h
  | succ left ih =>
    rw [walkRadix] at h
    generalize s.physNat _ 8 = e at h
    generalize e / 256 % 2 ^ 44 * 256 = adr at h
    generalize (if 3 - left = 1 then 4096 else 256) = align at h
    split at h
    · cases h
    split at h
    · cases h
    split at h
    · split at h
      · cases h
      next hadr =>
      simp only [Except.ok.injEq, Prod.mk.injEq] at h
      rw [← h.1]
      have hp := radixPage_dvd (3 - left)
      have hadr' := hp.trans (Nat.dvd_of_mod_eq_zero (by simpa using hadr))
      rw [Nat.add_mod, Nat.mod_eq_zero_of_dvd hadr', Nat.zero_add, Nat.mod_mod, Nat.mod_mod_of_dvd _ hp]
    split at h
    · cases h
    split at h
    · cases h
    · exact ih h

theorem walk_aligned {s : State} {c va : Nat} {w : Walked} (h : walk s c va = .ok w) : w.pa % 0x10000 = va % 0x10000 := by
  simp only [walk] at h
  split at h
  · cases h
  split at h
  · cases h
  next l hl =>
  obtain ⟨hle, hbase, htarget⟩ := walkNodes_aligned hl
  split at h
  · cases h
  next pa page hpa =>
  have hmod : pa % 0x10000 = (va - l.base) % 0x10000 := by
    split at hpa
    · exact walkRadix_aligned hpa
    · next hr =>
      cases hpa
      have := htarget (by simpa using hr)
      omega
  split at h
  · cases h
  split at h
  · cases h
  · cases h
    dsimp only
    omega

theorem permit_pa {k : Access} {pa pa' attr attr' : Nat} (h : permit k pa attr = .ok pa' attr') : pa' = pa := by
  cases k <;> simp only [permit] at h <;> grind

theorem translate_aligned {s : State} {c va pa attr : Nat} {k : Access} (h : translate s c va k = .ok pa attr) :
    pa % 0x10000 = va % 0x10000 := by
  unfold translate at h
  split at h
  · cases h
  · next w hw =>
    rw [permit_pa h]
    exact walk_aligned hw

/-! ### One line is served whole -/

theorem dieMemory_line (d : Nat) : Config.dieMemory d % 128 = 0 := by
  unfold Config.dieMemory
  split <;> rfl

/-- The bytes of a line stand at one home. -/
theorem Agent.remote_line {g : Agent} {pa attr i : Nat} (h : pa % 128 + i < 128) : g.remote (pa + i) attr = g.remote pa attr := by
  have hq : (pa + i) / 2 ^ 40 = pa / 2 ^ 40 := by omega
  have hdie := dieMemory_line (pa / 2 ^ 40)
  have hstorage : Config.deviceStorage (pa + i) = Config.deviceStorage pa := by
    unfold Config.deviceStorage
    rw [hq]
    congr 1
    rw [decide_eq_decide]
    omega
  rw [Agent.remote, Agent.remote, hstorage, Config.paDie, Config.paDie, hq]

/-- A byte that neither a copy nor another context's granule stands for is the view's (12 R318). -/
theorem State.serveByte_home {s : State} {g : Agent} {va pa attr : Nat} (hr : g.remote pa attr = false)
    (hf : s.foreign g.ctx pa = false) : s.serveByte g noOld va pa attr = s.readView (g.target va attr) pa := by
  simp only [State.serveByte, hr, Bool.false_and, if_neg Bool.false_ne_true, State.homeByte, hf, ite_self]
  rfl

/-- The part of a read in a line that is served at home. -/
theorem State.readLine_home {s : State} {g : Agent} {va pa attr m : Nat} (hm : pa % 128 + m ≤ 128) (hr : g.remote pa attr = false)
    (hf : ∀ i < m, s.foreign g.ctx (pa + i) = false) (h0 : 0 < m) :
    s.readLine g noOld va pa attr m = ((List.range m).map fun i => s.readView (g.target (va + i) attr) (pa + i),
      s.poisoned (g.target va attr) pa, s.allocate pa attr) := by
  have hbytes : (List.range m).map (fun i => s.serveByte g noOld (va + i) (pa + i) attr) =
      (List.range m).map fun i => s.readView (g.target (va + i) attr) (pa + i) := by
    refine List.map_congr_left fun i hi => ?_
    have hi := List.mem_range.mp hi
    exact State.serveByte_home ((Agent.remote_line (by omega)).trans hr) (hf i hi)
  have hf0 : s.foreign g.ctx pa = false := hf 0 h0
  simp only [State.readLine, hbytes, hr, hf0, Bool.false_and, if_neg Bool.false_ne_true]

/-- Reading a line whose bytes all lie in it. -/
theorem State.load_line {s : State} {g : Agent} {k : Access} {va n pa attr : Nat} (h0 : 0 < n) (hn : va % 128 + n ≤ 128)
    (ht : translateAs s g va k = .ok pa attr) :
    s.load g k va n = .done ((s.noteTlb g va).readLine g noOld va pa attr n).1 ((s.noteTlb g va).readLine g noOld va pa attr n).2.1
      ((s.noteTlb g va).readLine g noOld va pa attr n).2.2 := by
  have hin : inLine va n = n := by
    unfold inLine
    omega
  have h := serveRead_line (old := noOld) (fuel := n / 128 + 1) (n := n) (l := []) (p := false) h0.ne' ht
    (by rw [hin, Nat.sub_self]; rfl)
  rw [hin, List.append_nil, Bool.or_false] at h
  exact h

/-- A read that does not translate. -/
theorem State.load_failed {s : State} {g : Agent} {k : Access} {va n : Nat} {x : Tr} (h0 : 0 < n) (ht : translateAs s g va k = x)
    (hx : ∀ pa attr, x ≠ .ok pa attr) : s.load g k va n = .failed va x := by
  rw [State.load, lineFuel, serveRead, if_neg (by omega), ht]
  cases x with
  | ok pa attr => exact absurd rfl (hx pa attr)
  | tfault n => rfl
  | pfault n => rfl

/-! ### What a noted translation and an allocated line leave alone -/

theorem State.noteTlb_reads (s : State) (g : Agent) (va : Nat) :
    (∀ view pa, (s.noteTlb g va).readView view pa = s.readView view pa) ∧
    (∀ view pa, (s.noteTlb g va).poisoned view pa = s.poisoned view pa) ∧
    ∀ c pa, (s.noteTlb g va).foreign c pa = s.foreign c pa := by
  unfold State.noteTlb
  split
  · exact ⟨fun _ _ => rfl, fun _ _ => rfl, fun _ _ => rfl⟩
  · split
    · exact ⟨fun _ _ => rfl, fun _ _ => rfl, fun _ _ => rfl⟩
    · split
      · exact ⟨fun _ _ => rfl, fun _ _ => rfl, fun _ _ => rfl⟩
      · exact ⟨fun _ _ => rfl, fun _ _ => rfl, fun _ _ => rfl⟩

theorem State.allocate_readView (s : State) (pa attr view a : Nat) : (s.allocate pa attr).readView view a = s.readView view a := by
  unfold State.allocate
  split
  · rfl
  · unfold State.noteAllocated
    split <;> rfl

/-! ### The word at the pc -/

/-- A word that lies in one line is counted as one translation. -/
theorem State.countPages_line (s : State) {va n : Nat} (h0 : 0 < n) (hn : va % 128 + n ≤ 128) : s.countPages va n = s.countWalk va := by
  have h1 : (va % 0x10000 + n + 0xFFFF) / 0x10000 = 1 := by omega
  have hmax : max va ((va / 0x10000 + 0) * 0x10000) = va := by omega
  rw [State.countPages, rangePages, h1, List.range_one, List.map_singleton, hmax]
  rfl

theorem State.fetchWord_timed {s : State} (ht : s.timed = true) : s.fetchWord =
    if 0x10000 ≤ s.core.pc.toNat then .error ⟨5, 5, s.core.pc⟩
    else if s.core.pc.toNat / 4 ∈ s.core.codePoison then .error ⟨0x0C, 2, s.core.pc⟩
    else .ok (BitVec.ofNat 32 (leNat (takeBytes s.core.code s.core.pc.toNat 4)), s) := by
  simp only [State.fetchWord, ht, if_pos, Core.codeWord, List.contains_iff_mem]
  rfl

theorem State.fetchWord_failed {s : State} (ht : s.timed = false) {x : Tr} (h : translateAs s s.agent s.core.pc.toNat .fetch = x)
    (hx : ∀ pa attr, x ≠ .ok pa attr) : s.fetchWord = .error ⟨(trCause x).1, (trCause x).2, s.core.pc⟩ := by
  have hl : (s.countPages s.core.pc.toNat 4).load s.agent .fetch s.core.pc.toNat 4 = .failed s.core.pc.toNat x := by
    rw [s.countPages_eq]
    exact State.load_failed (by decide) ((translateAs_withTasks s _ _ _ _).trans h) hx
  simp only [State.fetchWord, ht, if_neg Bool.false_ne_true, hl, BitVec.ofNat_toNat, BitVec.setWidth_eq]

theorem State.translateAs_countWalk (s : State) (g : Agent) (a va : Nat) (k : Access) :
    translateAs (s.countWalk a) g va k = translateAs s g va k := by
  rw [s.countWalk_eq]
  exact translateAs_withTasks s _ g va k

/-- The state of a fetch whose translation has been counted and noted. -/
def State.fetchNoted (s : State) : State := (s.countWalk s.core.pc.toNat).noteTlb s.agent s.core.pc.toNat

/-- Counting and noting a translation leaves what is read. -/
theorem State.fetchNoted_reads (s : State) :
    (∀ view pa, s.fetchNoted.readView view pa = s.readView view pa) ∧
    (∀ view pa, s.fetchNoted.poisoned view pa = s.poisoned view pa) ∧
    ∀ c pa, s.fetchNoted.foreign c pa = s.foreign c pa := by
  have h := (s.countWalk s.core.pc.toNat).noteTlb_reads s.agent s.core.pc.toNat
  rw [← State.fetchNoted] at h
  rw [s.countWalk_eq] at h
  exact h

/-- The word of loose code, its address in one line that is served at home. -/
theorem State.fetchWord_line {s : State} (ht : s.timed = false) {pa attr : Nat}
    (h : translateAs s s.agent s.core.pc.toNat .fetch = .ok pa attr) (hpc : s.core.pc.toNat % 128 + 4 ≤ 128) (hpa : pa % 128 + 4 ≤ 128)
    (hr : s.agent.remote pa attr = false) (hf : ∀ i < 4, s.foreign s.task.ctx (pa + i) = false) :
    ∃ s1, s.fetchWord = (if s.poisoned (s.agent.target s.core.pc.toNat attr) pa || s.core.codePoison.contains (0x10000 + s.core.pc.toNat / 4)
        then .error ⟨0x0C, 2, s.core.pc⟩
        else .ok (BitVec.ofNat 32 (leNat ((List.range 4).map fun i =>
          s.readView (s.agent.target (s.core.pc.toNat + i) attr) (pa + i))), s1)) ∧
      SameMemory s s1 ∧ s1.cur = s.cur ∧ s1.turn = s.turn ∧ CountsOnly s s1 [0x0B, 0x0C] ∧
      s1.core = { s.core with hpc := s1.core.hpc, hpcNow := s1.core.hpcNow } := by
  obtain ⟨hview, hpoison, hforeign⟩ := s.fetchNoted_reads
  have hout : SameOutside (s.countWalk s.core.pc.toNat) (s.fetchNoted.allocate pa attr) :=
    (State.noteTlb_outside _ _ _).trans (s.fetchNoted.allocate_outside _ _)
  have hload : (s.countPages s.core.pc.toNat 4).load s.agent .fetch s.core.pc.toNat 4 =
      .done ((List.range 4).map fun i => s.readView (s.agent.target (s.core.pc.toNat + i) attr) (pa + i))
        (s.poisoned (s.agent.target s.core.pc.toNat attr) pa) (s.fetchNoted.allocate pa attr) := by
    rw [s.countPages_line (by decide) hpc, State.load_line (by decide) hpc ((s.translateAs_countWalk _ _ _ _).trans h),
      ← State.fetchNoted, State.readLine_home hpa hr (fun i hi => (hforeign _ _).trans (hf i hi)) (by decide)]
    simp only [hview, hpoison]
  obtain ⟨hcore, hcounts⟩ := s.countWalk_core s.core.pc.toNat
  refine ⟨s.fetchNoted.allocate pa attr, ?_, fun view a _ => ?_, ?_, ?_, ?_, ?_⟩
  · simp only [State.fetchWord, ht, if_neg Bool.false_ne_true, hload]
  · rw [State.allocate_readView, hview]
  · rw [hout.cur, s.countWalk_eq]
  · rw [hout.turn, s.countWalk_eq]
  · rw [CountsOnly, hout.core]
    exact hcounts
  · rw [hout.core]
    exact hcore

end Sys2Proof.Machine
end

section
/-!
PROOF. The step as a whole (02 R44, R61, 17 R382, R383). Its clause about the word of loose code depends on a free value: a TLB may keep
an entry whose physical address stands in another place of its line than the virtual one, so that the word's bytes lie on two dies, and
whether a kept entry is used is free (notes/assumptions/16.md). The obligation holds exactly where no kept entry ever is.
-/

namespace Sys2Proof.Machine

/-! ### The clauses in which no TLB takes part -/

/-- A core that issues runs what its fetch gives (02 R44). -/
theorem step_issue {s u : State} {f : Focus} {tn : Turn} {rest : List (Focus × Turn)} (hon : s.power = .on)
    (h : s.turn = (f, tn) :: rest) (hu : u = { s with cur := f, turn := rest }) (ht : tn = .issue) :
    step s = State.perform u.fetch := by
  rw [step_turn hon h, ← hu, ht]
  rfl

theorem step_issue_waits {s u : State} (h : step s = State.perform u.fetch) (hw : u.fetchWaits = true) :
    ∃ t, step s = .next t ∧ TriesLater u t .stores :=
  ⟨_, by rw [h, State.fetch_of_waits hw]; rfl, u.triesLater_tryLater _⟩

theorem step_issue_error {s u : State} {e : Trapped} (h : step s = State.perform u.fetch) (hw : u.fetchWaits = false)
    (he : u.fetchWord = .error e) : ∃ t, step s = .next t ∧
      if u.timed then Traps u t e.cause e.sub e.tval else TrapsWalked u t e.cause e.sub e.tval := by
  refine ⟨_, by rw [h, State.fetch_of_error hw he]; rfl, ?_⟩
  cases ht : u.timed with
  | true => exact u.raise_spec _ _ _
  | false => exact u.trapsWalked_countWalk _ _ _ _ ht

theorem step_issue_word {s u s1 : State} {w : Word32} (h : step s = State.perform u.fetch) (hw : u.fetchWaits = false)
    (hok : u.fetchWord = .ok (w, s1)) :
    (decode w = none → step s = exec (.illegalInstruction w) s1) ∧
    ∀ i, decode w = some i →
      ((∀ r ∈ sources i, r.toNat ∉ s1.core.regPoison) ∨ s1.engineRefused i = true ∨ s1.modeRefused i = true →
        step s = exec i s1) ∧
      ∀ r, s1.engineRefused i = false → s1.modeRefused i = false →
        (sources i).find? (fun r => s1.core.regPoison.contains r.toNat) = some r →
        ∃ t, step s = .next t ∧ Traps s1 t 0x0C 7 (r.setWidth 64) := by
  refine ⟨fun hd => ?_, fun i hd => ⟨fun hi => ?_, fun r he hm hr => ⟨_, ?_, s1.raise_spec _ _ _⟩⟩⟩
  · rw [h, State.fetch_of_none hw hok hd]
    rfl
  · rw [h, State.fetch_of_some hw hok hd, State.admitRead_runs hi]
    rfl
  · rw [h, State.fetch_of_some hw hok hd, State.admitRead_stops he hm hr]
    rfl

/-- The order of what the schedule puts next (5.md). -/
theorem State.schedule_order (s : State) (h : ∀ p ∈ s.tasks, p.2.region.opened = false) :
    let onTask := fun (i : Nat) => ({ s with cur := { task := i } } : State)
    (∀ m, s.groupMove = some m → s.schedule = m) ∧
    (s.groupMove = none → (∀ m, s.inboxMove = some m → s.schedule = m) ∧
      (s.inboxMove = none → (∀ m, s.throttleMove = some m → s.schedule = m) ∧
        (s.throttleMove = none →
          (∀ pre i u post m, s.tasks = pre ++ (i, u) :: post → (∀ x ∈ pre, (onTask x.1).taskMove = none) →
            (onTask i).taskMove = some m → s.schedule = m) ∧
          ((∀ x ∈ s.tasks, (onTask x.1).taskMove = none) →
            (∀ m, s.distributorMove = some m → s.schedule = m) ∧
            (s.distributorMove = none → (∀ m, s.messageMove = some m → s.schedule = m) ∧
              (s.messageMove = none → (∀ m, s.groupClose = some m → s.schedule = m) ∧
                (s.groupClose = none → s.schedule = { s with turn := [(s.cur, .phase .tick)] }))))))) := by
  intro onTask
  rw [State.schedule_idle h]
  refine ⟨fun m hm => by rw [hm]; rfl, fun hg => ⟨fun m hm => by rw [hg, hm]; rfl, fun hi => ⟨fun m hm => by rw [hg, hi, hm]; rfl,
    fun ht => ⟨fun pre i u post m heq hpre hm => ?_, fun htask => ?_⟩⟩⟩⟩
  · have hfirst : (s.tasks.findSome? fun x => (s.onTask x.1).taskMove) = some m := by
      have hp : (pre.findSome? fun x => (s.onTask x.1).taskMove) = none := List.findSome?_eq_none_iff.mpr hpre
      have hm : (s.onTask i).taskMove = some m := hm
      rw [heq, List.findSome?_append, hp, Option.none_or, List.findSome?_cons, hm]
    rw [hg, hi, ht, hfirst]
    rfl
  · have hnone : (s.tasks.findSome? fun x => (s.onTask x.1).taskMove) = none := List.findSome?_eq_none_iff.mpr htask
    rw [hg, hi, ht, hnone]
    exact ⟨fun m hm => by rw [hm]; rfl, fun hd => ⟨fun m hm => by rw [hd, hm]; rfl, fun hm' => ⟨fun m hm => by rw [hd, hm', hm]; rfl,
      fun hc => by rw [hd, hm', hc]; rfl⟩⟩⟩

/-! ### The word of loose code -/

/-- Where no kept entry is used, an address is translated by a walk. -/
theorem translateAs_of_noHit {s : State} {g : Agent} {va : Nat} {k : Access} (h : ∀ n, Config.freeBool n = false) :
    translateAs s g va k = translate s g.ctx va k := by
  have hn : s.tlbHit g va = none := by
    rw [State.tlbHit]
    split
    · rw [h, if_neg Bool.false_ne_true]
    · rfl
  rw [translateAs, hn]

/-- Every clause holds where no kept TLB entry is used: a walk keeps an address's place in its line. -/
theorem stepRunsDecoded_of_noHit (hfree : ∀ n, Config.freeBool n = false) : Obligations.StepRunsDecoded := by
  unfold Obligations.StepRunsDecoded
  refine fun s => ⟨fun f tn rest u hon h hu => ⟨fun ht hw => step_issue_waits (step_issue hon h hu ht) hw,
      fun ht hw w s1 hok => step_issue_word (step_issue hon h hu ht) hw hok,
      fun ht hw e he => step_issue_error (step_issue hon h hu ht) hw he, fun i ht hg => ?event, fun p ht => ?phase⟩,
    step_schedule, ⟨fun p hp => ?opened, s.schedule_order⟩, ?resets, ?held, ?removed, State.fetchWord_timed, fun hl x hx => ?loose⟩
  case event =>
    rw [step_turn hon h, ← hu, ht]
    exact congrArg State.perform (State.admitEvent_runs i hg)
  case phase =>
    rw [step_turn hon h, ← hu, ht]
    rfl
  case opened =>
    rw [State.schedule, hp]
    rfl
  case resets =>
    intro hp hr
    cases hpower : s.power with
    | on => exact absurd hpower hp
    | held => simp only [step, hpower, hr, if_pos]
    | removed => simp only [step, hpower, hr, if_pos]
  case held => exact fun hp hr => by simp only [step, hp, hr, if_neg Bool.false_ne_true]
  case removed => exact fun hp hr => by simp only [step, hp, hr, if_neg Bool.false_ne_true]
  case loose =>
    cases x with
    | tfault n => exact State.fetchWord_failed hl hx (by simp)
    | pfault n => exact State.fetchWord_failed hl hx (by simp)
    | ok pa attr =>
      dsimp only
      intro hpc hr hf
      have hpa := translate_aligned ((translateAs_of_noHit hfree).symm.trans hx)
      obtain ⟨s1, hword, hs1⟩ := State.fetchWord_line hl hx hpc (by omega) hr hf
      have hbad : (s.poisoned (s.agent.target s.core.pc.toNat attr) pa || s.core.codePoison.contains (0x10000 + s.core.pc.toNat / 4)) =
          true ↔ s.poisoned (s.agent.target (s.core.pc.toNat + 0) attr) pa = true ∨ 0x10000 + s.core.pc.toNat / 4 ∈ s.core.codePoison := by
        rw [Bool.or_eq_true, List.contains_iff_mem]
        rfl
      split
      · next hp => rw [hword, if_pos (hbad.mpr hp)]
      · next hp => exact ⟨s1, by rw [hword, if_neg (hp ∘ hbad.mp)], hs1⟩

/-- Loose code whose kept translation of the pc ends in the last byte of die 0, a copy of the next die's first line beside it. -/
def astride (n : Nat) : State :=
  { State.reset with
    fresh := n
    contexts := [(0, { tlb := [⟨1, 0, 0x10000, 2 ^ 40 - 1, 0x14⟩] })]
    copies := [{ die := 0, line := 2 ^ 33, bytes := [(0, 9)], dirty := 0 }] }

theorem astride_translates {n : Nat} (h : Config.freeBool n = true) :
    translateAs (astride n) (astride n).agent (astride n).core.pc.toNat .fetch = .ok (2 ^ 40 - 1) 0x14 := by
  have hfree : Config.freeBool ((astride n).fresh + 0) = true := h
  have hit : (astride n).tlbHit (astride n).agent (astride n).core.pc.toNat = some ⟨1, 0, 0x10000, 2 ^ 40 - 1, 0x14⟩ := by
    unfold State.tlbHit
    rw [show ((if (astride n).agent.unit = 0 then [] else ((astride n).ctx (astride n).agent.ctx).tlb).find? fun e =>
      e.unit == (astride n).agent.unit && decide (e.base ≤ (astride n).core.pc.toNat) &&
        decide ((astride n).core.pc.toNat < e.base + e.size)) = some ⟨1, 0, 0x10000, 2 ^ 40 - 1, 0x14⟩ from rfl]
    exact if_pos hfree
  rw [translateAs, hit]
  rfl

/-- The word's bytes, the second of them in the copy. -/
theorem astride_bytes (n : Nat) : (List.range 4).map (fun i =>
    (astride n).serveByte (astride n).agent noOld ((astride n).core.pc.toNat + i) (2 ^ 40 - 1 + i) 0x14) = [0, 9, 0, 0] := rfl

theorem State.noteTlb_serveByte (s : State) (g h : Agent) (va : Nat) (old : Old) (a pa attr : Nat) :
    (s.noteTlb g va).serveByte h old a pa attr = s.serveByte h old a pa attr := by
  unfold State.noteTlb
  split
  · rfl
  split
  · rfl
  split
  · rfl
  · rfl

/-- Counting and noting a translation changes no byte that is served. -/
theorem State.fetchNoted_serveByte (s : State) (g : Agent) (old : Old) (a pa attr : Nat) :
    s.fetchNoted.serveByte g old a pa attr = s.serveByte g old a pa attr := by
  rw [State.fetchNoted, State.noteTlb_serveByte, s.countWalk_eq]
  rfl

theorem astride_fetchWord {n : Nat} (h : Config.freeBool n = true) :
    ∃ s1, (astride n).fetchWord = .ok (BitVec.ofNat 32 (leNat [0, 9, 0, 0]), s1) := by
  have hpc : (astride n).core.pc.toNat % 128 + 4 ≤ 128 := show 0 % 128 + 4 ≤ 128 by decide
  have hload := State.load_line (by decide) hpc (((astride n).translateAs_countWalk _ (astride n).core.pc.toNat _ _).trans (astride_translates h))
  rw [← State.fetchNoted, ← State.countPages_line _ (by decide) hpc] at hload
  generalize hr : (astride n).fetchNoted.readLine (astride n).agent noOld (astride n).core.pc.toNat (2 ^ 40 - 1) 0x14 4 = r at hload
  have hbytes : r.1 = [0, 9, 0, 0] := by
    rw [← hr, ← astride_bytes n]
    exact List.map_congr_left fun i _ => (astride n).fetchNoted_serveByte _ _ _ _ _
  have hgood : r.2.1 = false := by
    have hhome : (astride n).agent.remote (2 ^ 40 - 1) 0x14 = false := rfl
    rw [← hr]
    simp only [State.readLine, hhome, if_neg Bool.false_ne_true, (astride n).fetchNoted_reads.2.1]
    rfl
  refine ⟨r.2.2, ?_⟩
  rw [State.fetchWord, if_neg (show (astride n).timed ≠ true from Bool.false_ne_true), hload, hbytes, hgood]
  rfl

/-- Where a kept entry may be used, the word's bytes may lie on two dies: the clause of loose code fails. -/
theorem not_stepRunsDecoded_of_hit {n : Nat} (h : Config.freeBool n = true) : ¬ Obligations.StepRunsDecoded := by
  unfold Obligations.StepRunsDecoded
  intro hall
  obtain ⟨-, -, -, -, -, -, -, hloose⟩ := hall (astride n)
  have hword := hloose rfl _ (astride_translates h) (show 0 % 128 + 4 ≤ 128 by decide) rfl fun _ _ => rfl
  dsimp only at hword
  have hclean : ¬ ((astride n).poisoned ((astride n).agent.target ((astride n).core.pc.toNat + 0) 0x14) (2 ^ 40 - 1) = true ∨
      0x10000 + (astride n).core.pc.toNat / 4 ∈ (astride n).core.codePoison) := not_or.mpr ⟨Bool.false_ne_true, List.not_mem_nil⟩
  rw [if_neg hclean] at hword
  obtain ⟨s1, hs1, -⟩ := hword
  obtain ⟨s2, hs2⟩ := astride_fetchWord h
  have hzero : (List.range 4).map (fun i => (astride n).readView ((astride n).agent.target ((astride n).core.pc.toNat + i) 0x14)
      (2 ^ 40 - 1 + i)) = [0, 0, 0, 0] := rfl
  rw [hzero] at hs1
  have heq := (Prod.mk.inj (Except.ok.inj (hs2.symm.trans hs1))).1
  exact absurd heq (by decide)

/-- What O58 comes to: no kept TLB entry is ever used. `Config.freeBool` has no body, so that neither side has a proof. -/
theorem stepRunsDecoded_iff : Obligations.StepRunsDecoded ↔ ∀ n, Config.freeBool n = false := by
  refine ⟨fun h n => ?_, stepRunsDecoded_of_noHit⟩
  rw [← Bool.not_eq_true]
  exact fun hn => not_stepRunsDecoded_of_hit hn h

end Sys2Proof.Machine
end

section
/-!
PROOF. The part after power-on reset (05 R159, 10 R286, 02 R50).
-/

namespace Sys2Proof.Machine

theorem State.reset_inv : State.reset.Inv := by
  refine ⟨Memory.wf_reset, ?_, rfl⟩
  rintro b ⟨⟩

/-- The registers of a core that no unit has written read 0 (02 R48). -/
theorem Core.rx_default (r : Reg) : ({} : Core).rx r = 0 := by
  unfold Core.rx
  split
  · rfl
  · exact Vector.getElem_replicate ..

/-- Settles O60. -/
theorem resetHolds : Obligations.ResetHolds := by
  unfold Obligations.ResetHolds
  refine ⟨State.reset_inv, rfl, rfl, rfl, rfl, rfl, rfl, fun _ => rfl, Core.rx_default, ?_⟩
  decide

end Sys2Proof.Machine
end

section
/-!
PROOF. The part of the state that the invariant of O59 speaks of: memory, what a trap takes back, and slidemax. This section says what is
asked of that part, and that every operation, instruction and move of the schedule that writes none of the three leaves it alone: one
lemma per function of the model, in the model's order.
-/

namespace Sys2Proof.Machine

/-- The part of the state that the invariant speaks of. -/
def State.kept (s : State) : List Host.Cell × Option Before × Nat := (s.mem, s.pre, s.slidemax)

@[simp] theorem State.kept_mk (a1 a2 a3 a4 a5 a6 a7 a8 a9 a10 a11 a12 a13 a14 a15 a16 a17 a18 a19 a20 a21 a22 a23 a24 a25 a26 a27 a28 a29 a30 a31 a32 a33 a34 a35 a36 a37 a38 a39 a40 a41) :
    (State.mk a1 a2 a3 a4 a5 a6 a7 a8 a9 a10 a11 a12 a13 a14 a15 a16 a17 a18 a19 a20 a21 a22 a23 a24 a25 a26 a27 a28 a29 a30 a31 a32 a33 a34 a35 a36 a37 a38 a39 a40 a41).kept = (a13, a39, a2) := (rfl)

@[simp] theorem State.kept_eta (s : State) : (s.mem, s.pre, s.slidemax) = s.kept := (rfl)

/-- What the invariant asks of the part that it speaks of. -/
def KeptInv (k : List Host.Cell × Option Before × Nat) : Prop :=
  Memory.wf k.1 = true ∧ (∀ b, k.2.1 = some b → Memory.wf b.mem = true) ∧ slidemaxOk k.2.2 = true

/-- A meaning keeps the invariant. -/
def Safe (s : State) (o : Answer) : Prop := ∀ t, o = .next t → KeptInv s.kept → KeptInv t.kept

@[simp] theorem safe_next (s t : State) : Safe s (.next t) ↔ (KeptInv s.kept → KeptInv t.kept) :=
  ⟨fun h => h t rfl, fun h u hu => by cases hu; exact h⟩

theorem foldl_kept {α : Type} (f : State → α → State) (h : ∀ s a, (f s a).kept = s.kept) (l : List α) (s : State) :
    (l.foldl f s).kept = s.kept := by
  induction l generalizing s with
  | nil => rfl
  | cons a l ih => rw [List.foldl_cons, ih, h]

theorem kept_of_outside {s t : State} (h : SameOutside s t) (hm : t.mem = s.mem) : t.kept = s.kept := by
  simp only [State.kept, hm, h.pre, h.slidemax]

/-- What may come next in a schedule keeps what the invariant speaks of. -/
def Moves (s : State) (o : Option State) : Prop := ∀ t, o = some t → t.kept = s.kept

@[simp] theorem moves_none (s : State) : Moves s none := fun _ h => nomatch h

@[simp] theorem moves_some (s t : State) : Moves s (some t) ↔ t.kept = s.kept :=
  ⟨fun h => h t rfl, fun h u hu => by cases hu; exact h⟩

@[simp] theorem Moves.or {s : State} {o p : Option State} (h : Moves s o) (hp : Moves s p) : Moves s (o.or p) := by
  cases o with
  | none => exact hp
  | some t => exact h

@[simp] theorem Moves.bind {s : State} {α : Type} {o : Option α} {f : α → Option State} (h : ∀ a, Moves s (f a)) : Moves s (o.bind f) := by
  cases o with
  | none => exact moves_none s
  | some a => exact h a

@[simp] theorem Moves.map {s : State} {α : Type} {o : Option α} {f : α → State} (h : ∀ a, (f a).kept = s.kept) : Moves s (o.map f) := by
  cases o with
  | none => exact moves_none s
  | some a => exact (moves_some _ _).2 (h a)

theorem Moves.findSome? {s : State} {α : Type} {f : α → Option State} (h : ∀ a, Moves s (f a)) (l : List α) : Moves s (l.findSome? f) := by
  intro t ht
  obtain ⟨a, _, ha⟩ := List.exists_of_findSome?_eq_some ht
  exact h a t ha

/-! ### The memory system -/

@[simp] theorem State.setDie_kept (s : State) (d : Nat) (v : Die) : (s.setDie d v).kept = s.kept := (rfl)

@[simp] theorem State.setCtx_kept (s : State) (c : Nat) (v : Context) : (s.setCtx c v).kept = s.kept := (rfl)

@[simp] theorem State.noteTlb_kept (s : State) (g : Agent) (va : Nat) : (s.noteTlb g va).kept = s.kept := by
  unfold State.noteTlb
  dsimp only
  repeat' split
  all_goals simp

@[simp] theorem State.putVersion_kept (s : State) (v : Version) : (s.putVersion v).kept = s.kept := (rfl)

@[simp] theorem State.chargeLevel_kept (s : State) (c k level : Nat) : (s.chargeLevel c k level).kept = s.kept := (rfl)

@[simp] theorem State.saveSystem_kept (s : State) (line : Nat) : (s.saveSystem line).kept = s.kept := by
  simp only [State.saveSystem]
  repeat' split
  all_goals simp

@[simp] theorem State.saveShadows_kept (s : State) (line tv : Nat) : (s.saveShadows line tv).kept = s.kept := by
  unfold State.saveShadows
  dsimp only
  repeat' split
  all_goals simp

@[simp] theorem State.raiseVector_kept (s : State) (fn vec : Nat) : (s.raiseVector fn vec).kept = s.kept := (rfl)

@[simp] theorem State.rasLog_kept (s : State) (r : Ras) : (s.rasLog r).kept = s.kept := (rfl)

@[simp] theorem State.logForeign_kept (s : State) (ctx pa va : Nat) : (s.logForeign ctx pa va).kept = s.kept := (rfl)

@[simp] theorem State.dropOld_kept (s : State) (copy : Option Nat) (view pa n : Nat) : (s.dropOld copy view pa n).kept = s.kept := (rfl)

@[simp] theorem State.dropCopy_kept (s : State) (die line : Nat) : (s.dropCopy die line).kept = s.kept := (rfl)

@[simp] theorem State.putCopy_kept (s : State) (c : CopyLine) : (s.putCopy c).kept = s.kept := (rfl)

@[simp] theorem State.noteAllocated_kept (s : State) (line : Nat) : (s.noteAllocated line).kept = s.kept := by
  unfold State.noteAllocated
  split <;> simp

@[simp] theorem State.fillCopy_kept (s : State) (die line : Nat) (reads : Option Nat) : (s.fillCopy die line reads).kept = s.kept := by
  simp [State.fillCopy]

@[simp] theorem State.allocate_kept (s : State) (pa attr : Nat) : (s.allocate pa attr).kept = s.kept := by
  unfold State.allocate
  split <;> simp

@[simp] theorem State.readLine_kept (s : State) (g : Agent) (old : Old) (va pa attr m : Nat) :
    (s.readLine g old va pa attr m).2.2.kept = s.kept := kept_of_outside (s.readLine_outside _ _ _ _ _ _) (s.readLine_mem _ _ _ _ _ _)

theorem serveRead_kept {g : Agent} {k : Access} {old : Old} {n : Nat} {s : State} {va m : Nat} {b : List Byte} {p : Bool} {t : State}
    (h : serveRead g k old n s va m = .done b p t) : t.kept = s.kept :=
  kept_of_outside (serveRead_outside _ _ _ _ _ _ _ _ _ _ h) (serveRead_mem _ _ _ _ _ _ _ _ _ _ h)

/-! ### Named operations over the running core and its region -/

@[simp] theorem State.setTask_kept (s : State) (t : Task) : (s.setTask t).kept = s.kept := (rfl)

@[simp] theorem State.setCore_kept (s : State) (c : Core) : (s.setCore c).kept = s.kept := (rfl)

@[simp] theorem State.setCoreAt_kept (s : State) (k : Nat) (c : Core) : (s.setCoreAt k c).kept = s.kept := (rfl)

@[simp] theorem State.setRegion_kept (s : State) (r : Region) : (s.setRegion r).kept = s.kept := (rfl)

@[simp] theorem State.at'_kept (s : State) (k : Nat) : (s.at' k).kept = s.kept := (rfl)

@[simp] theorem State.ask_kept (s : State) (c : Nat) : (s.ask c).kept = s.kept := by
  unfold State.ask
  dsimp only
  split <;> simp

@[simp] theorem State.wx_kept (s : State) (r : Reg) (v : Word) : (s.wx r v).kept = s.kept := (rfl)

@[simp] theorem State.post_kept (s : State) (p : Pend) : (s.post p).kept = s.kept := (rfl)

@[simp] theorem State.newUid_kept (s : State) : (s.newUid).2.kept = s.kept := (rfl)

@[simp] theorem State.phaseIn_kept (s : State) (n rank : Nat) (key : List Nat) (p : Phase) : (s.phaseIn n rank key p).kept = s.kept := (rfl)

@[simp] theorem State.deliver_kept (s : State) (d : Reg) (v : Word) (latency : Nat) : (s.deliver d v latency).kept = s.kept := by
  simp only [State.deliver]
  repeat' split
  all_goals simp

@[simp] theorem State.faultTask_kept (s : State) (f : FaultInfo) : (s.faultTask f).kept = s.kept := (rfl)

@[simp] theorem State.logPoison_kept (s : State) (sub : Nat) (tval : Word) : (s.logPoison sub tval).kept = s.kept := by
  unfold State.logPoison
  dsimp only
  repeat' split
  all_goals simp

@[simp] theorem State.takeTrapAt_kept (s : State) (cause sub : Nat) (tval epc : Word) :
    (s.takeTrapAt cause sub tval epc).kept = s.kept := by
  unfold State.takeTrapAt
  dsimp only
  repeat' split
  all_goals simp

@[simp] theorem State.takeTrap_kept (s : State) (cause sub : Nat) (tval : Word) : (s.takeTrap cause sub tval).kept = s.kept := by
  simp [State.takeTrap]

@[simp] theorem State.trapUnit_kept (s : State) (unit cause sub : Nat) (tval epc : Word) (by' : Nat) :
    (s.trapUnit unit cause sub tval epc by').kept = s.kept := (rfl)

@[simp] theorem State.raise_kept (s : State) (cause sub : Nat) (tval : Word) : (s.raise cause sub tval).kept = s.kept := by
  unfold State.raise
  split <;> simp

@[simp] theorem State.raiseFor_kept (s : State) (cause sub : Nat) (tval epc : Word) : (s.raiseFor cause sub tval epc).kept = s.kept := by
  unfold State.raiseFor
  split <;> simp

@[simp] theorem State.returnTrap_kept (s : State) : s.returnTrap.kept = s.kept := (rfl)

@[simp] theorem State.illegal_kept (s : State) (tval : Word) : (s.illegal tval).kept = s.kept := by
  simp [State.illegal]

@[simp] theorem State.illegalMode_kept (s : State) (i : Instr) : (s.illegalMode i).kept = s.kept := by
  simp [State.illegalMode]

@[simp] theorem State.needTimed_safe {s t : State} (i : Instr) (h : t.kept = s.kept) : Safe s (s.needTimed i t) := by
  unfold State.needTimed
  split <;> simp [h]

@[simp] theorem State.needLoose_safe {s t : State} (i : Instr) (h : t.kept = s.kept) : Safe s (s.needLoose i t) := by
  unfold State.needLoose
  split <;> simp [h]

/-! ### Performance counters and the signature -/

@[simp] theorem State.count_kept (s : State) (ev n : Nat) : (s.count ev n).kept = s.kept := by
  unfold State.count
  split <;> simp

@[simp] theorem State.issueAfter_kept (s : State) (n : Nat) : (s.issueAfter n).kept = s.kept := by
  unfold State.issueAfter
  split <;> simp

@[simp] theorem State.finish_kept (s : State) (n : Nat) : (s.finish n).kept = s.kept := by
  simp [State.finish]

@[simp] theorem State.jumpTo_kept (s : State) (t : Word) (n : Nat) : (s.jumpTo t n).kept = s.kept := by
  simp [State.jumpTo]

@[simp] theorem State.tryLater_kept (s : State) (w : Wait) : (s.tryLater w).kept = s.kept := (rfl)

/-! ### Rings -/

@[simp] theorem State.ringWrite_kept (s : State) (unit : Nat) (w : RingWrite) : (s.ringWrite unit w).kept = s.kept := by
  unfold State.ringWrite
  dsimp only
  repeat' split
  all_goals simp

@[simp] theorem State.checkAgain_kept (s : State) (unit k : Nat) (spans : List (Nat × Nat)) (pc : Word) (by' : Nat) :
    (s.checkAgain unit k spans pc by').kept = s.kept := by
  unfold State.checkAgain
  dsimp only
  split <;> simp

@[simp] theorem phaseEarlyCheck_kept (unit : Nat) (spans : List (Nat × Nat)) (pc : Word) (by' : Nat) (s : State) :
    (phaseEarlyCheck unit spans pc by' s).kept = s.kept := by
  unfold phaseEarlyCheck
  split <;> simp

@[simp] theorem State.sampled_kept {s t : State} (unit a n : Nat) (pc : Word) (by' : Nat) (h : t.kept = s.kept) :
    (s.sampled unit a n pc by' t).kept = s.kept := by
  unfold State.sampled
  split
  · simp
  · split <;> simp [h]

@[simp] theorem State.descAddr_kept {s t : State} (a : Word) (align size : Nat) (h : t.kept = s.kept) :
    (s.descAddr a align size t).kept = s.kept := by
  unfold State.descAddr
  split
  · simp
  · split <;> simp [h]

@[simp] theorem execRingcfg_safe (a n : Reg) (s : State) : Safe s (execRingcfg a n s) := by
  simp [execRingcfg]

@[simp] theorem phaseRingSample_kept (n a : Nat) (pc : Word) (s : State) : (phaseRingSample n a pc s).kept = s.kept := by
  simp [phaseRingSample, apply_ite State.kept]

@[simp] theorem phaseRingQuiet_kept (n : Nat) (pc : Word) (s : State) : (phaseRingQuiet n pc s).kept = s.kept := by
  unfold phaseRingQuiet
  dsimp only
  split <;> simp

@[simp] theorem phaseRingApply_kept (n base slot count : Nat) (s : State) : (phaseRingApply n base slot count s).kept = s.kept := (rfl)

@[simp] theorem execRingq_safe (d n : Reg) (sel : BitVec 3) (s : State) : Safe s (execRingq d n sel s) := by
  unfold execRingq
  split <;> simp

@[simp] theorem phaseRingCount_kept (d : Reg) (n sel : Nat) (s : State) : (phaseRingCount d n sel s).kept = s.kept := by
  simp [phaseRingCount]

@[simp] theorem execErchkOn_safe (a b : Reg) (s : State) : Safe s (execErchkOn a b s) := by
  unfold execErchkOn
  dsimp only
  split <;> simp

@[simp] theorem execErchkOff_safe (s : State) : Safe s (execErchkOff s) := by
  simp [execErchkOff]

/-! ### Links and chains -/

@[simp] theorem State.setChain_kept (s : State) (uid : Nat) (c : Chain) : (s.setChain uid c).kept = s.kept := (rfl)

@[simp] theorem State.chainTrap_kept (s : State) (c : Chain) (sub : Nat) (tval : Nat) : (s.chainTrap c sub tval).kept = s.kept := (rfl)

@[simp] theorem State.askComplete_kept (s : State) (slot : Nat) : (s.askComplete slot).kept = s.kept := (rfl)

@[simp] theorem State.contribute_kept (s : State) (slot : Nat) (scalar : Bool) (pc : Word) (by' : Nat) {enter : Link → Chain → State}
    (h : ∀ l c, (enter l c).kept = s.kept) : (s.contribute slot scalar pc by' enter).kept = s.kept := by
  unfold State.contribute
  dsimp only
  repeat' split
  all_goals simp [h]

@[simp] theorem State.tell_kept (s : State) (n : Nat) (i : Instr) : (s.tell n i).kept = s.kept := (rfl)

@[simp] theorem State.tellHosts_kept (s : State) (c : Chain) (i : Instr) : (s.tellHosts c i).kept = s.kept := by
  have h : ∀ (l : List Hop) (acc : List Nat × State), (l.foldl (fun (acc : List Nat × State) h =>
      if h.core < farCore || acc.1.contains (s.packageOf h.core) then acc
      else (s.packageOf h.core :: acc.1, acc.2.tell (h.core - farCore) i)) acc).2.kept = acc.2.kept := by
    intro l
    induction l with
    | nil => exact fun _ => rfl
    | cons a l ih =>
      intro acc
      rw [List.foldl_cons, ih]
      split <;> simp
  exact h _ _

@[simp] theorem State.sendHop_kept (s : State) (uid : Nat) (c : Chain) (k : Nat) (p : Partial) : (s.sendHop uid c k p).kept = s.kept := by
  unfold State.sendHop
  dsimp only
  repeat' split
  all_goals simp

@[simp] theorem phaseLinkComplete_kept (slot : Nat) (s : State) : (phaseLinkComplete slot s).kept = s.kept := by
  unfold phaseLinkComplete
  dsimp only
  repeat' split
  all_goals simp

@[simp] theorem execHopPerform_safe (uid hop slot : Nat) (p : Partial) (s : State) : Safe s (execHopPerform uid hop slot p s) := by
  unfold execHopPerform
  dsimp only
  repeat' split
  all_goals simp

@[simp] theorem State.newChain_kept (s : State) : (s.newChain).2.kept = s.kept := (rfl)

@[simp] theorem State.configure_kept (s : State) (c : Chain) (h : Hop) (at' : Nat) (i : Option ChainMsg → Instr) (pc : Word) (by' : Nat) (all : Bool) :
    (s.configure c h at' i pc by' all).kept = s.kept := by
  unfold State.configure
  dsimp only
  repeat' split
  all_goals simp

@[simp] theorem execChbuild_safe (i : BitVec 8) (a : Reg) (s : State) : Safe s (execChbuild i a s) := by
  simp [execChbuild]

@[simp] theorem phaseChainSample_kept (id a : Nat) (pc : Word) (s : State) : (phaseChainSample id a pc s).kept = s.kept := by
  unfold phaseChainSample
  split
  · simp
  · split
    · simp
    · dsimp only
      rw [foldl_kept _ fun s p => by split <;> simp, State.setChain_kept, State.newChain_kept]

@[simp] theorem State.resend_kept (s : State) (uid : Nat) (c : Chain) (hop : Nat) : (s.resend uid c hop).kept = s.kept := by
  simp only [State.resend]
  repeat' split
  all_goals simp

@[simp] theorem State.splice_kept (s : State) (uid : Nat) (c : Chain) (hop slot : Nat) : (s.splice uid c hop slot).kept = s.kept := by
  unfold State.splice
  dsimp only
  rw [foldl_kept _ fun s h => by simp]
  simp

@[simp] theorem execChainConfigArrival_safe (uid hop slot : Nat) (residual : Bool) (splice : Arrival) (s : State) :
    Safe s (execChainConfigArrival uid hop slot residual splice s) := by
  unfold execChainConfigArrival
  dsimp only
  repeat' split
  all_goals simp

@[simp] theorem State.runFar_kept (s : State) (i : Turn) : (s.runFar i).kept = s.kept := by
  simp only [State.runFar]
  repeat' split
  all_goals simp

@[simp] theorem State.releaseChain_kept (s : State) (uid : Nat) (c : Chain) (tailAfter : Nat) :
    (s.releaseChain uid c tailAfter).kept = s.kept := by
  simp [State.releaseChain, apply_ite State.kept, foldl_kept]

@[simp] theorem execChclose_safe (i : BitVec 8) (s : State) : Safe s (execChclose i s) := by
  unfold execChclose
  dsimp only
  repeat' split
  all_goals simp

@[simp] theorem State.closeRows_kept (s : State) (uid : Nat) (tail : Link) (issue seq : Nat) (pc : Word) (normSlot : Option Nat)
    (scales : List (BitVec 32)) : (s.closeRows uid tail issue seq pc normSlot scales).kept = s.kept := by
  unfold State.closeRows
  dsimp only
  repeat' split
  · rfl
  · simp
  · exact foldl_kept _ (fun s r => by simp) _ _
  · rw [State.post_kept, foldl_kept _ fun s r => by simp]

@[simp] theorem phaseCloseTake_kept (uid : Nat) (pc : Word) (normSlot : Option Nat) (s : State) :
    (phaseCloseTake uid pc normSlot s).kept = s.kept := by
  unfold phaseCloseTake
  dsimp only
  repeat' split
  all_goals simp

@[simp] theorem phaseCloseScales_kept (uid : Nat) (tail : Link) (issue seq : Nat) (pc : Word) (normSlot : Option Nat) (s : State) :
    (phaseCloseScales uid tail issue seq pc normSlot s).kept = s.kept := by
  unfold phaseCloseScales
  dsimp only
  repeat' split
  all_goals simp

@[simp] theorem execCloseRowPerform_safe (w : RingWrite) (s : State) : Safe s (execCloseRowPerform w s) := by
  simp [execCloseRowPerform]

@[simp] theorem execNormContribution_safe (slot pc by' : Nat) (q : Word) (s : State) : Safe s (execNormContribution slot pc by' q s) := by
  rw [execNormContribution, safe_next, State.contribute_kept _ _ _ _ _ fun l c => by simp]
  exact id

@[simp] theorem execChainRelease_safe (uid : Nat) (slot : Release) (s : State) : Safe s (execChainRelease uid slot s) := by
  unfold execChainRelease
  dsimp only
  split <;> simp

@[simp] theorem execChfree_safe (i : BitVec 8) (s : State) : Safe s (execChfree i s) := by
  unfold execChfree
  split <;> simp

@[simp] theorem execChstat_safe (i : BitVec 8) (a : Reg) (s : State) : Safe s (execChstat i a s) := by
  unfold execChstat
  split <;> simp

@[simp] theorem phaseStatSample_kept (uid a at' : Nat) (s : State) : (phaseStatSample uid a at' s).kept = s.kept := by
  unfold phaseStatSample
  split <;> simp

@[simp] theorem phaseEngineWrite_kept (a : Nat) (l : List Byte) (s : State) : (phaseEngineWrite a l s).kept = s.kept := (rfl)

@[simp] theorem execChsplice_safe (i : BitVec 8) (a k : Reg) (s : State) : Safe s (execChsplice i a k s) := by
  unfold execChsplice
  dsimp only
  repeat' split
  all_goals simp

@[simp] theorem execChainFreeze_safe (uid hop reason : Nat) (s : State) : Safe s (execChainFreeze uid hop reason s) := by
  unfold execChainFreeze
  dsimp only
  repeat' split
  all_goals simp

@[simp] theorem State.fromPeer_kept (s : State) (i : Instr) : (s.fromPeer i).kept = s.kept := by
  unfold State.fromPeer
  dsimp only
  repeat' split
  all_goals simp

@[simp] theorem execLzero_safe (n : BitVec 8) (s : State) : Safe s (execLzero n s) := by
  simp [execLzero]

@[simp] theorem phaseSlotZero_kept (n : Nat) (pc : Word) (s : State) : (phaseSlotZero n pc s).kept = s.kept := by
  unfold phaseSlotZero
  dsimp only
  split <;> simp

@[simp] theorem State.startRead_safe (s : State) (i : Instr) (n : BitVec 8) (m : Reg) (states : Bool) :
    Safe s (s.startRead i n m states) := by
  simp only [State.startRead]
  repeat' split
  all_goals simp

@[simp] theorem execLread_safe (n : BitVec 8) (m : Reg) (s : State) : Safe s (execLread n m s) := by
  simp [execLread]

@[simp] theorem execLreadM_safe (n : BitVec 8) (m : Reg) (s : State) : Safe s (execLreadM n m s) := by
  simp [execLreadM]

@[simp] theorem phaseReadTake_kept (n m : Nat) (states : Bool) (pc : Word) (s : State) : (phaseReadTake n m states pc s).kept = s.kept := by
  unfold phaseReadTake
  dsimp only
  split
  · rw [State.post_kept, foldl_kept _ fun s r => State.post_kept _ _, State.setCore_kept]
  · rw [foldl_kept _ fun s r => State.post_kept _ _, State.setCore_kept]

@[simp] theorem phaseRingWrite_kept (w : RingWrite) (s : State) : (phaseRingWrite w s).kept = s.kept := by
  simp [phaseRingWrite]

/-! ### The matrix arrays -/

@[simp] theorem State.needArray_safe {s t : State} (i : Instr) (u : BitVec 2) (h : t.kept = s.kept) : Safe s (s.needArray i u t) := by
  unfold State.needArray
  split <;> simp [h]

@[simp] theorem execFmtw_safe (u : BitVec 2) (a : Reg) (s : State) : Safe s (execFmtw u a s) := by
  simp [execFmtw]

@[simp] theorem phaseFmtPush_kept (u : Nat) (v pc : Word) (s : State) : (phaseFmtPush u v pc s).kept = s.kept := by
  unfold phaseFmtPush
  dsimp only
  split <;> simp

@[simp] theorem State.startArray_kept (s : State) (u : Nat) (load orientC : Bool) (link ring : Nat) :
    (s.startArray u load orientC link ring).kept = s.kept := by
  unfold State.startArray
  dsimp only
  repeat' split
  all_goals simp

@[simp] theorem execWload_safe (u : BitVec 2) (m : Reg) (s : State) : Safe s (execWload u m s) := by
  simp [execWload]

@[simp] theorem execMmaR_safe (u : BitVec 2) (l : BitVec 8) (m : Reg) (s : State) : Safe s (execMmaR u l m s) := by
  simp [execMmaR]

@[simp] theorem execMmaC_safe (u : BitVec 2) (l : BitVec 8) (m : Reg) (s : State) : Safe s (execMmaC u l m s) := by
  simp [execMmaC]

@[simp] theorem execArrayCommandStart_safe (u : Nat) (s : State) : Safe s (execArrayCommandStart u s) := by
  unfold execArrayCommandStart
  dsimp only
  repeat' split
  all_goals simp

@[simp] theorem phaseRowSample_kept (u uid row : Nat) (s : State) : (phaseRowSample u uid row s).kept = s.kept := by
  unfold phaseRowSample
  dsimp only
  repeat' split
  all_goals simp

@[simp] theorem execWloadTileReplace_safe (u : Nat) (t : Tile) (s : State) : Safe s (execWloadTileReplace u t s) := by
  simp [execWloadTileReplace]

@[simp] theorem execContributionPerform_safe (u uid : Nat) (s : State) : Safe s (execContributionPerform u uid s) := by
  unfold execContributionPerform
  dsimp only
  split
  · simp
  · rw [safe_next, State.contribute_kept _ _ _ _ _ fun l c => by split <;> simp, State.setCore_kept]
    exact id

/-! ### Control transfer -/

@[simp] theorem State.goTo_kept (s : State) (t : Word) : (s.goTo t).kept = s.kept := by
  unfold State.goTo
  split <;> simp

@[simp] theorem State.branch_safe (s : State) (o : BitVec 13) (taken : Bool) : Safe s (s.branch o taken) := by
  unfold State.branch
  dsimp only
  repeat' split
  all_goals simp

@[simp] theorem execBeq_safe (a b : Reg) (o : BitVec 13) (s : State) : Safe s (execBeq a b o s) := by
  simp [execBeq]

@[simp] theorem execBne_safe (a b : Reg) (o : BitVec 13) (s : State) : Safe s (execBne a b o s) := by
  simp [execBne]

@[simp] theorem execBlt_safe (a b : Reg) (o : BitVec 13) (s : State) : Safe s (execBlt a b o s) := by
  simp [execBlt]

@[simp] theorem execBge_safe (a b : Reg) (o : BitVec 13) (s : State) : Safe s (execBge a b o s) := by
  simp [execBge]

@[simp] theorem execBltn_safe (a b : Reg) (o : BitVec 13) (s : State) : Safe s (execBltn a b o s) := by
  simp [execBltn]

@[simp] theorem execBgen_safe (a b : Reg) (o : BitVec 13) (s : State) : Safe s (execBgen a b o s) := by
  simp [execBgen]

@[simp] theorem execJ_safe (o : BitVec 25) (s : State) : Safe s (execJ o s) := by
  simp [execJ]

@[simp] theorem execJal_safe (d : Reg) (o : BitVec 19) (s : State) : Safe s (execJal d o s) := by
  unfold execJal
  dsimp only
  split <;> simp

@[simp] theorem execJr_safe (d a : Reg) (i : BitVec 13) (s : State) : Safe s (execJr d a i s) := by
  unfold execJr
  dsimp only
  repeat' split
  all_goals simp

@[simp] theorem execIdle_safe (n : BitVec 19) (s : State) : Safe s (execIdle n s) := by
  simp [execIdle]

@[simp] theorem State.waitUntil_kept (s : State) (T : Nat) : (s.waitUntil T).kept = s.kept := by
  simp [State.waitUntil]

@[simp] theorem execWaitt_safe (a : Reg) (i : BitVec 13) (s : State) : Safe s (execWaitt a i s) := by
  simp [execWaitt]

@[simp] theorem execRealign_safe (a : Reg) (i : BitVec 13) (s : State) : Safe s (execRealign a i s) := by
  unfold execRealign
  dsimp only
  split <;> simp

@[simp] theorem State.startLoop_kept (s : State) (l : Nat) (n : BitVec 32) (words : Nat) : (s.startLoop l n words).kept = s.kept := by
  unfold State.startLoop
  dsimp only
  repeat' split
  all_goals simp

@[simp] theorem execLoop_safe (l : BitVec 2) (a : Reg) (e : BitVec 13) (s : State) : Safe s (execLoop l a e s) := by
  simp [execLoop]

@[simp] theorem execLoopi_safe (l : BitVec 2) (c : BitVec 12) (e : BitVec 11) (s : State) : Safe s (execLoopi l c e s) := by
  simp [execLoopi]

@[simp] theorem execLoops_safe (l : BitVec 2) (k : BitVec 6) (e : BitVec 11) (s : State) : Safe s (execLoops l k e s) := by
  simp [execLoops]

@[simp] theorem execLregRead_safe (d : Reg) (f : BitVec 6) (s : State) : Safe s (execLregRead d f s) := by
  simp [execLregRead]

@[simp] theorem execLregWrite_safe (a : Reg) (f : BitVec 6) (s : State) : Safe s (execLregWrite a f s) := by
  unfold execLregWrite
  dsimp only
  repeat' split
  all_goals simp

@[simp] theorem execTrap_safe (n : BitVec 19) (s : State) : Safe s (execTrap n s) := by
  simp [execTrap]

@[simp] theorem execBrk_safe (n : BitVec 19) (s : State) : Safe s (execBrk n s) := by
  simp [execBrk]

@[simp] theorem execTret_safe (s : State) : Safe s (execTret s) := by
  unfold execTret
  split <;> simp

@[simp] theorem execIllegalInstruction_safe (w : Word32) (s : State) : Safe s (execIllegalInstruction w s) := by
  simp [execIllegalInstruction]

/-! ### Integer operations -/

@[simp] theorem State.result_safe (s : State) (d : Reg) (v : Word) (latency : Nat) : Safe s (s.result d v latency) := by
  simp [State.result]

@[simp] theorem execAdd_safe (d a b : Reg) (s : State) : Safe s (execAdd d a b s) := by
  simp [execAdd]

@[simp] theorem execSub_safe (d a b : Reg) (s : State) : Safe s (execSub d a b s) := by
  simp [execSub]

@[simp] theorem execAnd_safe (d a b : Reg) (s : State) : Safe s (execAnd d a b s) := by
  simp [execAnd]

@[simp] theorem execOr_safe (d a b : Reg) (s : State) : Safe s (execOr d a b s) := by
  simp [execOr]

@[simp] theorem execXor_safe (d a b : Reg) (s : State) : Safe s (execXor d a b s) := by
  simp [execXor]

@[simp] theorem execSll_safe (d a b : Reg) (s : State) : Safe s (execSll d a b s) := by
  simp [execSll]

@[simp] theorem execSrl_safe (d a b : Reg) (s : State) : Safe s (execSrl d a b s) := by
  simp [execSrl]

@[simp] theorem execSra_safe (d a b : Reg) (s : State) : Safe s (execSra d a b s) := by
  simp [execSra]

@[simp] theorem execSlt_safe (d a b : Reg) (s : State) : Safe s (execSlt d a b s) := by
  simp [execSlt]

@[simp] theorem execSltn_safe (d a b : Reg) (s : State) : Safe s (execSltn d a b s) := by
  simp [execSltn]

@[simp] theorem execMin_safe (d a b : Reg) (s : State) : Safe s (execMin d a b s) := by
  simp [execMin]

@[simp] theorem execMax_safe (d a b : Reg) (s : State) : Safe s (execMax d a b s) := by
  simp [execMax]

@[simp] theorem execMinn_safe (d a b : Reg) (s : State) : Safe s (execMinn d a b s) := by
  simp [execMinn]

@[simp] theorem execMaxn_safe (d a b : Reg) (s : State) : Safe s (execMaxn d a b s) := by
  simp [execMaxn]

@[simp] theorem execClz_safe (d a : Reg) (s : State) : Safe s (execClz d a s) := by
  simp [execClz]

@[simp] theorem execCtz_safe (d a : Reg) (s : State) : Safe s (execCtz d a s) := by
  simp [execCtz]

@[simp] theorem execPopc_safe (d a : Reg) (s : State) : Safe s (execPopc d a s) := by
  simp [execPopc]

@[simp] theorem execSext_safe (d a : Reg) (w : BitVec 6) (s : State) : Safe s (execSext d a w s) := by
  simp [execSext]

@[simp] theorem execMul_safe (d a b : Reg) (s : State) : Safe s (execMul d a b s) := by
  simp [execMul]

@[simp] theorem execMulh_safe (d a b : Reg) (s : State) : Safe s (execMulh d a b s) := by
  simp [execMulh]

@[simp] theorem execMulhn_safe (d a b : Reg) (s : State) : Safe s (execMulhn d a b s) := by
  simp [execMulhn]

@[simp] theorem execDiv_safe (d a b : Reg) (s : State) : Safe s (execDiv d a b s) := by
  simp [execDiv]

@[simp] theorem execDivn_safe (d a b : Reg) (s : State) : Safe s (execDivn d a b s) := by
  simp [execDivn]

@[simp] theorem execRem_safe (d a b : Reg) (s : State) : Safe s (execRem d a b s) := by
  simp [execRem]

@[simp] theorem execRemn_safe (d a b : Reg) (s : State) : Safe s (execRemn d a b s) := by
  simp [execRemn]

@[simp] theorem execAddi_safe (d a : Reg) (i : BitVec 13) (s : State) : Safe s (execAddi d a i s) := by
  simp [execAddi]

@[simp] theorem execAndi_safe (d a : Reg) (i : BitVec 13) (s : State) : Safe s (execAndi d a i s) := by
  simp [execAndi]

@[simp] theorem execOri_safe (d a : Reg) (i : BitVec 13) (s : State) : Safe s (execOri d a i s) := by
  simp [execOri]

@[simp] theorem execXori_safe (d a : Reg) (i : BitVec 13) (s : State) : Safe s (execXori d a i s) := by
  simp [execXori]

@[simp] theorem execSlti_safe (d a : Reg) (i : BitVec 13) (s : State) : Safe s (execSlti d a i s) := by
  simp [execSlti]

@[simp] theorem execSltni_safe (d a : Reg) (i : BitVec 13) (s : State) : Safe s (execSltni d a i s) := by
  simp [execSltni]

@[simp] theorem execSlli_safe (d a : Reg) (sh : BitVec 6) (s : State) : Safe s (execSlli d a sh s) := by
  simp [execSlli]

@[simp] theorem execSrli_safe (d a : Reg) (sh : BitVec 6) (s : State) : Safe s (execSrli d a sh s) := by
  simp [execSrli]

@[simp] theorem execSrai_safe (d a : Reg) (sh : BitVec 6) (s : State) : Safe s (execSrai d a sh s) := by
  simp [execSrai]

@[simp] theorem execLui_safe (d : Reg) (i : BitVec 19) (s : State) : Safe s (execLui d i s) := by
  simp [execLui]

@[simp] theorem execAddsh_safe (d a b : Reg) (sh : BitVec 6) (s : State) : Safe s (execAddsh d a b sh s) := by
  simp [execAddsh]

@[simp] theorem execMadi_safe (d a b : Reg) (i : BitVec 7) (s : State) : Safe s (execMadi d a b i s) := by
  simp [execMadi]

@[simp] theorem execCpResultPerform_safe (d : Reg) (v : Word) (s : State) : Safe s (execCpResultPerform d v s) := by
  simp [execCpResultPerform]

/-! ### Control and status registers -/

@[simp] theorem State.csrWrite_safe (s : State) (d : Reg) (c : Nat) (v : Word) : Safe s (s.csrWrite d c v) := by
  unfold State.csrWrite
  dsimp only
  repeat' split
  all_goals simp

@[simp] theorem execCsrr_safe (d : Reg) (c : BitVec 11) (s : State) : Safe s (execCsrr d c s) := by
  simp [execCsrr]

@[simp] theorem execCsrw_safe (d a : Reg) (c : BitVec 11) (s : State) : Safe s (execCsrw d a c s) := by
  simp [execCsrw]

@[simp] theorem execCsrs_safe (d a : Reg) (c : BitVec 11) (s : State) : Safe s (execCsrs d a c s) := by
  simp [execCsrs]

@[simp] theorem execCsrc_safe (d a : Reg) (c : BitVec 11) (s : State) : Safe s (execCsrc d a c s) := by
  simp [execCsrc]

/-! ### Copies -/

@[simp] theorem State.setCopy_kept (s : State) (c : Copy) : (s.setCopy c).kept = s.kept := (rfl)

@[simp] theorem State.startCopy_safe (s : State) (i : Instr) (a n : Reg) (digest : Bool) : Safe s (s.startCopy i a n digest) := by
  unfold State.startCopy
  dsimp only
  repeat' split
  all_goals simp

@[simp] theorem execCopy_safe (a n : Reg) (s : State) : Safe s (execCopy a n s) := by
  simp [execCopy]

@[simp] theorem execCopyd_safe (a n : Reg) (s : State) : Safe s (execCopyd a n s) := by
  simp [execCopyd]

@[simp] theorem State.copyTrap_kept (s : State) (c : Copy) (cause sub : Nat) (tval : Nat) :
    (s.copyTrap c cause sub tval).kept = s.kept := (rfl)

@[simp] theorem phaseCopySample_kept (uid : Nat) (s : State) : (phaseCopySample uid s).kept = s.kept := by
  unfold phaseCopySample
  split
  · rfl
  · refine State.sampled_kept _ _ _ _ _ ?_
    dsimp only
    split <;> simp

@[simp] theorem State.postStage_kept (s : State) (c : Copy) (d : CopyDesc) (start q : Nat) : (s.postStage c d start q).kept = s.kept := by
  unfold State.postStage
  split <;> simp

@[simp] theorem phaseCopyTake_kept (uid : Nat) (s : State) : (phaseCopyTake uid s).kept = s.kept := by
  unfold phaseCopyTake
  dsimp only
  repeat' split
  all_goals simp

@[simp] theorem State.postRows_kept (s : State) (c : Copy) (d : CopyDesc) (start q : Nat) : (s.postRows c d start q).kept = s.kept :=
  foldl_kept _ (fun s j => by simp) _ _

@[simp] theorem State.stage_kept (s : State) (c : Copy) (d : CopyDesc) (start q : Nat) (base : Nat) :
    (s.stage c d start q base).kept = s.kept := by
  unfold State.stage
  dsimp only
  repeat' split
  all_goals simp

@[simp] theorem execCopyRowStage_safe (uid q : Nat) (s : State) : Safe s (execCopyRowStage uid q s) := by
  unfold execCopyRowStage
  dsimp only
  repeat' split
  all_goals simp

@[simp] theorem phaseRingPop_kept (n : Nat) (s : State) : (phaseRingPop n s).kept = s.kept := (rfl)

theorem fetchRows_kept {g : Agent} {issue n : Nat} {l : List Nat} {s t : State} {b : List Byte} {p : Bool}
    (h : fetchRows g issue n s l = .done b p t) : t.kept = s.kept := by
  induction l generalizing s t b p with
  | nil => cases h; rfl
  | cons a l ih =>
    unfold fetchRows at h
    split at h
    · next h1 =>
      split at h
      · next h2 => cases h; rw [ih h2, serveRead_kept h1]
      · cases h
    · cases h

@[simp] theorem State.prefetch_kept (s : State) (g : Agent) (va : Nat) (later : Unit → List (Nat × Nat)) :
    (s.prefetch g va later).kept = s.kept := by
  unfold State.prefetch
  repeat' split
  all_goals simp

theorem State.rowSource_kept {s t : State} {c : Copy} {d : CopyDesc} {start q : Nat} (h : s.rowSource c d start q = .ready t) :
    t.kept = s.kept := by
  unfold State.rowSource at h
  split at h
  · cases h; rfl
  · dsimp only at h
    split at h
    · next h1 => cases h; rw [State.setCopy_kept, fetchRows_kept h1, State.prefetch_kept]
    · split at h <;> cases h

theorem State.rowReady_kept {s t : State} {c : Copy} {d : CopyDesc} {start r : Nat} (h : s.rowReady c d start r = .ready t) :
    t.kept = s.kept := by
  unfold State.rowReady at h
  split at h
  · next hs =>
    split at h
    · cases h; exact State.rowSource_kept hs
    · dsimp only at h
      split at h
      · cases h; rw [State.prefetch_kept, State.rowSource_kept hs]
      · cases h
      · split at h <;> cases h
  · next hn => exact absurd h (hn t)

@[simp] theorem execCopydDigestPerform_safe (uid : Nat) (s : State) : Safe s (execCopydDigestPerform uid s) := by
  unfold execCopydDigestPerform
  split <;> simp

/-! ### Configurations, runs and streams -/

@[simp] theorem State.streamTrap_kept (s : State) (u : Run) (cause sub : Nat) (tval : Word) :
    (s.streamTrap u cause sub tval).kept = s.kept := (rfl)

@[simp] theorem execSstr_safe (a n : Reg) (s : State) : Safe s (execSstr a n s) := by
  simp [execSstr]

@[simp] theorem State.postBeat_kept (s : State) (t : Stream) (u : Run) (d : StreamDesc) (start j : Nat) :
    (s.postBeat t u d start j).kept = s.kept := by
  unfold State.postBeat
  dsimp only
  repeat' split
  all_goals simp

@[simp] theorem State.armStream_kept (s : State) (uid : Nat) : (s.armStream uid).kept = s.kept := by
  unfold State.armStream
  repeat' split
  all_goals simp [foldl_kept]

@[simp] theorem phaseStreamSample_kept (uid : Nat) (s : State) : (phaseStreamSample uid s).kept = s.kept := by
  unfold phaseStreamSample
  split
  · rfl
  · refine State.sampled_kept _ _ _ _ _ ?_
    dsimp only
    repeat' split
    all_goals simp

@[simp] theorem phaseBeatSample_kept (uid j : Nat) (s : State) : (phaseBeatSample uid j s).kept = s.kept := by
  unfold phaseBeatSample
  dsimp only
  repeat' split
  all_goals simp

@[simp] theorem execStreamBeat_safe (se run j : Nat) (s : State) : Safe s (execStreamBeat se run j s) := by
  unfold execStreamBeat
  dsimp only
  repeat' split
  all_goals simp

@[simp] theorem phaseDeferTake_kept (uid : Nat) (pairs : List (BitVec 32 × BitVec 32)) (s : State) :
    (phaseDeferTake uid pairs s).kept = s.kept := by
  unfold phaseDeferTake
  split <;> simp

@[simp] theorem phaseDeferWrite_kept (uid : Nat) (pairs : List (BitVec 32 × BitVec 32)) (s : State) :
    (phaseDeferWrite uid pairs s).kept = s.kept := by
  unfold phaseDeferWrite
  split
  · rfl
  · dsimp only
    rw [State.setCore_kept, foldl_kept _ fun s q => foldl_kept _ (fun s w => by simp) _ _]

@[simp] theorem phaseDeferPad_kept (uid : Nat) (s : State) : (phaseDeferPad uid s).kept = s.kept := by
  unfold phaseDeferPad
  split
  · rfl
  · dsimp only
    rw [State.setCore_kept, foldl_kept _ fun s i => foldl_kept _ (fun s w => by simp) _ _]

@[simp] theorem execGcfg_safe (a : Reg) (s : State) : Safe s (execGcfg a s) := by
  simp [execGcfg]

@[simp] theorem State.resolveRuns_kept (s : State) : s.resolveRuns.kept = s.kept := by
  refine foldl_kept _ (fun s u => ?_) _ _
  split
  · rfl
  · split
    · rfl
    · dsimp only
      split
      · rw [foldl_kept _ fun s t => s.armStream_kept t]
        simp
      · rfl

@[simp] theorem phaseImageSample_kept (uid : Nat) (s : State) : (phaseImageSample uid s).kept = s.kept := by
  unfold phaseImageSample
  split <;> simp

@[simp] theorem execConfigReady_safe (uid : Nat) (s : State) : Safe s (execConfigReady uid s) := by
  unfold execConfigReady
  dsimp only
  repeat' split
  all_goals simp

@[simp] theorem State.startRun_kept (s : State) (commit : Bool) (n : Nat) : (s.startRun commit n).kept = s.kept := by
  unfold State.startRun
  dsimp only
  repeat' split
  all_goals simp

@[simp] theorem execGrun_safe (a : Reg) (s : State) : Safe s (execGrun a s) := by
  simp [execGrun]

@[simp] theorem execGrunC_safe (a : Reg) (s : State) : Safe s (execGrunC a s) := by
  simp [execGrunC]

@[simp] theorem execGrunS_safe (k : Reg) (s : State) : Safe s (execGrunS k s) := by
  simp [execGrunS]

@[simp] theorem execGrunCS_safe (k : Reg) (s : State) : Safe s (execGrunCS k s) := by
  simp [execGrunCS]

@[simp] theorem execGridRunStart_safe (run : Nat) (s : State) : Safe s (execGridRunStart run s) := by
  unfold execGridRunStart
  dsimp only
  repeat' split
  all_goals simp

@[simp] theorem execGridBundleIssue_safe (run : Nat) (s : State) : Safe s (execGridBundleIssue run s) := by
  unfold execGridBundleIssue
  dsimp only
  repeat' split
  all_goals simp

@[simp] theorem execGridRunEnd_safe (run : Nat) (s : State) : Safe s (execGridRunEnd run s) := by
  unfold execGridRunEnd
  split
  · simp
  · dsimp only
    rw [safe_next, foldl_kept _ fun s t => by split <;> simp]
    simp

/-! ### The grid operations -/

@[simp] theorem State.gridResult_safe (s : State) (latency : Nat) (w : GridWrite) : Safe s (s.gridResult latency w) := by
  simp [State.gridResult]

@[simp] theorem State.vecResult_safe (s : State) (f : GridWord) (latency : Nat) (v : Vec) : Safe s (s.vecResult f latency v) := by
  simp [State.vecResult]

@[simp] theorem State.clearGridPoison_kept (s : State) (n : Nat) : (s.clearGridPoison n).kept = s.kept := by
  unfold State.clearGridPoison
  split <;> simp

@[simp] theorem State.setPorts_kept (s : State) (k : Nat) (e : Elem) : (s.setPorts k e).kept = s.kept := (rfl)

@[simp] theorem execGridResultPerform_safe (w : GridWrite) (s : State) : Safe s (execGridResultPerform w s) := by
  unfold execGridResultPerform
  dsimp only
  repeat' split
  all_goals simp

@[simp] theorem execFadd_safe (f : GridWord) (s : State) : Safe s (execFadd f s) := by
  simp [execFadd]

@[simp] theorem execFsub_safe (f : GridWord) (s : State) : Safe s (execFsub f s) := by
  simp [execFsub]

@[simp] theorem execFmul_safe (f : GridWord) (s : State) : Safe s (execFmul f s) := by
  simp [execFmul]

@[simp] theorem execFma_safe (f : GridWord) (s : State) : Safe s (execFma f s) := by
  simp [execFma]

@[simp] theorem execFms_safe (f : GridWord) (s : State) : Safe s (execFms f s) := by
  simp [execFms]

@[simp] theorem execFmin_safe (f : GridWord) (s : State) : Safe s (execFmin f s) := by
  simp [execFmin]

@[simp] theorem execFmax_safe (f : GridWord) (s : State) : Safe s (execFmax f s) := by
  simp [execFmax]

@[simp] theorem execFcmp_safe (f : GridWord) (s : State) : Safe s (execFcmp f s) := by
  simp [execFcmp]

@[simp] theorem execFsel_safe (f : GridWord) (s : State) : Safe s (execFsel f s) := by
  simp [execFsel]

@[simp] theorem execFsgn_safe (f : GridWord) (s : State) : Safe s (execFsgn f s) := by
  simp [execFsgn]

@[simp] theorem execFspec_safe (f : GridWord) (s : State) : Safe s (execFspec f s) := by
  simp [execFspec]

@[simp] theorem execCvt_safe (f : GridWord) (s : State) : Safe s (execCvt f s) := by
  simp [execCvt]

@[simp] theorem execBf2_safe (f : GridWord) (s : State) : Safe s (execBf2 f s) := by
  simp [execBf2]

@[simp] theorem execIadd_safe (f : GridWord) (s : State) : Safe s (execIadd f s) := by
  simp [execIadd]

@[simp] theorem execIsub_safe (f : GridWord) (s : State) : Safe s (execIsub f s) := by
  simp [execIsub]

@[simp] theorem execImul_safe (f : GridWord) (s : State) : Safe s (execImul f s) := by
  simp [execImul]

@[simp] theorem execIlog_safe (f : GridWord) (s : State) : Safe s (execIlog f s) := by
  simp [execIlog]

@[simp] theorem execIsh_safe (f : GridWord) (s : State) : Safe s (execIsh f s) := by
  simp [execIsh]

@[simp] theorem execIcmp_safe (f : GridWord) (s : State) : Safe s (execIcmp f s) := by
  simp [execIcmp]

@[simp] theorem execIminmax_safe (f : GridWord) (s : State) : Safe s (execIminmax f s) := by
  simp [execIminmax]

@[simp] theorem execMov_safe (f : GridWord) (s : State) : Safe s (execMov f s) := by
  simp only [execMov]
  repeat' split
  all_goals simp

@[simp] theorem execLperm_safe (f : GridWord) (s : State) : Safe s (execLperm f s) := by
  simp [execLperm]

@[simp] theorem execLbcast_safe (f : GridWord) (s : State) : Safe s (execLbcast f s) := by
  simp [execLbcast]

@[simp] theorem execLshift_safe (f : GridWord) (s : State) : Safe s (execLshift f s) := by
  simp [execLshift]

@[simp] theorem execLred_safe (f : GridWord) (s : State) : Safe s (execLred f s) := by
  simp [execLred]

@[simp] theorem execMsk_safe (f : GridWord) (s : State) : Safe s (execMsk f s) := by
  simp [execMsk]

@[simp] theorem execRngc_safe (f : GridWord) (s : State) : Safe s (execRngc f s) := by
  simp [execRngc]

@[simp] theorem execDefer_safe (f : GridWord) (s : State) : Safe s (execDefer f s) := by
  simp [execDefer]

@[simp] theorem execGridSlotCScalar_safe (w : Word32) (s : State) : Safe s (execGridSlotCScalar w s) := by
  unfold execGridSlotCScalar
  split <;> simp

/-! ### Loads, stores, atomics and ranges -/

@[simp] theorem State.afterFailed_kept {s t : State} (h : t.kept = s.kept) : (s.afterFailed t).kept = s.kept := by
  unfold State.afterFailed
  split
  · split <;> simp [h]
  · exact h

@[simp] theorem State.countWalk_kept (s : State) (va : Nat) : (s.countWalk va).kept = s.kept := by
  simp only [State.countWalk]
  repeat' split
  all_goals simp

@[simp] theorem State.countRemote_kept (s : State) (pa : Nat) : (s.countRemote pa).kept = s.kept := by
  unfold State.countRemote
  split <;> simp

@[simp] theorem State.walked_kept (s : State) (va pa : Nat) : (s.walked va pa).kept = s.kept := by
  simp [State.walked]

@[simp] theorem State.accessible_kept (s : State) (va : Word) (k : Access) {ok : Option (Nat × Nat) → State → State}
    (h : ∀ tr t, (ok tr t).kept = t.kept) : (s.accessible va k ok).kept = s.kept := by
  unfold State.accessible
  split
  · simp [h]
  · dsimp only
    split <;> simp [h]

@[simp] theorem State.pushLoad_kept (s : State) (seq : Nat) (reg : Reg) (va : Word) (size cls : Nat) (tr : Option (Nat × Nat)) :
    (s.pushLoad seq reg va size cls tr).kept = s.kept := (rfl)

@[simp] theorem State.pushStore_kept (s : State) (seq : Nat) (va : Word) (kind : StoreKind) (tr : Option (Nat × Nat)) :
    (s.pushStore seq va kind tr).kept = s.kept := (rfl)

@[simp] theorem execLdq_safe (d a : Reg) (z c : BitVec 2) (o : BitVec 9) (s : State) : Safe s (execLdq d a z c o s) := by
  unfold execLdq
  dsimp only
  repeat' split
  all_goals simp

@[simp] theorem execLqpop_safe (d : Reg) (s : State) : Safe s (execLqpop d s) := by
  unfold execLqpop
  dsimp only
  repeat' split
  all_goals simp

@[simp] theorem execStq_safe (d a : Reg) (z : BitVec 2) (o : BitVec 9) (s : State) : Safe s (execStq d a z o s) := by
  simp [execStq, apply_ite State.kept]

@[simp] theorem execLds_safe (d a : Reg) (z : BitVec 2) (o : BitVec 9) (s : State) : Safe s (execLds d a z o s) := by
  unfold execLds
  dsimp only
  repeat' split
  all_goals simp

@[simp] theorem phaseLdsSample_kept (d : Reg) (a n : Nat) (pc : Word) (s : State) : (phaseLdsSample d a n pc s).kept = s.kept := by
  simp [phaseLdsSample, apply_ite State.kept]

@[simp] theorem execSts_safe (d a : Reg) (z : BitVec 2) (o : BitVec 9) (s : State) : Safe s (execSts d a z o s) := by
  unfold execSts
  dsimp only
  repeat' split
  all_goals simp

@[simp] theorem phaseStsWrite_kept (a : Nat) (l : List Byte) (s : State) : (phaseStsWrite a l s).kept = s.kept := (rfl)

@[simp] theorem execMark_safe (g st : BitVec 3) (s : State) : Safe s (execMark g st s) := by
  simp [execMark]

@[simp] theorem State.startAmo_safe (s : State) (addr : Word) (aop : Nat) (wide : Bool) (v c : Word) (acq rel : Bool) :
    Safe s (s.startAmo addr aop wide v c acq rel) := by
  simp [State.startAmo, apply_ite State.kept]

@[simp] theorem execAmo_safe (a b : Reg) (p : BitVec 4) (acq rel w : BitVec 1) (s : State) : Safe s (execAmo a b p acq rel w s) := by
  simp [execAmo]

@[simp] theorem execAmoCas_safe (d a b : Reg) (acq rel w : BitVec 1) (s : State) : Safe s (execAmoCas d a b acq rel w s) := by
  simp [execAmoCas]

@[simp] theorem State.pushRange_kept (s : State) (op : Nat) (A : Word) (n c : Nat) (pages : List (Nat × Nat × Nat)) :
    (s.pushRange op A n c pages).kept = s.kept := (rfl)

@[simp] theorem State.walkedAll_kept (s : State) (pages : List (Nat × Nat × Nat)) : (s.walkedAll pages).kept = s.kept := by
  simp [State.walkedAll, foldl_kept]

@[simp] theorem State.startRange_safe (s : State) (op : Nat) (a b : Reg) (c : Nat) : Safe s (s.startRange op a b c) := by
  unfold State.startRange
  dsimp only
  have h : ∀ l : List Nat, (l.foldl State.countWalk s).kept = s.kept := fun l => foldl_kept _ (fun s p => by simp) l s
  repeat' split
  all_goals simp [h]

@[simp] theorem execCwb_safe (a b : Reg) (s : State) : Safe s (execCwb a b s) := by
  simp [execCwb]

@[simp] theorem execCinv_safe (a b : Reg) (s : State) : Safe s (execCinv a b s) := by
  simp [execCinv]

@[simp] theorem execCwbi_safe (a b : Reg) (s : State) : Safe s (execCwbi a b s) := by
  simp [execCwbi]

@[simp] theorem execCpf_safe (a b : Reg) (c : BitVec 7) (s : State) : Safe s (execCpf a b c s) := by
  simp [execCpf]

@[simp] theorem State.setLoad_kept (s : State) (e : LoadEntry) : (s.setLoad e).kept = s.kept := (rfl)

@[simp] theorem State.setStore_kept (s : State) (e : StoreEntry) : (s.setStore e).kept = s.kept := (rfl)

@[simp] theorem State.setRangeEntry_kept (s : State) (e : RangeEntry) : (s.setRangeEntry e).kept = s.kept := (rfl)

@[simp] theorem State.dropMarks_kept (s : State) : s.dropMarks.kept = s.kept := (rfl)

@[simp] theorem State.dropStore_kept (s : State) (seq : Nat) : (s.dropStore seq).kept = s.kept := (rfl)

@[simp] theorem State.landed_kept (s : State) (decided : Bool) : (s.landed decided).kept = s.kept := by
  unfold State.landed
  dsimp only
  repeat' split
  all_goals simp

@[simp] theorem State.fixAmo_kept (s : State) (seq : Nat) (tr : Option (Nat × Nat)) : (s.fixAmo seq tr).kept = s.kept := by
  unfold State.fixAmo
  split <;> simp

@[simp] theorem phaseQueueSend_kept (seq : Nat) (s : State) : (phaseQueueSend seq s).kept = s.kept := by
  unfold phaseQueueSend
  dsimp only
  repeat' split
  all_goals simp

@[simp] theorem State.countService_kept (s : State) (pa attr : Nat) : (s.countService pa attr).kept = s.kept := by
  simp [State.countService]

@[simp] theorem phaseLoadServe_kept (seq : Nat) (s : State) : (phaseLoadServe seq s).kept = s.kept := by
  unfold phaseLoadServe
  repeat' split
  all_goals simp

@[simp] theorem execLoadReplyLand_safe (seq : Nat) (s : State) : Safe s (execLoadReplyLand seq s) := by
  unfold execLoadReplyLand
  split <;> simp

@[simp] theorem State.failStore_kept (s : State) (seq : Nat) (va : Word) : (s.failStore seq va).kept = s.kept := (rfl)

@[simp] theorem State.holdStore_kept (s : State) (e : StoreEntry) (c : Nat) : (s.holdStore e c).kept = s.kept := by
  simp [State.holdStore]

@[simp] theorem State.stepRange_kept (s : State) (e : RangeEntry) (acts : Bool) : (s.stepRange e acts).kept = s.kept := by
  unfold State.stepRange
  dsimp only
  split <;> simp

@[simp] theorem State.thenAccept_kept (s : State) (seq : Nat) (t : State) : (s.thenAccept seq t).kept = t.kept := by
  unfold State.thenAccept
  split <;> simp

@[simp] theorem State.poisonedStore_kept (s : State) (e : StoreEntry) : (s.poisonedStore e).kept = s.kept := by
  unfold State.poisonedStore
  dsimp only
  repeat' split
  all_goals simp

@[simp] theorem execStoreQueueAccept_safe (_seq : Nat) (s : State) : Safe s (execStoreQueueAccept _seq s) := by
  unfold execStoreQueueAccept
  dsimp only
  repeat' split
  all_goals simp

@[simp] theorem execRemapResponse_safe (task core seq : Nat) (s : State) : Safe s (execRemapResponse task core seq s) := by
  simp [execRemapResponse]

/-! ### Regions -/

@[simp] theorem State.countPages_kept (s : State) (va n : Nat) : (s.countPages va n).kept = s.kept := by
  simp [State.countPages, foldl_kept]

@[simp] theorem State.stopAt_kept (s : State) (e : Stopped) : (s.stopAt e).kept = s.kept := by
  unfold State.stopAt
  split <;> simp

theorem State.readVa_kept {s t : State} {va n : Nat} {b : List Byte} {p : Bool} (h : s.readVa va n = .ok (b, p, t)) :
    t.kept = s.kept := by
  unfold State.readVa at h
  split at h
  · cases h
  · split at h
    · next h1 => cases h; rw [serveRead_kept h1, State.countPages_kept]
    · cases h

theorem State.readEntries_kept {s t : State} {a : Word} {ctab k n : Nat} {l : List CoreEntry}
    (h : s.readEntries a ctab k n = .ok (l, t)) : t.kept = s.kept := by
  induction n generalizing s k l with
  | zero => cases h; rfl
  | succ n ih =>
    simp only [State.readEntries, bind, Except.bind] at h
    split at h
    · cases h
    · next h1 =>
      split at h
      · cases h
      · split at h
        · cases h
        · next h2 => cases h; rw [ih h2, State.readVa_kept h1]

theorem State.readCores_kept {s t : State} {es : List CoreEntry} {l : List CoreImage} (h : s.readCores es = .ok (l, t)) :
    t.kept = s.kept := by
  induction es generalizing s l with
  | nil => cases h; rfl
  | cons e es ih =>
    simp only [State.readCores, bind, Except.bind] at h
    split at h
    · cases h
    · next h1 =>
      split at h
      · cases h
      · next h2 =>
        split at h
        · cases h
        · next h3 => cases h; rw [ih h3, State.readVa_kept h2, State.readVa_kept h1]

theorem State.plan_kept {s t : State} {a : Word} {p : Plan} (h : s.plan a = .ok (p, t)) : t.kept = s.kept := by
  simp only [State.plan, bind, Except.bind] at h
  split at h
  · cases h
  · split at h
    · cases h
    · next h1 =>
      split at h
      · cases h
      · split at h
        · cases h
        · next h2 =>
          split at h
          · cases h
          · next h3 =>
            have h4 := (State.readCores_kept h3).trans ((State.readEntries_kept h2).trans (State.readVa_kept h1))
            split at h
            · cases h; exact h4
            · split at h
              · cases h
              · next h5 => cases h; exact (State.readVa_kept h5).trans h4

@[simp] theorem State.releaseEngines_kept (s : State) : s.releaseEngines.kept = s.kept := (rfl)

@[simp] theorem State.reserveSlots_kept (s : State) : s.reserveSlots.kept = s.kept := (rfl)

@[simp] theorem State.releaseAll_kept (s : State) : s.releaseAll.kept = s.kept := (rfl)

@[simp] theorem execAllotCopyEngines_safe (s : State) : Safe s (execAllotCopyEngines s) := by
  unfold execAllotCopyEngines
  dsimp only
  split
  · simp
  · rw [safe_next, foldl_kept _ fun s d => by simp]
    exact id

@[simp] theorem State.enterRegion_kept (s : State) (p : Plan) (d : Reg) (addr e others : Nat) :
    (s.enterRegion p d addr e others).kept = s.kept := by
  simp [State.enterRegion]

@[simp] theorem State.tellJoin_kept (s : State) (i : Instr) : (s.tellJoin i).kept = s.kept := by
  unfold State.tellJoin
  split <;> simp

@[simp] theorem State.leaveJoin_kept (s : State) : s.leaveJoin.kept = s.kept := by
  unfold State.leaveJoin
  split <;> simp

@[simp] theorem execRgenter_safe (d a : Reg) (s : State) : Safe s (execRgenter d a s) := by
  refine State.needLoose_safe _ ?_
  split
  · simp
  · refine State.afterFailed_kept ?_
    split
    · simp
    · split
      · simp
      · next h =>
        dsimp only
        repeat' split
        · simp
        · simp
        · simp [State.plan_kept h]
        · simp

@[simp] theorem State.enterJoined_kept (s : State) (j : Join) (joining : SMap JoinSize) (again : Instr) :
    (s.enterJoined j joining again).kept = s.kept := by
  unfold State.enterJoined
  dsimp only
  split
  · next h => simp [State.plan_kept h]
  · simp
  · simp

@[simp] theorem execJoinEntry_safe (who : JoinWho) (what : JoinSize) (s : State) : Safe s (execJoinEntry who what s) := by
  unfold execJoinEntry
  dsimp only
  repeat' split
  all_goals simp

@[simp] theorem execJoinEntryTimeout_safe (core : Nat) (s : State) : Safe s (execJoinEntryTimeout core s) := by
  unfold execJoinEntryTimeout
  split <;> simp

@[simp] theorem execRegionEntry_safe (s : State) : Safe s (execRegionEntry s) := by
  unfold execRegionEntry
  dsimp only
  repeat' split
  all_goals simp

@[simp] theorem execRgexit_safe (s : State) : Safe s (execRgexit s) := by
  simp [execRgexit]

@[simp] theorem State.stopTask_kept (s : State) (why : FreezeWhy) : (s.stopTask why).kept = s.kept := by
  unfold State.stopTask
  split <;> simp

@[simp] theorem execRegionExit_safe (s : State) : Safe s (execRegionExit s) := by
  unfold execRegionExit
  dsimp only
  repeat' split
  all_goals simp

@[simp] theorem execRegionDeadline_safe (s : State) : Safe s (execRegionDeadline s) := by
  unfold execRegionDeadline
  dsimp only
  split <;> simp

@[simp] theorem State.serveItem_kept (s : State) (p : Pend) : (s.serveItem p).kept = s.kept := by
  unfold State.serveItem
  split
  · repeat' split
    all_goals try rfl
    next h => exact State.rowSource_kept h
  · split
    · split
      · dsimp only
        split
        · next h => rw [State.setCore_kept, serveRead_kept h, State.prefetch_kept]
        · rfl
      · rfl
    · rfl
  · rfl

@[simp] theorem State.onItem_kept (s : State) (p : Pend) : (s.onItem p).kept = s.kept := (rfl)

@[simp] theorem State.setItem_kept (s : State) (p : Pend) : (s.setItem p).kept = s.kept := (rfl)

@[simp] theorem State.againItem_kept (s : State) (p : Pend) : (s.againItem p).kept = s.kept := (rfl)

@[simp] theorem State.itemLanded_kept (s : State) (p : Pend) : (s.itemLanded p).kept = s.kept := by
  simp [State.itemLanded]

@[simp] theorem execItemLand_safe (s : State) : Safe s (execItemLand s) := by
  unfold execItemLand
  dsimp only
  repeat' split
  all_goals simp

@[simp] theorem State.tellPeers_kept (s : State) (i : Instr) : (s.tellPeers i).kept = s.kept :=
  foldl_kept _ (fun s n => s.tell_kept n i) _ _

@[simp] theorem State.checkItems_kept (s : State) : s.checkItems.kept = s.kept := by
  simp [State.checkItems, foldl_kept]

@[simp] theorem execRegionFreeze_safe (note : FreezeNote) (s : State) : Safe s (execRegionFreeze note s) := by
  unfold execRegionFreeze
  dsimp only
  repeat' split
  all_goals simp

@[simp] theorem execRegionResume_safe (s : State) : Safe s (execRegionResume s) := by
  unfold execRegionResume
  dsimp only
  split <;> simp

@[simp] theorem execSlideTimeout_safe (s : State) : Safe s (execSlideTimeout s) := by
  unfold execSlideTimeout
  dsimp only
  repeat' split
  all_goals simp

@[simp] theorem State.runItem_kept (s : State) (p : Pend) : (s.runItem p).kept = s.kept := by
  unfold State.runItem
  dsimp only
  repeat' split
  all_goals simp

@[simp] theorem State.cycleNext_kept (s : State) : s.cycleNext.kept = s.kept := by
  unfold State.cycleNext
  dsimp only
  repeat' split
  all_goals simp

@[simp] theorem State.countRegion_kept (s : State) (ev : Nat) : (s.countRegion ev).kept = s.kept := (rfl)

/-! ### Queues and tasks -/

@[simp] theorem State.setQueue_kept (s : State) (q : Nat) (v : Queue) : (s.setQueue q v).kept = s.kept := (rfl)

@[simp] theorem State.countDone_kept (s : State) (q : Nat) : (s.countDone q).kept = s.kept := by
  unfold State.countDone
  dsimp only
  split <;> simp

@[simp] theorem execQueueEnable_safe (q : Nat) (s : State) : Safe s (execQueueEnable q s) := by
  unfold execQueueEnable
  dsimp only
  split <;> simp

@[simp] theorem State.noteEnding_kept (s : State) (g i : Nat) (e : EndKind) : (s.noteEnding g i e).kept = s.kept := by
  unfold State.noteEnding
  split <;> simp

@[simp] theorem execRetire_safe (s : State) : Safe s (execRetire s) := by
  simp [execRetire, apply_ite State.kept]

@[simp] theorem State.withdraw_kept (s : State) (i : Nat) : (s.withdraw i).kept = s.kept := by
  unfold State.withdraw
  dsimp only
  repeat' split
  all_goals simp

@[simp] theorem State.cancelTask_kept (s : State) (i : Nat) : (s.cancelTask i).kept = s.kept := by
  unfold State.cancelTask
  dsimp only
  repeat' split
  all_goals simp

@[simp] theorem execTaskBudgetExpiry_safe (s : State) : Safe s (execTaskBudgetExpiry s) := by
  unfold execTaskBudgetExpiry
  dsimp only
  repeat' split
  all_goals simp

@[simp] theorem State.preemptTask_kept (s : State) (i : Nat) : (s.preemptTask i).kept = s.kept := by
  unfold State.preemptTask
  dsimp only
  repeat' split
  all_goals simp

@[simp] theorem execPreemptionRequest_safe (i : Nat) (s : State) : Safe s (execPreemptionRequest i s) := by
  simp [execPreemptionRequest, foldl_kept]

@[simp] theorem State.pauseGroup_kept (s : State) (g : Nat) : (s.pauseGroup g).kept = s.kept := by
  unfold State.pauseGroup
  dsimp only
  repeat' split
  all_goals simp

@[simp] theorem execRestoreResume_safe (s : State) : Safe s (execRestoreResume s) := by
  unfold execRestoreResume
  dsimp only
  repeat' split
  all_goals simp

/-! ### Snapshots -/

@[simp] theorem State.setRange_kept (s : State) (c k : Nat) (r : Range) : (s.setRange c k r).kept = s.kept := (rfl)

@[simp] theorem State.orderPkg_kept (s : State) : s.orderPkg.kept = s.kept := (rfl)

@[simp] theorem execSnap_safe (d a b : Reg) (s : State) : Safe s (execSnap d a b s) := by
  refine State.needLoose_safe _ ?_
  split
  · simp
  · refine State.afterFailed_kept ?_
    split <;> simp

@[simp] theorem State.acceptLevel_kept (s : State) (c k : Nat) (r : Range) : (s.acceptLevel c k r).kept = s.kept := (rfl)

@[simp] theorem execSnapq_safe (d a : Reg) (sel : BitVec 7) (s : State) : Safe s (execSnapq d a sel s) := by
  unfold execSnapq
  split <;> simp

@[simp] theorem State.discardHeld_kept (s : State) (x : Nat) : (s.discardHeld x).kept = s.kept := by
  unfold State.discardHeld
  dsimp only
  rw [foldl_kept _ fun s w => by simp]
  simp

/-! ### Sample groups -/

@[simp] theorem State.groupError_kept (s : State) (sub : Nat) (tval : Word) : (s.groupError sub tval).kept = s.kept := by
  simp [State.groupError]

@[simp] theorem State.setGroup_kept (s : State) (g : Nat) (v : Group) : (s.setGroup g v).kept = s.kept := (rfl)

theorem State.forkCheck_kept {s t : State} {A : Word} {m : SMap Byte} {pa : Nat} (h : s.forkCheck A = .ok (m, pa, t)) :
    t.kept = s.kept := by
  simp only [State.forkCheck, bind, Except.bind] at h
  split at h
  · cases h
  · split at h
    · cases h
    · split at h
      · cases h
      · next h1 =>
        rw [← State.readVa_kept h1]
        repeat' split at h
        all_goals cases h
        rfl

@[simp] theorem execGreport_safe (a : Reg) (s : State) : Safe s (execGreport a s) := by
  refine State.needLoose_safe _ ?_
  repeat' split
  all_goals simp

@[simp] theorem State.groupWait_safe (s : State) (i : Instr) (d a : Reg) (yields : Bool) : Safe s (s.groupWait i d a yields) := by
  refine State.needLoose_safe _ ?_
  repeat' split
  all_goals simp

@[simp] theorem execGwait_safe (d a : Reg) (s : State) : Safe s (execGwait d a s) := by
  simp [execGwait]

@[simp] theorem execGwaitY_safe (d a : Reg) (s : State) : Safe s (execGwaitY d a s) := by
  simp [execGwaitY]

@[simp] theorem execGcancel_safe (d a b : Reg) (s : State) : Safe s (execGcancel d a b s) := by
  refine State.needLoose_safe _ ?_
  dsimp only
  repeat' split
  all_goals simp

@[simp] theorem execGstat_safe (d a b : Reg) (sel : BitVec 7) (s : State) : Safe s (execGstat d a b sel s) := by
  simp only [execGstat]
  repeat' split
  all_goals simp

@[simp] theorem State.leaveTable_kept (s : State) (g : Nat) : (s.leaveTable g).kept = s.kept := by
  unfold State.leaveTable
  dsimp only
  split <;> simp

@[simp] theorem execGwaitRelease_safe (g : Nat) (s : State) : Safe s (execGwaitRelease g s) := by
  simp [execGwaitRelease]

@[simp] theorem State.freeView_kept (s : State) (view : Nat) : (s.freeView view).kept = s.kept := (rfl)

/-! ### Services to the memory system -/

@[simp] theorem State.flush_kept (s : State) (c : Nat) : (s.flush c).kept = s.kept := (rfl)

@[simp] theorem State.retranslate_kept (s : State) : s.retranslate.kept = s.kept := (rfl)

@[simp] theorem State.retranslateAll_kept (s : State) (c : Nat) : (s.retranslateAll c).kept = s.kept :=
  foldl_kept _ (fun _ _ => foldl_kept _ (fun _ _ => by simp) _ _) _ _

@[simp] theorem State.ownSealed_kept (s : State) (c : Nat) (l : List (Nat × Nat)) : (s.ownSealed c l).kept = s.kept := by
  unfold State.ownSealed
  split
  · exact foldl_kept _ (fun _ _ => by simp) _ _
  · rfl

@[simp] theorem State.noteResolved_kept (s : State) (c : Nat) (old : State) : (s.noteResolved c old).kept = s.kept := (rfl)

@[simp] theorem execTranslationFaultUnresolvable_safe (i : Nat) (s : State) : Safe s (execTranslationFaultUnresolvable i s) := by
  unfold execTranslationFaultUnresolvable
  dsimp only
  repeat' split
  all_goals simp

@[simp] theorem State.setRemap_kept (s : State) (g : Nat) (r : Option Remap) : (s.setRemap g r).kept = s.kept := (rfl)

@[simp] theorem execMigrationFlip_safe (g : Nat) (s : State) : Safe s (execMigrationFlip g s) := by
  simp only [execMigrationFlip]
  repeat' split
  all_goals simp

@[simp] theorem State.rename_kept (s : State) (g target : Nat) : (s.rename g target).kept = s.kept := (rfl)

@[simp] theorem State.requestReplacement_kept (s : State) (d unit index : Nat) : (s.requestReplacement d unit index).kept = s.kept := (rfl)

@[simp] theorem State.retired_kept (s : State) (d unit index : Nat) (spare : Bool) : (s.retired d unit index spare).kept = s.kept := by
  unfold State.retired
  split <;> simp

@[simp] theorem execSliceRetire_safe (d k : Nat) (s : State) : Safe s (execSliceRetire d k s) := by
  unfold execSliceRetire
  split <;> simp

@[simp] theorem execCorrectableError_safe (p : StoragePlace) (s : State) : Safe s (execCorrectableError p s) := by
  simp [execCorrectableError]

@[simp] theorem State.mapCore_kept (s : State) (t k : Nat) (f : Core → Core) : (s.mapCore t k f).kept = s.kept := by
  unfold State.mapCore
  split <;> simp

@[simp] theorem State.freezeLink_kept (s : State) (t k n : Nat) : (s.freezeLink t k n).kept = s.kept := by
  unfold State.freezeLink
  dsimp only
  split <;> simp

@[simp] theorem State.poisonPlace_kept (s : State) (p : StoragePlace) : (s.poisonPlace p).kept = s.kept := by
  unfold State.poisonPlace
  dsimp only
  repeat' split
  all_goals simp

@[simp] theorem execUncorrectableError_safe (p : StoragePlace) (consumed : Bool) (s : State) :
    Safe s (execUncorrectableError p consumed s) := by
  unfold execUncorrectableError
  dsimp only
  split <;> simp

@[simp] theorem State.vacate_kept (s : State) (d c : Nat) : (s.vacate d c).kept = s.kept := (rfl)

@[simp] theorem State.retireCore_kept (s : State) (d c : Nat) : (s.retireCore d c).kept = s.kept := by
  unfold State.retireCore
  dsimp only
  split <;> simp

@[simp] theorem State.retireMemory_kept (s : State) (d k : Nat) (spare : Bool) : (s.retireMemory d k spare).kept = s.kept := by
  unfold State.retireMemory
  dsimp only
  split <;> simp

@[simp] theorem execResourceRetire_safe (r : Resource) (s : State) : Safe s (execResourceRetire r s) := by
  unfold execResourceRetire
  dsimp only
  repeat' split
  all_goals simp

/-! ### The host, trust, links, checkpoints and power -/

@[simp] theorem State.setFn_kept (s : State) (k : Nat) (f : HostFn) : (s.setFn k f).kept = s.kept := (rfl)

@[simp] theorem State.emit_kept (s : State) (o : Output) : (s.emit o).kept = s.kept := (rfl)

@[simp] theorem State.setPort_kept (s : State) (p : Nat) (v : Port) : (s.setPort p v).kept = s.kept := (rfl)

@[simp] theorem State.sendFlit_kept (s : State) (p kind : Nat) (payload : List Byte) : (s.sendFlit p kind payload).kept = s.kept := by
  unfold State.sendFlit
  dsimp only
  split <;> simp

@[simp] theorem State.sendPeer_kept (s : State) (p c va : Nat) (bytes : List Byte) : (s.sendPeer p c va bytes).kept = s.kept := by
  simp [State.sendPeer, foldl_kept]

@[simp] theorem State.hostLine_kept (s : State) (fn va pa attr n : Nat) : (s.hostLine fn va pa attr n).2.kept = s.kept := by
  unfold State.hostLine
  dsimp only
  repeat' split
  all_goals simp

theorem hostRead_kept {fn fuel : Nat} {s t : State} {va n : Nat} {b : List Byte} (h : hostRead fn fuel s va n = .ok (b, t)) :
    t.kept = s.kept := by
  induction fuel generalizing s va n b with
  | zero => cases h; rfl
  | succ fuel ih =>
    unfold hostRead at h
    split at h
    · cases h; rfl
    · split at h
      · dsimp only at h
        split at h
        · next h1 => cases h; rw [ih h1, State.hostLine_kept]
        · cases h
      · cases h

@[simp] theorem execHostMemoryRead_safe (fn va n : Nat) (s : State) : Safe s (execHostMemoryRead fn va n s) := by
  unfold execHostMemoryRead
  split
  · simp
  · split
    · simp
    · split
      · next h => simp [hostRead_kept h]
      · simp

@[simp] theorem execMsixMessage_safe (fn vec : Nat) (s : State) : Safe s (execMsixMessage fn vec s) := by
  unfold execMsixMessage
  dsimp only
  split <;> simp

@[simp] theorem State.setResponder_kept (s : State) (tr : Nat) (v : Spdm) : (s.setResponder tr v).kept = s.kept := (rfl)

@[simp] theorem State.reply_kept (s : State) (tr code : Nat) (bytes : List Byte) : (s.reply tr code bytes).kept = s.kept := (rfl)

@[simp] theorem State.refuse_kept (s : State) (tr code : Nat) : (s.refuse tr code).kept = s.kept := (rfl)

@[simp] theorem State.versioned_safe {s t : State} (rq : Req) (h : t.kept = s.kept) : Safe s (s.versioned rq t) := by
  unfold State.versioned
  split <;> simp [h]

@[simp] theorem State.negotiated_safe {s t : State} (rq : Req) (h : t.kept = s.kept) : Safe s (s.negotiated rq t) := by
  refine State.versioned_safe _ ?_
  split <;> simp [h]

@[simp] theorem execGetVersion_safe (rq : Req) (s : State) : Safe s (execGetVersion rq s) := by
  unfold execGetVersion
  split <;> simp

@[simp] theorem execGetCapabilities_safe (rq : Req) (s : State) : Safe s (execGetCapabilities rq s) := by
  simp [execGetCapabilities, apply_ite State.kept]

@[simp] theorem execNegotiateAlgorithms_safe (rq : Req) (p521 sha secp aes : Bool) (s : State) :
    Safe s (execNegotiateAlgorithms rq p521 sha secp aes s) := by
  simp [execNegotiateAlgorithms, apply_ite State.kept]

@[simp] theorem execGetDigests_safe (rq : Req) (s : State) : Safe s (execGetDigests rq s) :=
  State.negotiated_safe _ (State.reply_kept _ _ _ _)

@[simp] theorem execGetCertificate_safe (rq : Req) (slot off len : Nat) (s : State) : Safe s (execGetCertificate rq slot off len s) := by
  simp [execGetCertificate, apply_ite State.kept]

@[simp] theorem execChallenge_safe (rq : Req) (slot : Nat) (nonce : BitVec 256) (s : State) : Safe s (execChallenge rq slot nonce s) := by
  simp [execChallenge, apply_ite State.kept]

@[simp] theorem execGetMeasurements_safe (rq : Req) (index : Nat) (s : State) : Safe s (execGetMeasurements rq index s) := by
  simp [execGetMeasurements, apply_ite State.kept]

@[simp] theorem execKeyExchange_safe (rq : Req) (slot : Nat) (s : State) : Safe s (execKeyExchange rq slot s) := by
  simp [execKeyExchange, apply_ite State.kept]

@[simp] theorem State.inSession_kept {s t : State} (rq : Req) (session : Nat) (h : t.kept = s.kept) :
    (s.inSession rq session t).kept = s.kept := by
  unfold State.inSession
  split
  · exact h
  · simp

@[simp] theorem execFinish_safe (rq : Req) (session : Nat) (s : State) : Safe s (execFinish rq session s) := by
  refine State.versioned_safe _ ?_
  split <;> simp

@[simp] theorem execHeartbeat_safe (rq : Req) (session : Nat) (s : State) : Safe s (execHeartbeat rq session s) :=
  State.versioned_safe _ (State.inSession_kept _ _ (State.reply_kept _ _ _ _))

@[simp] theorem execEndSession_safe (rq : Req) (session : Nat) (s : State) : Safe s (execEndSession rq session s) := by
  refine State.versioned_safe _ ?_
  split <;> simp

@[simp] theorem execIdeKm_safe (rq : Req) (session fn : Nat) (op : IdeOp) (s : State) : Safe s (execIdeKm rq session fn op s) := by
  simp [execIdeKm, apply_ite State.kept]

@[simp] theorem execSealContext_safe (c : Nat) (s : State) : Safe s (execSealContext c s) := by
  unfold execSealContext
  dsimp only
  split <;> simp

@[simp] theorem execContextDestroy_safe (c : Nat) (s : State) : Safe s (execContextDestroy c s) := by
  simp [execContextDestroy]

@[simp] theorem execFlitReceive_safe (p : Nat) (f : Flit) (s : State) : Safe s (execFlitReceive p f s) := by
  unfold execFlitReceive
  dsimp only
  repeat' split
  all_goals simp

@[simp] theorem execNak_safe (p seq : Nat) (s : State) : Safe s (execNak p seq s) := by
  unfold execNak
  dsimp only
  repeat' split
  · simp
  · simp
  · rw [safe_next, foldl_kept _ fun s f => by simp]
    simp

@[simp] theorem State.failHops_kept (s : State) (i : Nat) (l : List (Pend × Nat × Nat)) : (s.failHops i l).kept = s.kept := by
  simp [State.failHops]

@[simp] theorem execLinkFail_safe (p : Nat) (s : State) : Safe s (execLinkFail p s) := by
  simp [execLinkFail, apply_ite State.kept, foldl_kept]

@[simp] theorem execLinkRetrain_safe (p latency : Nat) (s : State) : Safe s (execLinkRetrain p latency s) := by
  unfold execLinkRetrain
  split <;> simp

@[simp] theorem execCounterFlitSend_safe (p : Nat) (s : State) : Safe s (execCounterFlitSend p s) := by
  simp [execCounterFlitSend]

@[simp] theorem execCounterFlitReceive_safe (p ts : Nat) (s : State) : Safe s (execCounterFlitReceive p ts s) := by
  unfold execCounterFlitReceive
  split <;> simp

@[simp] theorem execMemoryCheckpoint_safe (s : State) : Safe s (execMemoryCheckpoint s) := by
  unfold execMemoryCheckpoint
  split <;> simp

@[simp] theorem execFullCheckpoint_safe (s : State) : Safe s (execFullCheckpoint s) := by
  simp [execFullCheckpoint, apply_ite State.kept, foldl_kept]

@[simp] theorem execCheckpointDrainComplete_safe (s : State) : Safe s (execCheckpointDrainComplete s) := by
  unfold execCheckpointDrainComplete
  split <;> simp

@[simp] theorem State.trainFails_kept (s : State) (d k : Nat) : (s.trainFails d k).kept = s.kept := by
  simp [State.trainFails]

@[simp] theorem execBringUp_safe (ok : Bool) (s : State) : Safe s (execBringUp ok s) := by
  unfold execBringUp
  dsimp only
  repeat' split
  all_goals simp

@[simp] theorem execThrottle_safe (s : State) : Safe s (execThrottle s) := by
  simp [execThrottle]

@[simp] theorem State.throttleOver_kept (s : State) (r : Region) : (s.throttleOver r).kept = s.kept := by
  unfold State.throttleOver
  split <;> simp

@[simp] theorem execThrottleResume_safe (s : State) : Safe s (execThrottleResume s) := by
  unfold execThrottleResume
  repeat' split
  · simp
  · simp
  · simp
  · rw [safe_next, foldl_kept _ fun s p => by simp]
    simp

@[simp] theorem execThermalTrip_safe (d : Nat) (s : State) : Safe s (execThermalTrip d s) := by
  simp [execThermalTrip]

/-! ### Fetching -/

theorem State.fetchWord_kept {s t : State} {w : Word32} (h : s.fetchWord = .ok (w, t)) : t.kept = s.kept := by
  unfold State.fetchWord at h
  dsimp only at h
  split at h
  · repeat' split at h
    all_goals cases h
    rfl
  · split at h
    · cases h
    · next h1 =>
      split at h
      · cases h
      · cases h
        rw [serveRead_kept h1, State.countPages_kept]

/-! ### The schedule -/

@[simp] theorem phaseCsrWrite_kept (n : Nat) (v : Word) (s : State) : (phaseCsrWrite n v s).kept = s.kept := (rfl)

@[simp] theorem State.onTask_kept (s : State) (i : Nat) : (s.onTask i).kept = s.kept := (rfl)

@[simp] theorem State.run_moves (s : State) (k : Nat) (t : Turn) : Moves s (s.run k t) := by
  simp [State.run]

@[simp] theorem State.queuesMove_moves (s : State) : Moves s s.queuesMove := by
  refine Moves.findSome? (fun p => ?_) _
  cases s.queueMove p.1 <;> simp

@[simp] theorem State.frozenMove_moves (s : State) (f : Freeze) : Moves s (s.frozenMove f) := by
  unfold State.frozenMove
  dsimp only
  repeat' split
  all_goals simp

@[simp] theorem State.regionMove_moves (s : State) : Moves s s.regionMove := by
  unfold State.regionMove
  dsimp only
  repeat' split
  all_goals simp

@[simp] theorem State.taskMove_moves (s : State) : Moves s s.taskMove := by
  unfold State.taskMove
  dsimp only
  repeat' split
  all_goals simp

@[simp] theorem State.peerFreeze_kept (s : State) (why : FreezeWhy) (cycle : Nat) : (s.peerFreeze why cycle).kept = s.kept := (rfl)

@[simp] theorem State.peerEvent_kept (s : State) (i : Instr) : (s.peerEvent i).kept = s.kept := by
  unfold State.peerEvent
  dsimp only
  repeat' split
  all_goals simp

@[simp] theorem State.deliverEvent_kept (s : State) (i : Instr) : (s.deliverEvent i).kept = s.kept := by
  unfold State.deliverEvent
  dsimp only
  repeat' split
  all_goals simp

@[simp] theorem State.inboxMove_moves (s : State) : Moves s s.inboxMove := by
  unfold State.inboxMove
  split
  · simp
  · dsimp only
    split <;> simp

@[simp] theorem State.groupMove_moves (s : State) : Moves s s.groupMove := by
  unfold State.groupMove
  split
  · simp
  · refine Moves.findSome? (fun p => ?_) _
    dsimp only
    split <;> simp

@[simp] theorem State.distributorMove_moves (s : State) : Moves s s.distributorMove := by
  unfold State.distributorMove
  dsimp only
  repeat' split
  all_goals simp

@[simp] theorem State.throttleMove_moves (s : State) : Moves s s.throttleMove := by
  unfold State.throttleMove
  split <;> simp

@[simp] theorem State.messageMove_moves (s : State) : Moves s s.messageMove := by
  refine Moves.findSome? (fun p => ?_) _
  dsimp only
  split
  · simp
  · exact Moves.map fun v => rfl

end Sys2Proof.Machine
end

section
/-!
PROOF. The operations and instructions that do write memory, slidemax or what a trap takes back keep the invariant of O59; with them every
phase, every turn and the whole step keep it.
-/

namespace Sys2Proof.Machine

theorem safe_of {s : State} {o : Answer} (h : KeptInv s.kept → Safe s o) : Safe s o := fun t ht hs => h hs t ht hs

@[simp] theorem keptInv_ite {c : Prop} [Decidable c] {a b : State} :
    KeptInv (if c then a else b).kept ↔ (c → KeptInv a.kept) ∧ (¬ c → KeptInv b.kept) := by
  split <;> simp [*]

theorem inv_of_device {s t : State} (hd : SameDevice s t) (hf : KeepsForm s t) (h : KeptInv s.kept) : KeptInv t.kept := by
  obtain ⟨hm, hp, hl⟩ := h
  refine ⟨hf hm, ?_, ?_⟩
  · simpa only [State.kept, hd.pre] using hp
  · simpa only [State.kept, hd.slidemax] using hl

theorem inv_of_outside {s t : State} (hd : SameOutside s t) (hf : KeepsForm s t) (h : KeptInv s.kept) : KeptInv t.kept :=
  inv_of_device (.of_outside hd) hf h

theorem foldl_inv {α : Type} (f : State → α → State) (hf : ∀ s a, KeptInv s.kept → KeptInv (f s a).kept) (l : List α) (s : State)
    (h : KeptInv s.kept) : KeptInv (l.foldl f s).kept := by
  induction l generalizing s with
  | nil => exact h
  | cons a l ih => exact ih _ (hf _ _ h)

/-! ### Named operations over the running core and its region -/

theorem State.needLoose_inv {s t : State} (i : Instr) (h : KeptInv s.kept → KeptInv t.kept) : Safe s (s.needLoose i t) := by
  rw [State.needLoose, safe_next]
  intro hs
  split
  · simpa using hs
  · exact h hs

/-! ### Loads, stores, atomics and ranges -/

theorem State.afterFailed_inv {s t : State} (hs : KeptInv s.kept) (h : KeptInv t.kept) : KeptInv (s.afterFailed t).kept := by
  unfold State.afterFailed
  split
  · split
    · exact h
    · simpa using hs
  · exact h

/-! ### The host, trust, links, checkpoints and power -/

theorem State.versioned_inv {s t : State} (rq : Req) (h : KeptInv s.kept → KeptInv t.kept) : Safe s (s.versioned rq t) := by
  rw [State.versioned, safe_next]
  intro hs
  split
  · exact h hs
  · simpa using hs

theorem State.inSession_inv {s t : State} (rq : Req) (session : Nat) (hs : KeptInv s.kept) (h : KeptInv t.kept) :
    KeptInv (s.inSession rq session t).kept := by
  unfold State.inSession
  split
  · exact h
  · simpa using hs

/-! ### Services to the memory system -/

theorem State.afterEdit_inv {s t : State} (edit : List (Nat × Word)) (i : Instr) (hs : KeptInv s.kept) (h : KeptInv t.kept) :
    KeptInv (s.afterEdit edit i t).kept := by
  unfold State.afterEdit
  repeat' split
  · simpa using hs
  · simpa using hs
  · exact h

/-! ### The memory system -/

@[simp] theorem State.writePas_inv {s : State} (pa : Nat) (l : List Byte) (h : KeptInv s.kept) : KeptInv (s.writePas pa l).kept :=
  inv_of_outside (s.writePas_outside pa l) (s.writePas_form pa l) h

@[simp] theorem State.applyAmo_inv {s : State} (g : Agent) (issue tv pa : Nat) (l : List Byte) (h : KeptInv s.kept) :
    KeptInv (s.applyAmo g issue tv pa l).kept :=
  inv_of_outside (s.applyAmo_outside g issue tv pa l) (s.applyAmo_form g issue tv pa l) h

@[simp] theorem State.systemWrite_inv {s : State} (pa : Nat) (l : List Byte) (h : KeptInv s.kept) : KeptInv (s.systemWrite pa l).kept :=
  inv_of_outside (s.systemWrite_outside pa l) (s.systemWrite_form pa l) h

@[simp] theorem State.writeBack_inv {s : State} (die line : Nat) (h : KeptInv s.kept) : KeptInv (s.writeBack die line).kept :=
  inv_of_outside (s.writeBack_outside die line) (s.writeBack_form die line) h

@[simp] theorem State.storeLine_inv {s : State} (g : Agent) (va pa attr : Nat) (l : List Byte) (h : KeptInv s.kept) :
    KeptInv (s.storeLine g va pa attr l).kept :=
  inv_of_outside (s.storeLine_outside g va pa attr l) (s.storeLine_form g va pa attr l) h

theorem State.store_inv {s t : State} {g : Agent} {k : Access} {e : Option (Option Nat)} {p : List Nat} {va : Nat} {l : List Byte}
    (ht : s.store g k e p va l = .done t) (h : KeptInv s.kept) : KeptInv t.kept :=
  inv_of_outside (s.store_outside t g k e p va l ht) (s.store_form t g k e p va l ht) h

/-! ### Named operations over the running core and its region -/

/-- What a trap takes back has memory in canonical form. -/
theorem State.restore_inv {s : State} {b : Before} (hb : s.pre = some b) (h : KeptInv s.kept) : KeptInv (s.restore b).kept := by
  refine ⟨h.2.1 b hb, ?_, h.2.2⟩
  intro b' hb'
  cases hb'

@[simp] theorem State.slideBack_inv {s : State} (x : Option Nat) (h : KeptInv s.kept) : KeptInv (s.slideBack x).kept := by
  unfold State.slideBack
  split
  · exact h
  · next hb =>
    dsimp only
    split <;> simp [State.restore_inv hb h]

/-! ### Copies -/

@[simp] theorem State.putRow_inv {s : State} (c : Copy) (d : CopyDesc) (r : Nat) (l : List Byte) (bad : List Nat) (h : KeptInv s.kept) :
    KeptInv (s.putRow c d r l bad).kept := by
  unfold State.putRow
  split
  · split
    · next hw => exact State.store_inv hw h
    · exact h
    · simpa using h
  · split <;> simpa using h

@[simp] theorem execCopyRowPerform_safe (uid r : Nat) (s : State) : Safe s (execCopyRowPerform uid r s) := by
  unfold execCopyRowPerform
  split
  · simp
  · split
    · split
      · simp
      · simp +contextual
      · next hr =>
        have hs := State.rowReady_kept hr
        dsimp only
        repeat' split
        all_goals simp +contextual [hs]
    · simp

/-! ### Configurations, runs and streams -/

@[simp] theorem execStreamWritePerform_safe (se run : Nat) (dst : BeatDest) (l : List Byte) (s : State) :
    Safe s (execStreamWritePerform se run dst l s) := by
  unfold execStreamWritePerform
  dsimp only
  split
  · simp
  · simp
  · split
    · next hw => simpa using State.store_inv hw
    · simp +contextual
    · simp

/-! ### Loads, stores, atomics and ranges -/

@[simp] theorem State.rangeLine_inv {s : State} (op count line : Nat) (h : KeptInv s.kept) : KeptInv (s.rangeLine op count line).kept := by
  unfold State.rangeLine
  split <;> simp [h]

@[simp] theorem phaseRangeAct_inv (seq : Nat) {s : State} (h : KeptInv s.kept) : KeptInv (phaseRangeAct seq s).kept := by
  unfold phaseRangeAct
  split
  · exact h
  · split <;> simp [h]

@[simp] theorem State.applyStq_inv {s : State} (e : StoreEntry) (pa attr : Nat) (bytes : List Byte) (h : KeptInv s.kept) :
    KeptInv (s.applyStq e pa attr bytes).kept := by
  unfold State.applyStq
  dsimp only
  split <;> simp [h]

@[simp] theorem State.applyAmoEntry_inv {s : State} (e : StoreEntry) (pa attr aop : Nat) (wide : Bool) (v c : Word) (h : KeptInv s.kept) :
    KeptInv (s.applyAmoEntry e pa attr aop wide v c).kept := by
  unfold State.applyAmoEntry
  extract_lets g n tv old reply
  have hreply : ∀ t bad, (reply t bad).kept = t.kept := by
    intro t bad
    unfold reply
    split <;> simp
  clear_value reply
  repeat' split
  all_goals simp [h, hreply]

@[simp] theorem execStorePerform_safe (seq : Nat) (s : State) : Safe s (execStorePerform seq s) := by
  refine safe_of fun h => ?_
  unfold execStorePerform
  split
  · simp
  · rw [safe_next]
    intro _
    split
    · simp [h]
    · split <;> simp [h]

/-! ### Regions -/

theorem State.openCycle_kept (s : State) : s.openCycle.kept = (s.mem, some s.before, s.slidemax) := by
  have h : ((s.checkItems.countRegion 2).countRegion 3).kept = s.kept := by simp
  unfold State.openCycle
  generalize (s.checkItems.countRegion 2).countRegion 3 = t at h ⊢
  simp only [State.kept, Prod.mk.injEq] at h
  exact congr (congrArg _ h.1) (congrArg _ h.2.2)

@[simp] theorem State.openCycle_inv {s : State} (h : KeptInv s.kept) : KeptInv s.openCycle.kept := by
  rw [State.openCycle_kept]
  refine ⟨h.1, ?_, h.2.2⟩
  rintro b ⟨⟩
  exact h.1

@[simp] theorem phaseCycleProbe_inv {s : State} (h : KeptInv s.kept) : KeptInv (phaseCycleProbe s).kept :=
  ⟨h.1, fun b hb => by cases hb; exact h.1, h.2.2⟩

@[simp] theorem phaseCycleOpen_inv {s : State} (h : KeptInv s.kept) : KeptInv (phaseCycleOpen s).kept := by
  have ht : ∀ (l : List (Nat × Word × Nat × Nat × Word)) (t : State), KeptInv t.kept →
      KeptInv (l.foldl (fun s (k, pc, cause, sub, tval) => s.trapUnit 0 cause sub tval pc k) t).kept :=
    foldl_inv _ fun t q hs => by simpa using hs
  unfold phaseCycleOpen
  dsimp only
  split
  · simpa using h
  · split
    · simpa using h
    · simp only [keptInv_ite]
      repeat' split
      all_goals simp [h, ht, phaseCycleProbe_inv h]

@[simp] theorem State.probeDone_inv {s : State} (h : KeptInv s.kept) : KeptInv s.probeDone.kept := by
  unfold State.probeDone
  cases hp : s.pre with
  | none =>
    dsimp only
    split
    · split <;> simpa using h
    · simpa using h
  | some b =>
    have hr := State.restore_inv hp h
    dsimp only
    split
    · split <;> simpa using hr
    · simpa using hr

theorem State.cycleDone_inv {s : State} (t : Task) (r : Region) (h : KeptInv s.kept) :
    KeptInv ({ (s.setTask t).setRegion r with pre := none } : State).kept := by
  rw [show ({ (s.setTask t).setRegion r with pre := none } : State).kept = (s.mem, none, s.slidemax) from rfl]
  refine ⟨h.1, ?_, h.2.2⟩
  rintro b ⟨⟩

@[simp] theorem phaseCycleEnd_inv {s : State} (h : KeptInv s.kept) : KeptInv (phaseCycleEnd s).kept := by
  unfold phaseCycleEnd
  extract_lets r s1 traps w s2 r2 s3 s4 next r4 s5
  have h1 : KeptInv s1.kept := by
    unfold s1
    split
    · next hp => exact State.restore_inv hp h
    · exact h
  have h4 : KeptInv s4.kept := s.cycleDone_inv _ _ h
  have hnext : ∀ t : State, (next t).kept = t.kept := fun _ => (rfl)
  have h5 : KeptInv s5.kept := by simpa [s5] using h4
  clear_value s1 next s4 s5
  split
  · simpa using h1
  · repeat' split
    all_goals simp [h, h4, h5, hnext]

/-! ### Queues and tasks -/

@[simp] theorem State.outsideWrite_inv {s : State} (w : HeldWrite) (h : KeptInv s.kept) : KeptInv (s.outsideWrite w).kept :=
  inv_of_device (s.outsideWrite_device w) (s.outsideWrite_form w) h

@[simp] theorem State.putMem'_inv {s : State} (c va : Nat) (l : List Byte) (h : KeptInv s.kept) : KeptInv (s.putMem' c va l).kept :=
  inv_of_device (s.putMem'_device c va l) (s.putMem'_form c va l) h

@[simp] theorem State.faultRecord_inv {s : State} (c : Nat) (cause epc tval : Word) (r : Record) (h : KeptInv s.kept) :
    KeptInv (s.faultRecord c cause epc tval r).kept :=
  inv_of_device (s.faultRecord_device c cause epc tval r) (s.faultRecord_form c cause epc tval r) h

@[simp] theorem State.append_inv {s : State} (q : Nat) (record : List Byte) (h : KeptInv s.kept) : KeptInv (s.append q record).kept := by
  simp [State.append, h]

@[simp] theorem execLaunch_safe (d a b : Reg) (s : State) : Safe s (execLaunch d a b s) := by
  refine State.needLoose_inv _ fun h => ?_
  split
  · simpa using h
  · split
    · simpa using h
    · dsimp only
      split
      · simpa using h
      · refine State.afterFailed_inv h ?_
        split
        · simpa using h
        · split
          · simpa using h
          · next hr =>
            have hs := State.readVa_kept hr
            simp [h, hs]

@[simp] theorem execSubmit_safe (fn q : Nat) (s : State) : Safe s (execSubmit fn q s) := by
  unfold execSubmit
  split <;> simp +contextual

@[simp] theorem State.claim_inv {s : State} (q n prio : Nat) (at' : SMap Nat × SMap (Nat × Nat)) (h : KeptInv s.kept) :
    KeptInv (s.claim q n prio at').kept := by
  simp [State.claim, h, -List.reduceReplicate]

/-- The tasks of a group that comes back to the cores, at the places found for them. -/
def State.placed (s : State) (l : List (Nat × SMap Nat × SMap (Nat × Nat))) : State :=
  l.foldl (fun s (j, p) => { s with tasks := SMap.put s.tasks j { SMap.get {} s.tasks j with dies := p.1, places := p.2 } }) s

@[simp] theorem State.placed_kept (s : State) (l : List (Nat × SMap Nat × SMap (Nat × Nat))) : (s.placed l).kept = s.kept := by
  unfold State.placed
  refine foldl_kept _ (fun _ _ => ?_) l s
  rfl

@[simp] theorem execSelection_safe (s : State) : Safe s (execSelection s) := by
  refine safe_of fun h => ?_
  unfold execSelection
  split
  · simp
  · next c _ =>
    dsimp only
    split
    · split
      · simp
      · rw [safe_next]
        intro _
        change KeptInv (State.placed _ _).kept
        simpa using h
    · split
      · simp
      · split
        · simp
        · rw [safe_next]
          intro _
          have hf := foldl_inv (fun s (p : Nat × SMap Nat × SMap (Nat × Nat)) => s.claim c.queue p.1 c.prio p.2) fun t p ht => State.claim_inv _ _ _ _ ht
          simpa using hf _ _ (by simpa using h)

@[simp] theorem execTaskBind_safe (s : State) : Safe s (execTaskBind s) := by
  unfold execTaskBind
  dsimp only
  split
  · simp
  · split <;> simp +contextual

@[simp] theorem execTaskRefused_safe (q reason : Nat) (s : State) : Safe s (execTaskRefused q reason s) := by
  refine safe_of fun h => ?_
  unfold execTaskRefused
  dsimp only
  split
  · simp
  · rw [safe_next]
    intro _
    split <;> simp [h]

@[simp] theorem phaseNoteState_inv {s : State} (h : KeptInv s.kept) : KeptInv (phaseNoteState s).kept := by
  simp [phaseNoteState, h]

@[simp] theorem phaseTaskEnd_inv {s : State} (h : KeptInv s.kept) : KeptInv (phaseTaskEnd s).kept := by
  unfold phaseTaskEnd
  dsimp only
  split <;> simp [h]

@[simp] theorem State.signal_inv {s : State} (t : Task) (h : KeptInv s.kept) : KeptInv (s.signal t).kept := by
  unfold State.signal
  dsimp only
  repeat' split
  all_goals simp [h]

@[simp] theorem execTaskEndSignal_safe (i : Nat) (s : State) : Safe s (execTaskEndSignal i s) := by
  refine safe_of fun h => ?_
  unfold execTaskEndSignal
  dsimp only
  split
  · split
    · simp
    · rw [safe_next]
      intro _
      split <;> simp [h]
  · simp

@[simp] theorem State.cancelRecord_inv {s : State} (q n : Nat) (h : KeptInv s.kept) : KeptInv (s.cancelRecord q n).kept := by
  unfold State.cancelRecord
  dsimp only
  split
  · exact h
  · split <;> simp [h]

@[simp] theorem State.cancelRecords_inv {s : State} (q : Nat) (h : KeptInv s.kept) : KeptInv (s.cancelRecords q).kept :=
  foldl_inv _ (fun _ _ hs => State.cancelRecord_inv _ _ hs) _ _ h

@[simp] theorem execCancelQueued_safe (fn q : Nat) (s : State) : Safe s (execCancelQueued fn q s) := by
  unfold execCancelQueued
  split <;> simp +contextual

@[simp] theorem execCancelAll_safe (fn q : Nat) (s : State) : Safe s (execCancelAll fn q s) := by
  rw [execCancelAll, safe_next]
  intro h
  split
  · rw [foldl_kept _ fun s p => by simp]
    exact State.cancelRecords_inv q h
  · exact h

@[simp] theorem State.saveLink_inv {s : State} (c va : Nat) (l : Link) (live : Bool) (form : List Byte) (h : KeptInv s.kept) :
    KeptInv (s.saveLink c va l live form).kept := by
  unfold State.saveLink
  dsimp only
  refine State.putMem'_inv _ _ _ (State.putMem'_inv _ _ _ (State.putMem'_inv _ _ _ ?_))
  split
  · exact State.putMem'_inv _ _ _ (State.putMem'_inv _ _ _ h)
  · exact h

@[simp] theorem State.saveCore_inv {s : State} (c va : Nat) (k : Core) (timed : Bool) (live : BitVec 256) (h : KeptInv s.kept) :
    KeptInv (s.saveCore c va k timed live).kept := by
  unfold State.saveCore
  dsimp only
  have h3 := State.putMem'_inv c (va + 0x100000) (takeBytes k.scratch 0 Config.scratchBytes)
    (State.putMem'_inv c (va + 0x80000) (takeBytes k.code 0 Config.codeBytes)
      (State.putMem'_inv c (va + 0x40000) (formBytes k 1)
        (State.putMem'_inv c va ((k.x.toList.flatMap fun w => leBytes 8 w.toNat) ++ leBytes 8 k.pc.toNat ++ formBytes k 0) h)))
  split
  · exact h3
  · exact foldl_inv _ (fun _ _ hs => State.saveLink_inv _ _ _ _ _ hs) _ _ h3

@[simp] theorem State.save_inv {s : State} (t : Task) (r : Region) (h : KeptInv s.kept) : KeptInv (execSaveComplete.save s t r).kept := by
  have hf := foldl_inv (fun s (p : Nat × Core) => s.saveCore t.ctx (t.recordVa.toNat + 0x10000 + p.1 * 0x2400000) p.2 r.active r.live)
    (fun _ _ hs => State.saveCore_inv _ _ _ _ _ hs)
  unfold execSaveComplete.save
  dsimp only
  split
  · simp only [State.pauseGroup_kept, State.releaseEngines_kept, State.setTask_kept]
    exact hf _ _ (State.putMem'_inv _ _ _ h)
  · simp only [State.releaseEngines_kept, State.setTask_kept]
    exact hf _ _ (State.putMem'_inv _ _ _ h)

@[simp] theorem execSaveComplete_safe (s : State) : Safe s (execSaveComplete s) := by
  unfold execSaveComplete
  dsimp only
  split
  · simp
  · split
    · split <;> simp +contextual
    · simp +contextual

@[simp] theorem execRestoreBind_safe (s : State) : Safe s (execRestoreBind s) := by
  refine safe_of fun h => ?_
  unfold execRestoreBind
  extract_lets t b cores agenda record r region s1 w s2 s3 s4
  have h2 : KeptInv s2.kept := State.putMem'_inv _ _ _ h
  have h3 : s3.kept = s2.kept := by
    unfold s3
    split
    · refine foldl_kept _ (fun _ _ => ?_) _ _
      rfl
    · rfl
  have h4 : s4.kept = s2.kept := by
    unfold s4
    split <;> simp [h3]
  clear_value s4 s2
  split
  · simp
  · rw [safe_next]
    intro _
    split <;> simp [h4, h2]

/-! ### Snapshots -/

@[simp] theorem State.restoreLine_inv {s : State} (v : Version) (h : KeptInv s.kept) : KeptInv (s.restoreLine v).kept := by
  unfold State.restoreLine
  dsimp only
  split
  · simp [h]
  · split
    · simpa using h
    · split <;> simpa using h

@[simp] theorem State.rejectLevel_inv {s : State} (c k : Nat) (r : Range) (h : KeptInv s.kept) : KeptInv (s.rejectLevel c k r).kept := by
  simpa [State.rejectLevel] using foldl_inv State.restoreLine (fun s v hs => State.restoreLine_inv v hs) _ _ h

theorem State.closeLevel_safe (s : State) (i : Instr) (d a : Reg) {event : State → Nat → Nat → Range → State}
    (he : ∀ c k r, KeptInv s.kept → KeptInv (event s c k r).kept) : Safe s (s.closeLevel i d a event) := by
  refine State.needLoose_inv _ fun h => ?_
  split
  · simpa using h
  · refine State.afterFailed_inv h ?_
    split
    · simpa using h
    · simpa using he _ _ _ h

@[simp] theorem execAccept_safe (d a : Reg) (s : State) : Safe s (execAccept d a s) :=
  s.closeLevel_safe _ _ _ fun _ _ _ h => by simpa using h

@[simp] theorem execReject_safe (d a : Reg) (s : State) : Safe s (execReject d a s) :=
  s.closeLevel_safe _ _ _ fun _ _ _ h => State.rejectLevel_inv _ _ _ h

@[simp] theorem State.retryHeld_inv {s : State} (h : KeptInv s.kept) : KeptInv s.retryHeld.kept :=
  foldl_inv _ (fun _ w hs => State.outsideWrite_inv w hs) _ _ h

@[simp] theorem execQuotaGrow.decline_kept (c : Nat) (s : State) : (execQuotaGrow.decline c s).kept = s.kept := by
  unfold execQuotaGrow.decline
  dsimp only
  refine (foldl_kept _ (fun s p => ?_) _ _).trans (by simp)
  split
  · rfl
  · split <;> simp

@[simp] theorem execQuotaGrow_safe (c : Nat) (lines : Option Nat) (s : State) : Safe s (execQuotaGrow c lines s) := by
  refine safe_of fun h => ?_
  unfold execQuotaGrow
  rw [safe_next]
  intro _
  split <;> simp [h]

/-! ### Sample groups -/

@[simp] theorem State.writeGroup_inv {s : State} (g : Nat) (h : KeptInv s.kept) : KeptInv (s.writeGroup g).kept := by
  simp [State.writeGroup, h]

@[simp] theorem State.forkEvent_inv {s : State} (A : Word) (d : Reg) (m : SMap Byte) (pa : Nat) (h : KeptInv s.kept) :
    KeptInv (s.forkEvent A d m pa).kept := by
  unfold State.forkEvent
  refine foldl_inv _ (fun _ _ hs => State.append_inv _ _ hs) _ _ ?_
  refine State.writeGroup_inv _ ?_
  refine State.putMem'_inv _ _ _ (State.putMem'_inv _ _ _ (State.putMem'_inv _ _ _ ?_))
  simpa using h

@[simp] theorem State.forkWait_inv {s : State} (d a : Reg) (m : SMap Byte) (pa : Nat) (h : KeptInv s.kept) :
    KeptInv (s.forkWait d a m pa).kept := by
  refine State.afterFailed_inv h ?_
  split
  · simpa using h
  · split
    · simpa using h
    · split
      · simpa using h
      · simp [h]

@[simp] theorem execFork_safe (d a : Reg) (s : State) : Safe s (execFork d a s) := by
  refine State.needLoose_inv _ fun h => ?_
  split
  · exact State.forkWait_inv _ _ _ _ (by simpa using h)
  · split
    · simpa using h
    · next hf => exact State.forkWait_inv _ _ _ _ (by rwa [State.forkCheck_kept hf])

@[simp] theorem State.cancelMember_inv {s : State} (g i : Nat) (h : KeptInv s.kept) : KeptInv (s.cancelMember g i).1.kept := by
  unfold State.cancelMember
  dsimp only
  split
  · simpa using h
  · split
    · exact State.cancelRecord_inv _ _ h
    · exact h

@[simp] theorem State.resolve_inv {s : State} (g : Nat) (late : Bool) (h : KeptInv s.kept) : KeptInv (s.resolve g late).kept := by
  have hf := foldl_inv (fun s (p : Member × Nat) => (s.cancelMember g p.2).1) (fun _ p hs => State.cancelMember_inv _ _ hs)
  unfold State.resolve
  dsimp only
  split
  · exact h
  · rw [State.leaveTable_kept]
    refine State.writeGroup_inv g (State.putMem'_inv _ _ _ (State.putMem'_inv _ _ _ ?_))
    exact hf _ _ (by simpa using h)

@[simp] theorem execGroupDeadline_safe (g : Nat) (s : State) : Safe s (execGroupDeadline g s) := by
  refine safe_of fun h => ?_
  unfold execGroupDeadline
  dsimp only
  split
  · simp
  · rw [safe_next]
    intro _
    exact State.resolve_inv _ _ (by simpa using h)

@[simp] theorem execGroupReportApply_safe (g i : Nat) (s : State) : Safe s (execGroupReportApply g i s) := by
  refine safe_of fun h => ?_
  unfold execGroupReportApply
  dsimp only
  split
  · simp
  · rw [safe_next, keptInv_ite]
    intro _
    refine ⟨fun _ => by simpa using h, fun _ => State.writeGroup_inv _ (State.putMem'_inv _ _ _ (State.putMem'_inv _ _ _ ?_))⟩
    simpa using h

@[simp] theorem execGroupMemberEnd_safe (g i : Nat) (s : State) : Safe s (execGroupMemberEnd g i s) := by
  refine safe_of fun h => ?_
  unfold execGroupMemberEnd
  dsimp only
  split
  · simp
  · rw [safe_next]
    intro _
    simp [h]

/-- Members of a group that a cancel ends, counted, keep what the invariant speaks of. -/
theorem State.cancelMembers_inv {s : State} (g : Nat) (l : List Nat) (f : State → Bool → Nat → State)
    (hf : ∀ t hit i, (f t hit i).kept = t.kept) (n : Nat) (h : KeptInv s.kept) :
    KeptInv (l.foldl (fun (acc : State × Nat) i =>
      (f (acc.1.cancelMember g i).1 (acc.1.cancelMember g i).2 i, acc.2 + (if (acc.1.cancelMember g i).2 then 1 else 0))) (s, n)).1.kept := by
  induction l generalizing s n with
  | nil => exact h
  | cons i l ih =>
    refine ih _ ?_
    rw [hf]
    exact State.cancelMember_inv g i h

@[simp] theorem execGroupCancelApply_safe (g : Nat) (s : State) : Safe s (execGroupCancelApply g s) := by
  refine safe_of fun h => ?_
  unfold execGroupCancelApply
  dsimp only
  split
  · simp
  · rw [safe_next]
    intro _
    refine State.writeGroup_inv _ ?_
    refine State.cancelMembers_inv g _ (fun t hit i =>
      if hit && decide (((t.group g).member i).status = 0) && decide ((t.group g).state = 1) then
        t.setGroup g ((t.group g).setMember i { (t.group g).member i with status := 4 }) else t) (fun t hit i => ?_) 0 ?_
    · dsimp only
      split <;> simp
    · simpa using h

/-! ### Services to the memory system -/

@[simp] theorem State.editTable_inv {s : State} (acts : Option Nat) (edit : List (Nat × Word)) (h : KeptInv s.kept) :
    KeptInv (s.editTable acts edit).kept := by
  refine foldl_inv _ (fun s p hs => ?_) _ _ h
  dsimp only
  repeat' split
  all_goals simp [hs]

@[simp] theorem State.cleanCopies_inv {s : State} (h : KeptInv s.kept) : KeptInv s.cleanCopies.kept := by
  refine foldl_inv _ (fun s c hs => ?_) _ _ h
  split <;> simp [hs]

@[simp] theorem State.startFlush_inv {s : State} (c : Nat) (old : State) (h : KeptInv s.kept) : KeptInv (s.startFlush c old).kept := by
  have h1 : KeptInv (((s.flush c).retranslateAll c).ownSealed c (sealedRanges s 9 (s.ctx c).ptroot)).kept := by simpa using h
  unfold State.startFlush
  extract_lets s1 s2 x s3
  have h2 : KeptInv s2.kept := by
    unfold s2
    split
    · exact h1
    · exact State.cleanCopies_inv h1
  have h3 : s3.kept = s2.kept := s2.setCtx_kept _ _
  clear_value s1 s2 s3
  split <;> simpa [h3] using h2

@[simp] theorem execTranslationFlush_safe (c : Nat) (s : State) : Safe s (execTranslationFlush c s) := by
  rw [execTranslationFlush, safe_next]
  exact State.startFlush_inv c s

@[simp] theorem execTranslationFaultResolve_safe (c : Nat) (edit : List (Nat × Word)) (s : State) :
    Safe s (execTranslationFaultResolve c edit s) := by
  rw [execTranslationFaultResolve, safe_next]
  intro h
  exact State.afterEdit_inv _ _ h (by simp [h])

/-- With another memory in canonical form the invariant's part is kept too. -/
theorem KeptInv.withMem {s t u : State} (h : KeptInv s.kept) (ht : t.kept = s.kept) (hm : Memory.wf u.mem = true)
    (hp : u.pre = t.pre) (hl : u.slidemax = t.slidemax) : KeptInv u.kept := by
  rw [← ht] at h
  obtain ⟨_, hq, hk⟩ := h
  refine ⟨hm, ?_, ?_⟩
  · simpa only [State.kept, hp] using hq
  · simpa only [State.kept, hl] using hk

/-- Bytes set one after another keep memory's canonical form. -/
theorem wf_foldl_set (at' : Nat) (l : List (Byte × Nat)) (m : List Host.Cell) (h : Memory.wf m = true) :
    Memory.wf (l.foldl (fun m (b, i) => SMap.set 0 m (at' + i) b) m) = true := by
  induction l generalizing m with
  | nil => exact h
  | cons p l ih => exact ih _ (SMap.wf_set _ _ _ _ h)

@[simp] theorem execMigrationCopy_safe (g target : Nat) (s : State) : Safe s (execMigrationCopy g target s) := by
  refine safe_of fun h => ?_
  unfold execMigrationCopy
  extract_lets pa r bytes at' mem
  have hm : Memory.wf mem = true := wf_foldl_set _ _ _ h.1
  clear_value mem r
  repeat' split
  · simp
  · simp
  · simp
  · simp
  · rw [safe_next]
    intro _
    rw [State.setRemap_kept]
    exact KeptInv.withMem h (s.saveShadows_kept _ _) hm rfl rfl

@[simp] theorem State.evictAt_inv {s : State} (g d : Nat) (h : KeptInv s.kept) : KeptInv (s.evictAt g d).kept := by
  unfold State.evictAt
  exact foldl_inv _ (fun _ _ hs => by simp [hs]) _ _ h

@[simp] theorem execMigrationCleanup_safe (g : Nat) (edit : List (Nat × Word)) (s : State) : Safe s (execMigrationCleanup g edit s) := by
  refine safe_of fun h => ?_
  unfold execMigrationCleanup
  split
  · rw [safe_next]
    intro _
    dsimp only
    split
    · exact h
    · split
      · next o _ => cases o <;> simpa using h
      · exact State.afterEdit_inv _ _ h (by simp [h])
  · simp

@[simp] theorem execCopyEviction_safe (d line : Nat) (s : State) : Safe s (execCopyEviction d line s) := by
  refine safe_of fun h => ?_
  unfold execCopyEviction
  simp [h]

/-! ### The host, trust, links, checkpoints and power -/

@[simp] theorem State.register_inv {s : State} (r : RegWrite) (h : KeptInv s.kept) : KeptInv (s.register r).kept := by
  unfold State.register
  cases r <;> dsimp only
  all_goals repeat' split
  all_goals simp [h]

@[simp] theorem execRegisterWrite_safe (r : RegWrite) (s : State) : Safe s (execRegisterWrite r s) := by
  simp +contextual [execRegisterWrite]

@[simp] theorem execSlidemaxWrite_safe (v : Word) (s : State) : Safe s (execSlidemaxWrite v s) := by
  rw [execSlidemaxWrite, safe_next]
  intro h
  split
  · next hv => exact ⟨h.1, h.2.1, hv⟩
  · exact h

@[simp] theorem execHostMemoryWrite_safe (fn va : Nat) (bytes : List Byte) (s : State) : Safe s (execHostMemoryWrite fn va bytes s) := by
  unfold execHostMemoryWrite
  split
  · simp
  · split <;> simp +contextual

@[simp] theorem State.finishUnlock_inv {s : State} (fn : Nat) (h : KeptInv s.kept) : KeptInv (s.finishUnlock fn).kept := by
  have hv : ((s.viewsOf fn).foldl State.freeView s).kept = s.kept := foldl_kept _ (fun t v => t.freeView_kept v) _ _
  unfold State.finishUnlock
  extract_lets s1 s2 dead gone
  have h2 : s2.kept = s.kept := hv
  rw [State.setCtx_kept]
  refine KeptInv.withMem h h2 (SMap.wf_filter _ _ _ ?_) rfl rfl
  rw [← h2] at h
  exact h.1

@[simp] theorem State.unlockTdi_inv {s : State} (fn : Nat) (error : Bool) (h : KeptInv s.kept) : KeptInv (s.unlockTdi fn error).kept := by
  have hc := foldl_kept (fun s (p : Nat × Task) => s.cancelTask p.1) fun t p => t.cancelTask_kept p.1
  have hq := foldl_inv (fun s (p : Nat × Queue) => s.cancelRecords p.1) fun t p ht => State.cancelRecords_inv p.1 ht
  unfold State.unlockTdi
  extract_lets x wait s1 s2
  have hw : ∀ t : State, KeptInv t.kept → KeptInv (wait t).kept := by
    intro t ht
    unfold wait
    split
    · exact ht
    · exact State.finishUnlock_inv fn ht
  have h2 : KeptInv s2.kept := hq _ _ (by simpa [s1] using h)
  clear_value wait s2
  split
  · exact hw _ h
  · split
    · exact h
    · exact hw _ ((hc _ _).symm ▸ h2)

@[simp] theorem execTdiUnlock_safe (fn : Nat) (error : Bool) (s : State) : Safe s (execTdiUnlock fn error s) := by
  simp +contextual [execTdiUnlock]

theorem State.tdiMove_inv {s t : State} {fn : Nat} {to' : TdiState} (ht : s.tdiMove fn to' = some t) (h : KeptInv s.kept) :
    KeptInv t.kept := by
  unfold State.tdiMove at ht
  dsimp only at ht
  repeat' split at ht
  all_goals cases ht
  all_goals simp [h]

@[simp] theorem execTdispRequest_safe (q : TdiReq) (to' : TdiState) (s : State) : Safe s (execTdispRequest q to' s) := by
  refine State.versioned_inv _ fun h => State.inSession_inv _ _ h ?_
  split
  · next ht => simpa using State.tdiMove_inv ht h
  · simpa using h

@[simp] theorem execPeerTransfer_safe (c va : Nat) (bytes : List Byte) (s : State) : Safe s (execPeerTransfer c va bytes s) := by
  simp +contextual [execPeerTransfer]

@[simp] theorem writeImage_inv {s : State} (image : CheckpointImage) (h : KeptInv s.kept) : KeptInv (writeImage image s).kept := by
  unfold writeImage
  refine (foldl_kept _ (fun t k => ?_) _ _).symm ▸ ?_
  · simp
  · refine foldl_inv _ (fun t r ht => ?_) _ _ h
    simp [ht]

@[simp] theorem execCheckpointRestore_safe (image : CheckpointImage) (signature : BitVec 1056) (s : State) :
    Safe s (execCheckpointRestore image signature s) := by
  refine safe_of fun h => ?_
  unfold execCheckpointRestore
  extract_lets lines again s1 mem
  have ha : again.kept = s.kept := rfl
  have h1 : s1.kept = s.kept := foldl_kept _ (fun t a => t.saveShadows_kept _ _) _ _
  have hm : Memory.wf mem = true := SMap.wf_filter _ _ _ (h1.symm ▸ h : KeptInv s1.kept).1
  clear_value again s1 mem
  rw [safe_next]
  intro _
  repeat' split
  · exact h
  · rwa [ha]
  · rwa [State.ask_kept, ha]
  · exact writeImage_inv _ (KeptInv.withMem h h1 hm rfl rfl)

@[simp] theorem execPowerOnReset_safe (s : State) : Safe s (execPowerOnReset s) := by
  rw [execPowerOnReset, safe_next]
  intro _
  refine ⟨Memory.wf_reset, ?_, rfl⟩
  rintro b ⟨⟩

/-! ### The schedule -/

@[simp] theorem phaseTick_inv {s : State} (h : KeptInv s.kept) : KeptInv (phaseTick s).kept :=
  State.retryHeld_inv h

theorem runPhase_inv {s : State} (p : Phase) (h : KeptInv s.kept) : KeptInv (runPhase p s).kept := by
  cases p <;> simp [runPhase, h]

theorem State.groupClose_inv {s t : State} (ht : s.groupClose = some t) (h : KeptInv s.kept) : KeptInv t.kept := by
  unfold State.groupClose at ht
  split at ht
  · cases ht; exact h
  · obtain ⟨g, _, rfl⟩ := Option.map_eq_some_iff.1 ht
    exact State.resolve_inv g false h

/-- What may come next in a schedule keeps the invariant. -/
def Keeps (s : State) (o : Option State) : Prop := ∀ t, o = some t → KeptInv s.kept → KeptInv t.kept

theorem Moves.keeps {s : State} {o : Option State} (h : Moves s o) : Keeps s o := fun t ht hs => (h t ht).symm ▸ hs

theorem Keeps.orElse {s : State} {o : Option State} {p : Unit → Option State} (ho : Keeps s o) (hp : Keeps s (p ())) :
    Keeps s (o.orElse p) := by
  cases o with
  | none => exact hp
  | some t => exact ho

theorem Keeps.getD {s d : State} {o : Option State} (ho : Keeps s o) (hd : d.kept = s.kept) (h : KeptInv s.kept) :
    KeptInv (o.getD d).kept := by
  cases o with
  | none => exact hd.symm ▸ h
  | some t => exact ho t rfl h

theorem State.onTaskMove_moves (s : State) : Moves s (s.tasks.findSome? fun (i, _) => (s.onTask i).taskMove) := by
  refine Moves.findSome? (fun p => ?_) _
  exact (s.onTask p.1).taskMove_moves

theorem State.groupClose_keeps (s : State) : Keeps s s.groupClose := fun _ ht h => State.groupClose_inv ht h

theorem State.schedule_inv {s : State} (h : KeptInv s.kept) : KeptInv s.schedule.kept := by
  unfold State.schedule
  split
  · rw [State.cycleNext_kept]
    exact h
  · refine Keeps.getD (.orElse (.orElse (.orElse (.orElse (.orElse (.orElse s.groupMove_moves.keeps ?_) ?_) ?_) ?_) ?_) ?_) rfl h
    · exact s.inboxMove_moves.keeps
    · exact s.throttleMove_moves.keeps
    · exact s.onTaskMove_moves.keeps
    · exact s.distributorMove_moves.keeps
    · exact s.messageMove_moves.keeps
    · exact s.groupClose_keeps

/-! ### Instructions -/

theorem exec_safe (i : Instr) (s : State) : Safe s (exec i s) := by
  cases i <;> simp

/-- The state in which an instruction that has been fetched is performed, or that a refused fetch leaves. -/
def Fetched.state : Fetched → State
  | .run _ t | .stop t => t

/-- What has been fetched keeps the invariant when it is performed. -/
theorem perform_safe {s : State} {f : Fetched} (h : f.state.kept = s.kept) : Safe s (State.perform f) := by
  cases f with
  | run i t => exact fun u hu hs => exec_safe i t u hu ((show t.kept = s.kept from h).symm ▸ hs)
  | stop t => exact (safe_next s t).2 fun hs => (show t.kept = s.kept from h).symm ▸ hs

/-! ### Fetching -/

theorem State.admitRead_kept (s : State) (i : Instr) : (s.admitRead i).state.kept = s.kept := by
  unfold State.admitRead
  split
  · exact s.raise_kept _ _ _
  · rfl

theorem State.admitEvent_kept (s : State) (i : Instr) : (s.admitEvent i).state.kept = s.kept := by
  unfold State.admitEvent
  split
  · exact s.trapUnit_kept _ _ _ _ _ _
  · rfl

theorem State.fetch_kept (s : State) : s.fetch.state.kept = s.kept := by
  unfold State.fetch
  split
  · exact s.tryLater_kept _
  · split
    · dsimp only [Fetched.state]
      rw [State.raise_kept]
      split
      · rfl
      · exact s.countWalk_kept _
    · next hf =>
      split
      · exact State.fetchWord_kept hf
      · rw [State.admitRead_kept]
        exact State.fetchWord_kept hf

/-! ### The step -/

theorem runTurn_safe (t : Turn) (s : State) : Safe s (runTurn t s) := by
  cases t with
  | issue => exact perform_safe s.fetch_kept
  | event i => exact perform_safe (s.admitEvent_kept i)
  | phase p => exact (safe_next _ _).2 (runPhase_inv p)

theorem State.advance_safe (s : State) : Safe s s.advance := by
  unfold State.advance
  split
  · next f t rest _ => exact runTurn_safe t { s with cur := f, turn := rest }
  · exact (safe_next _ _).2 State.schedule_inv

theorem step_safe (s : State) : Safe s (step s) := by
  have hr : ∀ f, Safe s (if s.resetWaits then exec .powerOnReset s else .fault f) := by
    intro f
    split
    · exact exec_safe .powerOnReset s
    · exact fun t ht => nomatch ht
  unfold step
  split
  · exact s.advance_safe
  · exact hr .heldInReset
  · exact hr .powerRemoved

/-- Settles O59: what every step keeps, memory's form, what a trap takes back and slidemax, is the invariant. -/
theorem stepKeepsInv : Obligations.StepKeepsInv := by
  unfold Obligations.StepKeepsInv
  intro s t hs h
  exact step_safe s t h hs

end Sys2Proof.Machine
end

section
/-!
PROOF. A region's start, its exits and its deadline (05 R169, R170, R180, R181, 17 R378), with the facts about whole tasks that the other
statements about regions use too.
-/

namespace Sys2Proof.Machine

/-! ### Values changed in place -/

/-- What a map reads after each of its values was changed by a function that keeps the default. -/
theorem SMap.get_map_of_default {α : Type} (d : α) (m : SMap α) (g : α → α) (hd : g d = d) (i : Nat) :
    SMap.get d (m.map fun x => (x.1, g x.2)) i = g (SMap.get d m i) := by
  induction m with
  | nil => exact hd.symm
  | cons x m ih =>
    by_cases h : i = x.1
    · simp [SMap.get, h]
    · simpa [SMap.get, h] using ih

theorem SMap.has_del {α : Type} (m : SMap α) (i : Nat) : SMap.has (SMap.del m i) i = false := by
  induction m with
  | nil => rfl
  | cons p m ih =>
    obtain ⟨k, v⟩ := p
    by_cases h : i = k
    · simpa [SMap.del, h] using h ▸ ih
    · have hk : (k == i) = false := beq_false_of_ne (Ne.symm h)
      rw [SMap.del, if_neg h, SMap.has, List.any_cons, hk, Bool.false_or]
      exact ih

/-! ### Memory -/

/-- Every view reads a byte from memory, through the remap tables, and from the versions of its line. -/
theorem sameMemory_of {s t : State} (hm : t.mem = s.mem) (hv : t.versions = s.versions)
    (hr : ∀ d, (t.die d).remaps = (s.die d).remaps) : SameMemory s t := by
  have hp : ∀ pa, t.readPa pa = s.readPa pa := fun pa => by simp only [State.readPa, State.storage, State.remap, hr, hm]
  intro view pa _
  simp only [State.readView, State.version, hv, hp]

/-! ### What a task holds of the dies and the links -/

theorem State.releaseEngines_die (s : State) (d : Nat) :
    s.releaseEngines.die d = { s.die d with ceOwner := (s.die d).ceOwner.filter fun p => p.2 != s.cur.task } :=
  SMap.get_map_of_default ({} : Die) s.dies (fun v : Die => { v with ceOwner := v.ceOwner.filter fun p => p.2 != s.cur.task }) rfl d

@[simp] theorem State.releaseAll_die (s : State) (d : Nat) :
    s.releaseAll.die d = { s.die d with ceOwner := (s.die d).ceOwner.filter fun p => p.2 != s.cur.task } := s.releaseEngines_die d

theorem State.releaseAll_ceOwner {s : State} {d : Nat} {p : Nat × Nat} (h : p ∈ (s.releaseAll.die d).ceOwner) : p.2 ≠ s.cur.task := by
  rw [State.releaseAll_die] at h
  simpa using (List.mem_filter.1 h).2

theorem State.releaseAll_ports {s : State} {p : Nat × Port} (h : p ∈ s.releaseAll.ports) :
    SMap.has p.2.reserved s.cur.task = false := by
  obtain ⟨q, -, rfl⟩ := List.mem_map.1 h
  exact SMap.has_del _ _

/-! ### Control passes on -/

/-- Cores that agree on control and on the handler pass on the same way. -/
theorem Core.sequential_control {c d : Core} (m : Bool) (h : c.Control d) (hh : d.handler = c.handler) :
    (c.sequential m).Control (d.sequential m) := by
  obtain ⟨h1, h2, h3, h4⟩ := h
  unfold Core.sequential
  rw [hh]
  split
  · exact ⟨congrArg (· + 4) h1, h2, h3, h4⟩
  · obtain ⟨e1, e2, e3, e4⟩ := endTests_control m c.pc c.active c d ⟨h1, h2, h3, h4⟩
    rw [h1, h3]
    exact ⟨e4.symm, e1.symm, e2.symm, e3.symm⟩

/-- Passing on changes control and counters alone. -/
theorem Core.sequential_eq (c : Core) (m : Bool) :
    c.sequential m = { c with pc := (c.sequential m).pc, loops := (c.sequential m).loops, active := (c.sequential m).active,
                              psig := (c.sequential m).psig, hpc := (c.sequential m).hpc, hpcNow := (c.sequential m).hpcNow } := by
  unfold Core.sequential
  split
  · rfl
  · have h := endTests_eq m c.pc c.active c
    dsimp only
    generalize endTests m c.pc c.active c = q at h ⊢
    obtain ⟨d, w⟩ := q
    dsimp only at h ⊢
    rw [h]

/-! ### RGEXIT -/

theorem execRgexit_spec {s : State} (h : s.timed = true) : ∃ t, execRgexit s = .next t ∧ OnlyCore s t ∧ SameMemory s t ∧ SameRegs s t ∧
    { s.core with exited := true }.SameUnits t.core ∧ Passes s t 1 [] := by
  obtain ⟨ni, fr, e, hi⟩ := s.here_finish s.core s.region s.fresh 1
  have hf : s.finish 1 = s.here { (s.core.passed s.timed) with nextIssue := ni } s.region fr := by
    rw [← s.finish_setCore]
    exact e
  have hp := s.passes_finish s.core s.region s.fresh 1 [] rfl rfl ⟨rfl, rfl, rfl, rfl⟩ rfl rfl fun _ _ => ⟨rfl, rfl⟩
  rw [← s.setCore_eq, s.finish_setCore] at hp
  refine ⟨_, by rw [execRgexit, State.needTimed, if_pos h], ?_⟩
  rw [hf] at hp ⊢
  rw [State.here_setCore, State.here_core]
  have hc := s.core.passed_eq s.timed
  refine ⟨⟨s.onlyHere_here _ _ _, s.here_region _ _ _⟩, s.sameMemory_here _ _ _, fun r => ?_, ?_, ?_⟩
  · rw [State.here_core]
    generalize s.core.passed s.timed = q at hc ⊢
    rw [hc]
    rfl
  · rw [State.here_core]
    generalize s.core.passed s.timed = q at hc ⊢
    rw [hc]
    rfl
  · obtain ⟨h1, h2, h3⟩ := hp
    refine ⟨?_, fun i hev => ?_, ?_⟩
    · rw [State.here_core] at h1 ⊢
      exact h1
    · have hn := h2 i hev
      rw [State.here_core] at hn ⊢
      exact hn
    · rw [IssuesAfter, State.here_core] at h3 ⊢
      exact h3

/-! ### Entry and deadline -/

/-- What a fault that ends the task does, on the core that it names. -/
theorem State.faultTask_spec (s : State) (k : Nat) (f : FaultInfo) : FaultsTask s ((s.at' k).faultTask f) k f := rfl

theorem execRegionEntry_ready {s : State} (h : s.region.entering = true)
    (hr : ∀ k < s.region.ncores, SMap.get 0 s.region.readyAt k ≤ s.region.entry) :
    execRegionEntry s = .next (s.setRegion { s.region with active := true, entering := false, rt := 0, slide := 0 }) := by
  have hn : (List.range s.region.ncores).find? (fun k => decide (s.region.entry < SMap.get 0 s.region.readyAt k)) = none := by
    simpa [List.find?_eq_none] using hr
  simp [execRegionEntry, h, hn]

/-- The lowest core that is not ready at the entry tick. -/
theorem execRegionEntry_late {s : State} (h : s.region.entering = true)
    (hr : ¬ ∀ k < s.region.ncores, SMap.get 0 s.region.readyAt k ≤ s.region.entry) :
    ∃ k < s.region.ncores, s.region.entry < SMap.get 0 s.region.readyAt k ∧
      (∀ j < k, SMap.get 0 s.region.readyAt j ≤ s.region.entry) ∧
      execRegionEntry s = .next ((s.at' 0).faultTask
        ⟨causeWord 6 6, s.region.enteredAt, BitVec.ofNat 64 (s.region.base + k), some 0, 0, false, false, (s.coreAt 0).handler⟩) := by
  have hlate : ∃ k, k < s.region.ncores ∧ s.region.entry < SMap.get 0 s.region.readyAt k := by simpa using hr
  obtain ⟨hk, hlt⟩ := Nat.find_spec hlate
  have hlow : ∀ j < Nat.find hlate, SMap.get 0 s.region.readyAt j ≤ s.region.entry := fun j hj =>
    Nat.le_of_not_lt fun h => Nat.find_min hlate hj ⟨hj.trans hk, h⟩
  refine ⟨Nat.find hlate, hk, hlt, hlow, ?_⟩
  have hf : (List.range s.region.ncores).find? (fun k => decide (s.region.entry < SMap.get 0 s.region.readyAt k)) = some (Nat.find hlate) := by
    rw [List.find?_range_eq_some]
    exact ⟨decide_eq_true hlt, List.mem_range.2 hk, fun j hj => by simpa using hlow j hj⟩
  simp [execRegionEntry, h, hf]

/-! ### The exit -/

/-- What the region held is gone or given back. -/
def State.leftRegion (s : State) : State :=
  let s1 := ((s.setTask { s.task with cores := s.task.cores.map fun (k, c) => (k, c.leave), region := {} }).releaseAll).at' 0
  { s1 with history := s1.history.filter fun h => h.task != s.cur.task }

/-- The lead core at the exit, before control passes on (05 R170, R172). -/
def State.exitCore (s : State) : Core :=
  { s.leftRegion.core with pc := s.region.enteredAt, loops := s.region.savedLoops, active := s.region.savedActive, stores := [] }

/-- The lead core resumes: the state at the exit, before a request to stop takes effect. -/
def State.exitState (s : State) : State :=
  let s2 := (s.leftRegion.setTask { s.leftRegion.task with exitTick := some s.ptc }).setCore (s.exitCore.sequential false)
  { s2.setCore { s2.core with nextIssue := s.ptc + 1 + Config.delay s.fresh } with fresh := s.fresh + 1 }

@[simp] theorem State.setTask_setTask (s : State) (t u : Task) : (s.setTask t).setTask u = s.setTask u := by simp [State.setTask]

theorem State.leftRegion_task (s : State) :
    s.leftRegion.task = { s.task with cores := s.task.cores.map fun (k, c) => (k, c.leave), region := {} } :=
  SMap.get_put_self ..

theorem State.leftRegion_coreAt (s : State) (k : Nat) : s.leftRegion.coreAt k = (s.coreAt k).leave := by
  rw [State.coreAt, s.leftRegion_task]
  exact SMap.get_map_of_default ({} : Core) s.task.cores Core.leave rfl k

theorem State.exitCore_eq (s : State) : s.exitCore =
    { (s.coreAt 0).leave with pc := s.region.enteredAt, loops := s.region.savedLoops, active := s.region.savedActive, stores := [] } := by
  rw [← s.leftRegion_coreAt 0]
  rfl

/-- The lead core after the exit. -/
def State.exitedCore (s : State) : Core :=
  { s.exitCore.sequential false with nextIssue := s.ptc + 1 + Config.delay s.fresh }

theorem State.exitState_eq (s : State) : s.exitState = { s.leftRegion.setTask { s.leftRegion.task with
    exitTick := some s.ptc, cores := SMap.put s.leftRegion.task.cores 0 s.exitedCore } with fresh := s.fresh + 1 } := by
  simp only [State.exitState, State.setCore_core, State.setCore_setCore]
  rw [State.setCore, State.setTask_setTask, State.setTask_task]
  rfl

theorem State.exitState_task (s : State) : s.exitState.task = { s.task with
    cores := SMap.put (s.task.cores.map fun (k, c) => (k, c.leave)) 0 s.exitedCore, region := {}, exitTick := some s.ptc } := by
  rw [s.exitState_eq]
  have h := s.leftRegion_task
  exact (SMap.get_put_self ..).trans (by rw [h])

theorem State.exitState_core (s : State) : s.exitState.core = s.exitedCore := by
  have h : s.exitState.cur.core = 0 := by
    rw [s.exitState_eq]
    rfl
  rw [State.core, s.exitState_task, h]
  exact SMap.get_put_self ..

theorem State.exitState_coreAt {s : State} {k : Nat} (h : k ≠ 0) : s.exitState.coreAt k = (s.coreAt k).leave := by
  rw [State.coreAt, s.exitState_task]
  exact (SMap.get_put_of_ne _ _ _ h).trans (SMap.get_map_of_default ({} : Core) s.task.cores Core.leave rfl k)

theorem execRegionExit_of_none {s : State} (h : s.region.active = true) (hs : s.region.stopAt = none) :
    execRegionExit s = .next s.exitState := by
  refine (if_neg (by simp [h])).trans ?_
  rw [hs]
  rfl

theorem execRegionExit_of_some {s : State} {c : Nat} {why : FreezeWhy} (h : s.region.active = true) (hs : s.region.stopAt = some (c, why)) :
    execRegionExit s = .next (s.exitState.stopTask why) := by
  refine (if_neg (by simp [h])).trans ?_
  rw [hs]
  rfl

/-- What the exit leaves of the package, whether or not a request to stop takes effect then. -/
theorem State.exitState_package (s : State) : s.exitState.mem = s.mem ∧ s.exitState.versions = s.versions ∧
    s.exitState.dies = s.releaseAll.dies ∧ s.exitState.ports = s.releaseAll.ports ∧ s.exitState.cur = { s.cur with core := 0 } ∧
    s.exitState.turn = s.turn ∧ s.exitState.ptc = s.ptc := by
  rw [s.exitState_eq]
  refine ⟨?_, ?_, ?_, ?_, ?_, ?_, ?_⟩
  all_goals dsimp only [State.leftRegion, State.releaseAll, State.releaseSlots, State.releaseEngines, State.at', State.setTask]

theorem State.exitState_sameMemory (s : State) : SameMemory s s.exitState := by
  obtain ⟨hm, hv, hd, -⟩ := s.exitState_package
  refine sameMemory_of hm hv fun d => ?_
  rw [State.die, hd, ← State.die, s.releaseAll_die]

theorem State.exitState_region (s : State) : s.exitState.region = {} := by rw [State.region, s.exitState_task]

theorem State.exitedCore_spec (s : State) :
    ({ s.coreAt 0 with pc := s.region.enteredAt, loops := s.region.savedLoops, active := s.region.savedActive }.sequential false).Control
      s.exitedCore ∧ (∀ r, s.exitedCore.rx r = (s.coreAt 0).rx r) ∧
    s.exitedCore.loads = [] ∧ s.exitedCore.stores = [] ∧ s.exitedCore.ranges = [] ∧ s.exitedCore.rings = [] ∧ s.exitedCore.links = [] ∧
    s.exitedCore.arrays = [] ∧ s.exitedCore.runs = [] ∧ s.exitedCore.scratch = (s.coreAt 0).scratch ∧ s.ptc < s.exitedCore.nextIssue := by
  have hq := s.exitCore.sequential_eq false
  refine ⟨?_, ?_⟩
  · refine Core.sequential_control (d := s.exitCore) false ?_ ?_
    all_goals rw [s.exitCore_eq]
    · exact ⟨rfl, rfl, rfl, rfl⟩
    · rfl
  · unfold State.exitedCore
    generalize s.exitCore.sequential false = q at hq ⊢
    rw [hq, s.exitCore_eq]
    refine ⟨fun _ => rfl, rfl, rfl, rfl, rfl, rfl, rfl, rfl, rfl, ?_⟩
    exact Nat.lt_of_lt_of_le (Nat.lt_succ_self _) (Nat.le_add_right _ _)


theorem State.stopTask_preempt_task (s : State) : (s.stopTask .preempt).task = { s.task with state := .freezing, saveAt := s.later } :=
  SMap.get_put_self ..

theorem State.stopTask_preempt_turn (s : State) : (s.stopTask .preempt).turn = s.turn := rfl

theorem State.stopTask_cancel_turn (s : State) : (s.stopTask .cancel).turn = (s.cur, .phase .taskEnd) :: s.turn := rfl

theorem State.stopTask_cancel_task (s : State) : (s.stopTask .cancel).task = { s.task with state := .ending .cancelled, fault := none } :=
  SMap.get_put_self ..

/-- What a request to stop leaves (17 R378). -/
theorem State.stopTask_frame (s : State) (why : FreezeWhy) :
    (s.stopTask why).mem = s.mem ∧ (s.stopTask why).versions = s.versions ∧ (s.stopTask why).dies = s.dies ∧
    (s.stopTask why).ports = s.ports ∧ (s.stopTask why).cur = s.cur ∧ (s.stopTask why).task.cores = s.task.cores ∧
    (s.stopTask why).task.region = s.task.region := by
  cases why with
  | preempt => rw [State.stopTask_preempt_task]; exact ⟨rfl, rfl, rfl, rfl, rfl, rfl, rfl⟩
  | cancel => rw [State.stopTask_cancel_task]; exact ⟨rfl, rfl, rfl, rfl, rfl, rfl, rfl⟩
  | _ => exact ⟨rfl, rfl, rfl, rfl, rfl, rfl, rfl⟩

theorem State.lt_later (s : State) : s.ptc < s.later :=
  Nat.lt_of_lt_of_le (Nat.lt_succ_self _) (Nat.le_add_right _ _)

/-! ### The obligation -/

/-- What the region held is gone at the exit, whatever becomes of the task. -/
theorem State.exitState_leaves {s t : State} (hm : t.mem = s.exitState.mem) (hv : t.versions = s.exitState.versions)
    (hd : t.dies = s.exitState.dies) (hp : t.ports = s.exitState.ports) (hcur : t.cur = s.exitState.cur)
    (hcores : t.task.cores = s.exitState.task.cores) (hr : t.task.region = s.exitState.task.region) :
    SameMemory s t ∧ t.region = {} ∧ t.cur.core = 0 ∧ (∀ k, k ≠ 0 → t.coreAt k = (s.coreAt k).leave) ∧ t.core = s.exitedCore ∧
    (∀ d, ∀ p ∈ (t.die d).ceOwner, p.2 ≠ s.cur.task) ∧ (∀ p ∈ t.ports, SMap.has p.2.reserved s.cur.task = false) := by
  obtain ⟨em, ev, ed, ep, ec, -⟩ := s.exitState_package
  have hdie : ∀ d, t.die d = s.releaseAll.die d := fun d => by rw [State.die, hd, ed, State.die]
  refine ⟨?_, ?_, ?_, fun k hk => ?_, ?_, fun d p h => ?_, fun p h => ?_⟩
  · refine sameMemory_of (hm.trans em) (hv.trans ev) fun d => ?_
    rw [hdie, s.releaseAll_die]
  · rw [State.region, hr, s.exitState_task]
  · rw [hcur, ec]
  · rw [State.coreAt, hcores]
    exact State.exitState_coreAt hk
  · rw [State.core, hcores, hcur]
    exact s.exitState_core
  · rw [hdie] at h
    exact State.releaseAll_ceOwner h
  · rw [hp, ep] at h
    exact State.releaseAll_ports h

theorem execRegionExit_spec {s : State} (h : s.region.active = true) : ∃ t, execRegionExit s = .next t ∧
    (SameMemory s t ∧ t.region = {} ∧ t.cur.core = 0 ∧ (∀ k, k ≠ 0 → t.coreAt k = (s.coreAt k).leave) ∧ t.core = s.exitedCore ∧
      (∀ d, ∀ p ∈ (t.die d).ceOwner, p.2 ≠ s.cur.task) ∧ (∀ p ∈ t.ports, SMap.has p.2.reserved s.cur.task = false)) ∧
    match s.region.stopAt with
    | some (_, .preempt) => t.task.state = .freezing ∧ s.ptc < t.task.saveAt ∧ t.turn = s.turn
    | some (_, .cancel) => t.task.state = .ending .cancelled ∧ t.turn = (t.cur, .phase .taskEnd) :: s.turn
    | _ => t.task.state = s.task.state ∧ t.turn = s.turn := by
  obtain ⟨-, -, -, -, -, eturn, eptc⟩ := s.exitState_package
  have estate : s.exitState.task.state = s.task.state := by rw [s.exitState_task]
  match hs : s.region.stopAt with
  | none => exact ⟨_, execRegionExit_of_none h hs, State.exitState_leaves rfl rfl rfl rfl rfl rfl rfl, estate, eturn⟩
  | some (c, why) =>
    obtain ⟨hm, hv, hd, hp, hcur, hcores, hr⟩ := s.exitState.stopTask_frame why
    refine ⟨_, execRegionExit_of_some h hs, State.exitState_leaves hm hv hd hp hcur hcores hr, ?_⟩
    cases why with
    | preempt =>
      have hl := s.exitState.lt_later
      rw [eptc] at hl
      refine ⟨?_, ?_, s.exitState.stopTask_preempt_turn.trans eturn⟩
      · rw [State.stopTask_preempt_task]
      · rw [State.stopTask_preempt_task]
        exact hl
    | cancel =>
      refine ⟨?_, ?_⟩
      · rw [State.stopTask_cancel_task]
      · rw [State.stopTask_cancel_turn, hcur, eturn]
    | _ => exact ⟨estate, eturn⟩

/-- Settles O22. -/
theorem regionEntryAndExit : Obligations.RegionEntryAndExit := by
  unfold Obligations.RegionEntryAndExit
  intro s
  refine ⟨fun h => ?_, fun h => ?_, fun h => ?_, fun h => ?_⟩
  · rw [exec_regionEntry]
    by_cases hr : ∀ k < s.region.ncores, SMap.get 0 s.region.readyAt k ≤ s.region.entry
    · refine ⟨_, execRegionEntry_ready h hr, ?_⟩
      rw [if_pos hr]
      exact ⟨s.onlyRegion_setRegion _, s.setRegion_region _⟩
    · obtain ⟨k, hk, hlt, hlow, he⟩ := execRegionEntry_late h hr
      refine ⟨_, he, ?_⟩
      rw [if_neg hr]
      exact ⟨k, hk, hlt, hlow, s.faultTask_spec 0 _⟩
  · rw [exec_rgexit]
    exact execRgexit_spec h
  · obtain ⟨t, he, ⟨hm, hr, hcur, hcores, hcore, hdies, hports⟩, hstop⟩ := execRegionExit_spec h
    obtain ⟨hctl, hrx, hl, hst, hra, hri, hli, ha, hru, hsc, hni⟩ := s.exitedCore_spec
    rw [← hcore] at hctl hrx hl hst hra hri hli ha hru hsc hni
    exact ⟨t, he, hm, hr, hcur, hcores, hrx, hctl, hl, hst, hra, hri, hli, ha, hru, hsc, hni, hdies, hports, hstop⟩
  · rw [exec_regionDeadline]
    exact ⟨_, if_neg (by simp [h]), s.faultTask_spec 0 _⟩

end Sys2Proof.Machine
end

section
/-!
PROOF. Freezes, landings, resumes and the slide time-out (05 R173 to R175, R177, R182, 12 R334, 17 R378, R408), with the fact that a read
changes no byte of memory.
-/

namespace Sys2Proof.Machine

/-! ### Reads leave every byte of memory -/

theorem SameMemory.refl (s : State) : SameMemory s s := fun _ _ _ => rfl

theorem SameMemory.trans {s t u : State} (h : SameMemory s t) (k : SameMemory t u) : SameMemory s u :=
  fun view pa hv => (k view pa hv).trans (h view pa hv)

theorem State.noteTlb_sameMemory (s : State) (g : Agent) (va : Nat) : SameMemory s (s.noteTlb g va) :=
  fun view pa _ => (s.noteTlb_reads g va).1 view pa

theorem State.useCopy_sameMemory (s : State) (die line : Nat) : SameMemory s (s.useCopy die line) := by
  unfold State.useCopy
  repeat' split
  all_goals exact fun _ _ _ => rfl

theorem State.fillCopy_sameMemory (s : State) (die line : Nat) (n : Option Nat) : SameMemory s (s.fillCopy die line n) := by
  unfold State.fillCopy State.noteAllocated
  dsimp only
  split <;> exact fun _ _ _ => rfl

theorem State.readLine_sameMemory (s : State) (g : Agent) (old : Old) (va pa attr m : Nat) :
    SameMemory s (s.readLine g old va pa attr m).2.2 := by
  unfold State.readLine
  dsimp only
  generalize hu : (if s.foreign g.ctx pa then s.logForeign g.ctx pa va else s.allocate pa attr) = u
  have h0 : SameMemory s u := by
    subst hu
    split
    · exact s.rasLog_sameMemory _
    · exact fun view a _ => s.allocate_readView pa attr view a
  refine h0.trans ?_
  split
  · split
    · exact u.useCopy_sameMemory _ _
    · exact u.fillCopy_sameMemory _ _ _
  · exact .refl u

theorem serveRead_sameMemory {g : Agent} {k : Access} {old : Old} {n : Nat} {s t : State} {va m : Nat} {b : List Byte} {p : Bool}
    (h : serveRead g k old n s va m = .done b p t) : SameMemory s t := by
  induction n generalizing s va m b p t with
  | zero => cases h; exact .refl s
  | succ n ih =>
    unfold serveRead at h
    split at h
    · cases h; exact .refl s
    · split at h
      · dsimp only at h
        split at h
        · next hd =>
          cases h
          exact ((s.noteTlb_sameMemory g va).trans (State.readLine_sameMemory _ _ _ _ _ _ _)).trans (ih hd)
        · cases h
      · cases h

theorem State.prefetch_spec (s : State) (g : Agent) (va : Nat) (later : Unit → List (Nat × Nat)) :
    SameMemory s (s.prefetch g va later) ∧ SameOutside s (s.prefetch g va later) := by
  unfold State.prefetch
  split
  · exact ⟨.refl s, .refl s⟩
  · split
    · exact ⟨s.noteTlb_sameMemory _ _, s.noteTlb_outside _ _⟩
    · exact ⟨.refl s, .refl s⟩

theorem fetchRows_spec {g : Agent} {issue n : Nat} {l : List Nat} {s t : State} {b : List Byte} {p : Bool}
    (h : fetchRows g issue n s l = .done b p t) : SameMemory s t ∧ SameOutside s t := by
  induction l generalizing s t b p with
  | nil => cases h; exact ⟨.refl s, .refl s⟩
  | cons a l ih =>
    unfold fetchRows at h
    split at h
    · next h1 =>
      split at h
      · next h2 =>
        cases h
        exact ⟨(serveRead_sameMemory h1).trans (ih h2).1, (serveRead_outside _ _ _ _ _ _ _ _ _ _ h1).trans (ih h2).2⟩
      · cases h
    · cases h

/-! ### What an item's reads leave -/

/-- Memory, the focus and the region time stand. -/
def Stays (s t : State) : Prop := SameMemory s t ∧ t.cur = s.cur ∧ t.region.rt = s.region.rt

theorem Stays.of_tasks {s t : State} (hm : SameMemory s t) (ht : t.tasks = s.tasks) (hc : t.cur = s.cur) : Stays s t :=
  ⟨hm, hc, by rw [State.region, State.region, State.task, State.task, ht, hc]⟩

theorem Stays.of_outside {s t : State} (hm : SameMemory s t) (h : SameOutside s t) : Stays s t := .of_tasks hm h.tasks h.cur

theorem Stays.refl (s : State) : Stays s s := ⟨.refl s, rfl, rfl⟩

theorem Stays.trans {s t u : State} (h : Stays s t) (k : Stays t u) : Stays s u :=
  ⟨h.1.trans k.1, k.2.1.trans h.2.1, k.2.2.trans h.2.2⟩

theorem State.setRegion_stays (s : State) (r : Region) (h : r.rt = s.region.rt) : Stays s (s.setRegion r) :=
  ⟨fun _ _ _ => rfl, rfl, by rw [State.setRegion_region, h]⟩

theorem State.setCopy_stays (s : State) (c : Copy) : Stays s (s.setCopy c) := s.setRegion_stays _ rfl

theorem State.rowSource_stays {s t : State} {c : Copy} {d : CopyDesc} {start q : Nat} (h : s.rowSource c d start q = .ready t) :
    Stays s t := by
  unfold State.rowSource at h
  split at h
  · cases h; exact .refl s
  · dsimp only at h
    split at h
    · next h1 =>
      cases h
      obtain ⟨hm, ho⟩ := State.prefetch_spec _ _ _ _
      obtain ⟨hm1, ho1⟩ := fetchRows_spec h1
      exact (Stays.of_outside (hm.trans hm1) (ho.trans ho1)).trans (State.setCopy_stays _ _)
    · split at h <;> cases h

theorem State.serveItem_stays (s : State) (p : Pend) : Stays s (s.serveItem p) := by
  unfold State.serveItem
  split
  · split
    · split
      · split
        · next hr => exact State.rowSource_stays hr
        · exact .refl s
      · exact .refl s
    · exact .refl s
  · split
    · split
      · dsimp only
        split
        · next h1 =>
          obtain ⟨hm, ho⟩ := State.prefetch_spec _ _ _ _
          have h2 := Stays.of_outside (hm.trans (serveRead_sameMemory h1)) (ho.trans (serveRead_outside _ _ _ _ _ _ _ _ _ _ h1))
          exact h2.trans ⟨fun _ _ _ => rfl, rfl, by rw [State.setCore_region]⟩
        · exact .refl s
      · exact .refl s
    · exact .refl s
  · exact .refl s

/-! ### The agenda after an item -/

theorem State.setItem_stays (s : State) (p : Pend) : Stays s (s.setItem p) := s.setRegion_stays _ rfl

theorem State.againItem_stays (s : State) (p : Pend) : Stays s (s.againItem p) := s.setItem_stays { p with landAt := s.later }

theorem State.ask_sameMemory (s : State) (c : Nat) : SameMemory s (s.ask c) := by
  unfold State.ask
  dsimp only
  split <;> exact fun _ _ _ => rfl

theorem State.ask_frame (s : State) (c : Nat) : (s.ask c).tasks = s.tasks ∧ (s.ask c).cur = s.cur ∧ (s.ask c).sendSeq = s.sendSeq := by
  unfold State.ask
  dsimp only
  split <;> exact ⟨rfl, rfl, rfl⟩

theorem State.ask_asked (s : State) (c : Nat) : ((s.ask c).ctx c).asked = true := by
  unfold State.ask
  dsimp only
  split
  · assumption
  · exact congrArg Context.asked (SMap.get_put_self ..)

/-- An item of the agenda that has the number of one set is that one. -/
theorem State.mem_setItem {s : State} {p q : Pend} (h : q ∈ (s.setItem p).region.agenda) (hs : q.seq = p.seq) : q = p := by
  rw [State.setItem, State.setRegion_region] at h
  obtain ⟨x, -, rfl⟩ := List.mem_map.1 h
  by_cases hx : (x.seq == p.seq) = true
  · rw [if_pos hx]
  · rw [if_neg hx] at hs
    exact absurd (beq_iff_eq.2 hs) hx

theorem State.mem_againItem {s : State} {p q : Pend} (h : q ∈ (s.againItem p).region.agenda) (hs : q.seq = p.seq) :
    q = { p with landAt := s.later } :=
  State.mem_setItem (p := { p with landAt := s.later }) h hs

/-- The item waits for another try. -/
def Waiting (t : State) (p : Pend) : Prop := ∀ q ∈ t.region.agenda, q.seq = p.seq → q.landed = false

theorem State.againItem_waiting (s : State) {p q : Pend} (hl : q.landed = false) (hs : q.seq = p.seq) : Waiting (s.againItem q) p := by
  intro x hx hp
  rw [State.mem_againItem hx (hp.trans hs.symm)]
  exact hl

/-- The item has landed; where it was due, that landing is the latest. -/
def Landing (s t : State) (p : Pend) : Prop :=
  (∀ q ∈ t.region.agenda, q.seq = p.seq → q.landed = true ∧ q.held = []) ∧
  t.region.freeze = if p.due ≤ s.rt then s.region.freeze.map fun f => { f with lastLand := s.ptc } else s.region.freeze

theorem State.landed_stays (s : State) (b : Bool) : Stays s (s.landed b) := by
  unfold State.landed
  split
  · split
    · exact s.setRegion_stays _ rfl
    · exact .refl s
  · exact .refl s

theorem State.landed_agenda (s : State) (b : Bool) : (s.landed b).region.agenda = s.region.agenda := by
  unfold State.landed
  split
  · split
    · rw [State.setRegion_region]
    · rfl
  · rfl

theorem State.landed_freeze (s : State) (b : Bool) :
    (s.landed b).region.freeze = if b = true then s.region.freeze.map fun f => { f with lastLand := s.ptc } else s.region.freeze := by
  unfold State.landed
  cases hf : s.region.freeze with
  | none => simp [hf]
  | some f => cases b <;> simp [hf]

theorem State.itemLanded_stays (s : State) (p : Pend) : Stays s (s.itemLanded p) :=
  (s.setItem_stays _).trans (State.landed_stays _ _)

theorem State.itemLanded_landing (s : State) (p : Pend) : Landing s (s.itemLanded p) p := by
  unfold State.itemLanded
  refine ⟨fun q hq hs => ?_, ?_⟩
  · rw [State.landed_agenda] at hq
    rw [State.mem_setItem (p := { p with landed := true, held := [] }) hq hs]
    exact ⟨rfl, rfl⟩
  · rw [State.landed_freeze, State.setItem, State.setRegion_region]
    by_cases h : p.due ≤ s.rt
    · simp [h]
    · simp [h]

/-- The item's request is sent. -/
def State.sentItem (s : State) (p : Pend) (pas : List Nat) : State :=
  ({ s with sendSeq := s.sendSeq + 1 } : State).againItem
    { p with sent := some s.sendSeq, homes := (pas.map homeDie).eraseDups, hash := pas.map s.hashOf }

theorem State.sentItem_spec (s : State) {p : Pend} (pas : List Nat) (hl : p.landed = false) :
    Stays s (s.sentItem p pas) ∧ Waiting (s.sentItem p pas) p ∧ (s.sentItem p pas).sendSeq = s.sendSeq + 1 ∧
    ∀ q ∈ (s.sentItem p pas).region.agenda, q.seq = p.seq → q.sent = some s.sendSeq := by
  refine ⟨State.againItem_stays { s with sendSeq := s.sendSeq + 1 } _, State.againItem_waiting _ hl rfl, rfl, fun q hq hs => ?_⟩
  rw [State.mem_againItem hq hs]

/-! ### ITEMLAND -/

/-- An item's request goes on towards its homes; once it has reached them, `go` is what it does (12 R334, 14 R350). -/
def State.reachItem (s : State) (p : Pend) (pas : List Nat) (go : State) : State :=
  match p.sent with
  | none => if (s.ctx s.task.ctx).flushing then s.againItem p else s.sentItem p pas
  | some n =>
    if p.hash ≠ pas.map s.hashOf then s.againItem { p with hash := pas.map s.hashOf, homes := (pas.map homeDie).eraseDups }
    else if (s.onItem p).arrives p n pas then go else s.againItem p

theorem State.reachItem_unsent {s : State} {p : Pend} (pas : List Nat) (go : State) (h : p.sent = none) :
    s.reachItem p pas go = if (s.ctx s.task.ctx).flushing then s.againItem p else s.sentItem p pas := by
  rw [State.reachItem, h]

theorem State.reachItem_sent {s : State} {p : Pend} {n : Nat} (pas : List Nat) (go : State) (h : p.sent = some n) :
    s.reachItem p pas go = if p.hash = pas.map s.hashOf ∧ (s.onItem p).arrives p n pas = true then go
      else if p.hash ≠ pas.map s.hashOf then s.againItem { p with hash := pas.map s.hashOf, homes := (pas.map homeDie).eraseDups }
      else s.againItem p := by
  rw [State.reachItem, h]
  dsimp only
  by_cases hh : p.hash = pas.map s.hashOf <;> simp [hh]

/-- What has been read is served, and the item goes on. -/
def State.servedItem (s : State) (p : Pend) : State :=
  let s1 : State := { (s.onItem p).serveItem p with cur := s.cur }
  let p1 := { p with sent := none, homes := [], hash := [] }
  match ((s1.onItem p).itemAsk p).2 with
  | .none => s1.itemLanded p1
  | _ => s1.againItem p1

theorem State.servedItem_stays (s : State) (p : Pend) : Stays s (s.servedItem p) := by
  obtain ⟨hm, hc, hr⟩ := (s.onItem p).serveItem_stays p
  have h1 : Stays s { (s.onItem p).serveItem p with cur := s.cur } := by
    refine ⟨fun view pa hv => hm view pa hv, rfl, ?_⟩
    rw [State.region, State.region, State.task, State.task, hc] at hr
    exact hr
  unfold State.servedItem
  dsimp only
  split
  · exact h1.trans (State.itemLanded_stays _ _)
  · exact h1.trans (State.againItem_stays _ _)

/-- What a write's item does once it has reached its homes: it lands if every line it needs is there (12 R334). -/
def State.writtenItem (s : State) (p : Pend) (g : Agent) (l : List (Nat × Nat × Nat)) (pas : List Nat) : State :=
  match hedgeRun g.ctx l (s.onItem p) with
  | none => s.itemLanded p
  | some c => (s.againItem { p with held := pas.map (· / 128) }).ask c

theorem execItemLand_eq {s : State} {p : Pend} {g : Agent} {a : Ask} (h : s.landing = some p) (ha : (s.onItem p).itemAsk p = (g, a)) :
    (a = .none → execItemLand s = .next (s.itemLanded p)) ∧
    (∀ v tr, a = .wait v tr → execItemLand s = .next (s.againItem { p with sent := none, homes := [], hash := [], held := [] })) ∧
    (∀ l, a = .read l → execItemLand s = .next (if (s.onItem p).readHeld p then s.againItem p
      else s.reachItem p ((s.onItem p).askLines g true l) (s.servedItem p))) ∧
    (∀ v l, a = .write v l → execItemLand s = .next (s.reachItem p ((s.onItem p).askLines g false l)
      (s.writtenItem p g l ((s.onItem p).askLines g false l)))) := by
  unfold execItemLand
  rw [h]
  dsimp only
  rw [ha]
  refine ⟨?_, ?_, ?_, ?_⟩
  · rintro rfl
    rfl
  · rintro v tr rfl
    rfl
  · rintro l rfl
    rfl
  · rintro v l rfl
    rfl

theorem State.landing_not_landed {s : State} {p : Pend} (h : s.landing = some p) : p.landed = false := by
  have hp := List.find?_some h
  simp only [Bool.and_eq_true, Bool.not_eq_true'] at hp
  exact hp.1.1

/-- The item's request is sent, unless a flush of its context is still to complete. -/
def Sending (s t : State) (p : Pend) : Prop :=
  if (s.ctx s.task.ctx).flushing = true then Waiting t p
  else Waiting t p ∧ t.sendSeq = s.sendSeq + 1 ∧ ∀ q ∈ t.region.agenda, q.seq = p.seq → q.sent = some s.sendSeq

theorem State.reachItem_sending {s : State} {p : Pend} (pas : List Nat) (go : State) (hl : p.landed = false) (hs : p.sent = none) :
    Stays s (s.reachItem p pas go) ∧ Sending s (s.reachItem p pas go) p := by
  obtain ⟨hst, hsend⟩ := s.sentItem_spec pas hl
  rw [State.reachItem_unsent pas go hs, Sending]
  by_cases hf : (s.ctx s.task.ctx).flushing = true
  · rw [if_pos hf, if_pos hf]
    exact ⟨s.againItem_stays p, s.againItem_waiting hl rfl⟩
  · rw [if_neg hf, if_neg hf]
    exact ⟨hst, hsend⟩

/-- A request under way waits, or has reached its homes. -/
theorem State.reachItem_reached {s go : State} {p : Pend} {n : Nat} (pas : List Nat) (hl : p.landed = false) (hs : p.sent = some n)
    (hgo : Stays s go) : Stays s (s.reachItem p pas go) ∧
    if p.hash = pas.map s.hashOf ∧ (s.onItem p).arrives p n pas = true then s.reachItem p pas go = go
    else Waiting (s.reachItem p pas go) p := by
  rw [State.reachItem_sent pas go hs]
  split
  · exact ⟨hgo, rfl⟩
  · split
    · exact ⟨s.againItem_stays _, s.againItem_waiting hl rfl⟩
    · exact ⟨s.againItem_stays p, s.againItem_waiting hl rfl⟩

theorem State.writtenItem_spec (s : State) {p : Pend} (g : Agent) (l : List (Nat × Nat × Nat)) (pas : List Nat) (hl : p.landed = false) :
    Stays s (s.writtenItem p g l pas) ∧
    (hedgeRun g.ctx l (s.onItem p) = none → Landing s (s.writtenItem p g l pas) p) ∧
    ∀ c, hedgeRun g.ctx l (s.onItem p) = some c → Waiting (s.writtenItem p g l pas) p ∧ ((s.writtenItem p g l pas).ctx c).asked = true := by
  unfold State.writtenItem
  match hedgeRun g.ctx l (s.onItem p) with
  | none => exact ⟨s.itemLanded_stays p, fun _ => s.itemLanded_landing p, fun _ => nofun⟩
  | some c =>
    have hq := s.againItem_stays { p with held := pas.map (· / 128) }
    have hw := s.againItem_waiting (p := p) (q := { p with held := pas.map (· / 128) }) hl rfl
    generalize s.againItem { p with held := pas.map (· / 128) } = u at hq hw ⊢
    obtain ⟨ht, hc, -⟩ := u.ask_frame c
    have ha : Stays u (u.ask c) := .of_tasks (u.ask_sameMemory c) ht hc
    refine ⟨hq.trans ha, nofun, ?_⟩
    rintro _ ⟨⟩
    refine ⟨?_, u.ask_asked c⟩
    rw [Waiting, State.region, State.task, ht, hc]
    exact hw

theorem execItemLand_spec {s : State} {p : Pend} (h : s.landing = some p) :
    let g := ((s.onItem p).itemAsk p).1
    ∃ t, execItemLand s = .next t ∧ Stays s t ∧
    match ((s.onItem p).itemAsk p).2 with
    | .none => Landing s t p
    | .wait _ _ => Waiting t p
    | .read _ => if (s.onItem p).readHeld p then Waiting t p else p.sent = none → Sending s t p
    | .write _ l =>
      match p.sent with
      | none => Sending s t p
      | some n =>
        if p.hash = ((s.onItem p).askLines g false l).map s.hashOf ∧ (s.onItem p).arrives p n ((s.onItem p).askLines g false l) = true then
          match hedgeRun g.ctx l (s.onItem p) with
          | none => Landing s t p
          | some c => Waiting t p ∧ (t.ctx c).asked = true
        else Waiting t p := by
  rcases ha : (s.onItem p).itemAsk p with ⟨g, a⟩
  dsimp only
  have hl := State.landing_not_landed h
  obtain ⟨hnone, hwait, hread, hwrite⟩ := execItemLand_eq h ha
  cases a with
  | none => exact ⟨_, hnone rfl, s.itemLanded_stays p, s.itemLanded_landing p⟩
  | wait v tr => exact ⟨_, hwait v tr rfl, s.againItem_stays _, s.againItem_waiting hl rfl⟩
  | read l =>
    refine ⟨_, hread l rfl, ?_⟩
    dsimp only
    split
    · exact ⟨s.againItem_stays p, s.againItem_waiting hl rfl⟩
    · cases hs : p.sent with
      | none =>
        obtain ⟨h1, h2⟩ := State.reachItem_sending ((s.onItem p).askLines g true l) (s.servedItem p) hl hs
        exact ⟨h1, fun _ => h2⟩
      | some n => exact ⟨(State.reachItem_reached _ hl hs (s.servedItem_stays p)).1, nofun⟩
  | write v l =>
    refine ⟨_, hwrite v l rfl, ?_⟩
    obtain ⟨hst, hland, hshort⟩ := s.writtenItem_spec g l ((s.onItem p).askLines g false l) hl
    dsimp only
    cases hs : p.sent with
    | none => exact State.reachItem_sending _ _ hl hs
    | some n =>
      obtain ⟨h1, h2⟩ := State.reachItem_reached ((s.onItem p).askLines g false l) hl hs hst
      refine ⟨h1, ?_⟩
      dsimp only
      split
      · next hr =>
        rw [if_pos hr] at h2
        rw [h2]
        split
        · next hn => exact hland hn
        · next c hc => exact hshort c hc
      · next hr =>
        rw [if_neg hr] at h2
        exact h2

/-! ### Notices to the other members of a joined region -/

theorem State.foldl_tell (s : State) (t : Task) (o : List Output) (l : List Nat) (i : Instr) : ∃ b c o',
    l.foldl (fun s n => s.tell n i) { s.setTask t with outbox := o } =
      { s.setTask { t with region := { t.region with ready := b, othersReady := c } } with outbox := o' } := by
  induction l generalizing t o with
  | nil => exact ⟨_, _, o, rfl⟩
  | cons n l ih =>
    have h : ({ s.setTask t with outbox := o } : State).tell n i =
        { s.setTask { t with region := { t.region with ready := false, othersReady := false } } with outbox := o ++ [.peer n i] } := by
      simp [State.tell, State.setRegion, State.region, State.task, State.setTask]
    obtain ⟨b, c, o', e⟩ := ih { t with region := { t.region with ready := false, othersReady := false } } (o ++ [.peer n i])
    exact ⟨b, c, o', by rw [List.foldl_cons, h, e]⟩

/-- Telling the others changes what goes out, and what is known of their being ready. -/
theorem State.tellPeers_setTask (s : State) (t : Task) (i : Instr) : ∃ b c o,
    (s.setTask t).tellPeers i = { s.setTask { t with region := { t.region with ready := b, othersReady := c } } with outbox := o } :=
  s.foldl_tell t s.outbox _ i

/-! ### A freeze -/

theorem phaseCycleOpen_late {s : State} (hl : s.lates ≠ []) (hb : s.region.budgetAt = none) (hc : s.cutHop = none)
    (ht : s.rt < s.region.budget) (hq : s.queueFaults = []) (hs : s.region.stopAt = none) :
    phaseCycleOpen s = { s with turn := (s.cur, .event (.regionFreeze ⟨.slide, s.rt, none⟩)) :: s.turn } := by
  have hd : decide (s.region.budget ≤ s.region.rt) = false := decide_eq_false (Nat.not_le_of_lt ht)
  have he : s.lates.isEmpty = false := by simpa using hl
  simp [phaseCycleOpen, hb, hc, hd, hq, hs, he, State.rt]

theorem whyOver_cancel (w : FreezeWhy) : whyOver w .cancel = .cancel := by cases w <;> rfl

/-- A freeze at a later cycle is noted; an earlier choice stands (05 R182). -/
theorem execRegionFreeze_later {s : State} {note : FreezeNote} (ha : s.region.active = true) (hn : s.rt < note.cycle) :
    ∃ t, execRegionFreeze note s = .next t ∧ OnlyRegion s { t with outbox := s.outbox } ∧ ∃ why, t.region = { s.region with
      ready := t.region.ready, othersReady := t.region.othersReady
      stopAt := some (match s.region.stopAt with | some (c, _) => (min c note.cycle, why) | none => (note.cycle, why)) } ∧
      (s.region.stopAt = none → why = note.why) ∧ (note.why = .cancel → why = .cancel) := by
  have he : execRegionFreeze note s = .next ((s.setTask { s.task with region := s.region.stopFor note.why note.cycle }).tellPeers
      (.regionFreeze ⟨note.why, note.cycle, none⟩)) := by
    refine (if_neg (by simp [ha])).trans (if_pos hn)
  obtain ⟨b, c, o, ht⟩ := s.tellPeers_setTask { s.task with region := s.region.stopFor note.why note.cycle }
    (.regionFreeze ⟨note.why, note.cycle, none⟩)
  refine ⟨_, he, ?_⟩
  rw [ht]
  refine ⟨s.onlyRegion_setRegion { s.region.stopFor note.why note.cycle with ready := b, othersReady := c }, ?_⟩
  have hr : (({ s.setTask { s.task with region := { s.region.stopFor note.why note.cycle with ready := b, othersReady := c } } with
      outbox := o }) : State).region = { s.region.stopFor note.why note.cycle with ready := b, othersReady := c } :=
    s.setTask_region _
  rw [hr]
  simp only [Region.stopFor]
  match s.region.stopAt with
  | none => exact ⟨note.why, rfl, fun _ => rfl, id⟩
  | some (d, w) => exact ⟨whyOver w note.why, rfl, nofun, fun h => by rw [h, whyOver_cancel]⟩

/-- An item that is due at a freeze is done again if it has gone (05 R174). -/
def Pend.redone (rt : Nat) (again : Pend → Bool) (p : Pend) : Pend :=
  if p.due = rt && again p then { p with landed := false, sent := none, homes := [], hash := [] } else p

/-- An item that is due at a freeze waits no longer for being late (05 R175). -/
def Pend.waited (rt : Nat) (p : Pend) : Pend :=
  if p.due = rt then { p with late := if p.late = 1 then 2 else p.late } else p

/-- An item of the agenda as a freeze leaves it. -/
def Pend.parked (rt : Nat) (again : Pend → Bool) (p : Pend) : Pend := (p.redone rt again).waited rt

/-- A load of a core that is due at a freeze waits no longer for being late. -/
def Core.parked (rt : Nat) (c : Core) : Core :=
  { c with loads := c.loads.map fun e => if e.isDue rt then { e with late := if e.late = 1 then 2 else e.late } else e }

theorem Pend.parked_spec (rt : Nat) (again : Pend → Bool) (p : Pend) :
    (p.parked rt again).due = p.due ∧ (p.parked rt again).core = p.core ∧ (p.parked rt again).act = p.act ∧
    (p.due ≠ rt → p.parked rt again = p) ∧ (p.due = rt → (p.parked rt again).late ≠ 1) := by
  have h : (p.redone rt again).due = p.due ∧ (p.redone rt again).core = p.core ∧ (p.redone rt again).act = p.act ∧
      (p.due ≠ rt → p.redone rt again = p) := by
    unfold Pend.redone
    split
    · next hc => exact ⟨rfl, rfl, rfl, fun hn => absurd (of_decide_eq_true (Bool.and_eq_true _ _ ▸ hc).1) hn⟩
    · exact ⟨rfl, rfl, rfl, fun _ => rfl⟩
  obtain ⟨hd, hc, ha, hn⟩ := h
  unfold Pend.parked Pend.waited
  split
  · next he =>
    refine ⟨hd, hc, ha, fun h => absurd (hd.symm.trans he) h, fun _ => ?_⟩
    dsimp only
    split
    · exact nofun
    · assumption
  · next he => exact ⟨hd, hc, ha, hn, fun h => absurd (hd.trans h) he⟩

/-- Whether a load is late, or was, is no part of when it is due. -/
theorem LoadEntry.isDue_late (e : LoadEntry) (rt n : Nat) : ({ e with late := n } : LoadEntry).isDue rt = e.isDue rt := rfl

theorem Core.parked_spec (rt : Nat) (c : Core) : c.parked rt = { c with loads := (c.parked rt).loads } ∧
    (∀ e ∈ (c.parked rt).loads, e.isDue rt = true → e.late ≠ 1) ∧
    (c.parked rt).loads.map (fun e => { e with late := 0 }) = c.loads.map (fun e => { e with late := 0 }) := by
  refine ⟨rfl, fun e he hd => ?_, ?_⟩
  · obtain ⟨x, -, rfl⟩ := List.mem_map.1 he
    by_cases hx : x.isDue rt = true
    · rw [if_pos hx]
      dsimp only
      split <;> simp_all
    · rw [if_neg hx] at hd
      exact absurd hd hx
  · rw [Core.parked, List.map_map]
    refine List.map_congr_left fun x _ => ?_
    simp only [Function.comp_apply]
    split <;> rfl

/-- What is done again after a freeze in the cycle at hand: items that have gone, and writes that wait for a Hedgerow line. -/
def State.doneAgain (s : State) (p : Pend) : Bool :=
  s.itemGone p || (hedgeDue (s.region.agenda.filter fun p => decide (p.due = s.rt)) s).any fun x => x.1 == p.seq

/-- The freeze that a region stands at for a reason. -/
def State.freezeFor (s : State) (why : FreezeWhy) : Freeze :=
  match s.region.freeze with
  | some f => { f with why := why }
  | none => { why := why, tick := s.ptc, lastLand := s.ptc, resume := none
              peer := decide (s.region.total ≠ 0) && (decide (why = .preempt) || s.region.peerStops.any fun p => decide (p.1 ≤ s.rt)) }

theorem State.freezeFor_spec (s : State) (why : FreezeWhy) :
    (s.freezeFor why).why = why ∧ (s.freezeFor why).tick = (s.region.freeze.map (·.tick)).getD s.ptc := by
  unfold State.freezeFor
  cases s.region.freeze <;> exact ⟨rfl, rfl⟩

/-- The task whose region has been frozen before its cycle. -/
def State.frozenTask (s : State) (why : FreezeWhy) : Task := { s.task with
  cores := s.task.cores.map fun x => (x.1, x.2.parked s.rt)
  region := { s.region with
    freeze := some (s.freezeFor why), agenda := (s.region.agenda.map (Pend.redone s.rt s.doneAgain)).map (Pend.waited s.rt)
    stopAt := if (s.region.stopAt.map (·.2)) = some why then none else s.region.stopAt
    peerStops := s.region.peerStops.filter fun p => decide (s.rt < p.1) } }

theorem execRegionFreeze_eq {s : State} {note : FreezeNote} (ha : s.region.active = true) (hn : note.cycle ≤ s.rt) :
    execRegionFreeze note s = .next ((if s.region.freeze.isNone && decide (note.why ≠ .cancel) then
      (s.setTask (s.frozenTask note.why)).tellPeers (.regionFreeze ⟨note.why, s.rt, none⟩) else s.setTask (s.frozenTask note.why)).stopTask note.why) := by
  refine (if_neg (by simp [ha])).trans ((if_neg (Nat.not_lt_of_le hn)).trans ?_)
  rfl

theorem State.frozenTask_agenda (s : State) (why : FreezeWhy) :
    (s.frozenTask why).region.agenda = s.region.agenda.map (Pend.parked s.rt s.doneAgain) := List.map_map ..

/-- The task in focus and the outbox change, and no more. -/
def TaskAndOutbox (s t : State) (u : Task) : Prop := ∃ o, t = { s.setTask u with outbox := o }

theorem execRegionFreeze_now {s : State} {note : FreezeNote} (ha : s.region.active = true) (hn : note.cycle ≤ s.rt) :
    ∃ b c u, TaskAndOutbox s u { s.frozenTask note.why with
        region := { (s.frozenTask note.why).region with ready := b, othersReady := c } } ∧
      execRegionFreeze note s = .next (u.stopTask note.why) := by
  rw [execRegionFreeze_eq ha hn]
  split
  · obtain ⟨b, c, o, h⟩ := s.tellPeers_setTask (s.frozenTask note.why) (.regionFreeze ⟨note.why, s.rt, none⟩)
    exact ⟨b, c, _, ⟨o, h⟩, rfl⟩
  · exact ⟨_, _, _, ⟨s.outbox, rfl⟩, rfl⟩

theorem TaskAndOutbox.spec {s t : State} {u : Task} (h : TaskAndOutbox s t u) :
    t.task = u ∧ t.mem = s.mem ∧ t.versions = s.versions ∧ t.dies = s.dies ∧ t.cur = s.cur := by
  obtain ⟨o, rfl⟩ := h
  exact ⟨SMap.get_put_self .., rfl, rfl, rfl, rfl⟩

/-- What a freeze of the cycle at hand leaves (05 R174, R175). -/
theorem execRegionFreeze_spec {s : State} {note : FreezeNote} (ha : s.region.active = true) (hn : note.cycle ≤ s.rt) :
    ∃ t, execRegionFreeze note s = .next t ∧ SameMemory s t ∧
    (∀ k, t.coreAt k = { s.coreAt k with loads := (t.coreAt k).loads } ∧ (∀ e ∈ (t.coreAt k).loads, e.isDue s.rt = true → e.late ≠ 1) ∧
      (t.coreAt k).loads.map (fun e => { e with late := 0 }) = (s.coreAt k).loads.map (fun e => { e with late := 0 })) ∧
    t.region.agenda.map (fun p => (p.due, p.core, p.act)) = s.region.agenda.map (fun p => (p.due, p.core, p.act)) ∧
    (∀ p ∈ s.region.agenda, p.due ≠ s.rt → p ∈ t.region.agenda) ∧ (∀ p ∈ t.region.agenda, p.due = s.rt → p.late ≠ 1) ∧
    t.region.rt = s.region.rt ∧ t.region.slide = s.region.slide ∧
    (∃ f, t.region.freeze = some f ∧ f.why = note.why ∧ f.tick = (s.region.freeze.map (·.tick)).getD s.ptc) ∧
    t.task.state = (match note.why with | .preempt => .freezing | .cancel => .ending .cancelled | _ => s.task.state) := by
  obtain ⟨b, c, u, hu, he⟩ := execRegionFreeze_now ha hn
  obtain ⟨htask, hm, hv, hd, -⟩ := hu.spec
  obtain ⟨fm, fv, fd, -, -, fcores, fregion⟩ := u.stopTask_frame note.why
  rw [htask] at fcores fregion
  have hr : (u.stopTask note.why).region = { (s.frozenTask note.why).region with ready := b, othersReady := c } := fregion
  have hcore : ∀ k, (u.stopTask note.why).coreAt k = (s.coreAt k).parked s.rt := fun k => by
    rw [State.coreAt, fcores]
    exact SMap.get_map_of_default ({} : Core) s.task.cores (Core.parked s.rt) rfl k
  have hagenda : (u.stopTask note.why).region.agenda = s.region.agenda.map (Pend.parked s.rt s.doneAgain) := by
    rw [hr]
    exact s.frozenTask_agenda note.why
  have hpark := Pend.parked_spec s.rt s.doneAgain
  refine ⟨_, he, sameMemory_of (fm.trans hm) (fv.trans hv) fun d => by rw [State.die, fd, hd, State.die], fun k => ?_, ?_, ?_, ?_, ?_, ?_, ?_, ?_⟩
  · rw [hcore]
    exact Core.parked_spec s.rt _
  · rw [hagenda, List.map_map]
    refine List.map_congr_left fun p _ => ?_
    obtain ⟨h1, h2, h3, -⟩ := hpark p
    rw [Function.comp_apply, h1, h2, h3]
  · intro p hp hne
    rw [hagenda]
    exact List.mem_map.2 ⟨p, hp, (hpark p).2.2.2.1 hne⟩
  · intro p hp hdue
    rw [hagenda] at hp
    obtain ⟨q, -, rfl⟩ := List.mem_map.1 hp
    obtain ⟨h1, -, -, -, h5⟩ := hpark q
    exact h5 (h1.symm.trans hdue)
  · rw [hr]; rfl
  · rw [hr]; rfl
  · rw [hr]
    exact ⟨_, rfl, s.freezeFor_spec note.why⟩
  · have hstate : u.task.state = s.task.state := by rw [htask]; rfl
    cases note.why with
    | preempt => rw [State.stopTask_preempt_task]
    | cancel => rw [State.stopTask_cancel_task]
    | _ => exact hstate

/-! ### The resume -/

theorem Task.afterSlide_agenda (t : Task) : t.afterSlide.region.agenda.map (fun p => { p with late := 0 }) =
      t.region.agenda.map (fun p => { p with late := 0 }) ∧ ∀ p ∈ t.afterSlide.region.agenda, p.late ≠ 1 := by
  refine ⟨?_, fun p hp => ?_⟩
  · rw [Task.afterSlide, List.map_map]
    rfl
  · obtain ⟨q, -, rfl⟩ := List.mem_map.1 hp
    dsimp only
    split
    · exact nofun
    · assumption

/-- A core's loads wait no longer for being late. -/
def Core.slid (c : Core) : Core := { c with loads := c.loads.map fun e => { e with late := if e.late = 1 then 2 else e.late } }

theorem Core.slid_spec (c : Core) : c.slid = { c with loads := c.slid.loads } ∧ (∀ e ∈ c.slid.loads, e.late ≠ 1) ∧
    c.slid.loads.map (fun e => { e with late := 0 }) = c.loads.map (fun e => { e with late := 0 }) := by
  refine ⟨rfl, fun e he => ?_, ?_⟩
  · obtain ⟨x, -, rfl⟩ := List.mem_map.1 he
    dsimp only
    split
    · exact nofun
    · assumption
  · rw [Core.slid, List.map_map]
    rfl

theorem execRegionResume_spec {s : State} {f : Freeze} (hf : s.region.freeze = some f) :
    ∃ t, execRegionResume s = .next t ∧ SameMemory s t ∧
    t = { s with tasks := SMap.put s.tasks s.cur.task t.task } ∧
    t.task = { s.task with cores := t.task.cores, region := t.region } ∧
    t.region = { s.region with freeze := none, slide := s.region.slide + (s.ptc - f.tick), agenda := t.region.agenda } ∧
    t.region.agenda.map (fun p => { p with late := 0 }) = s.region.agenda.map (fun p => { p with late := 0 }) ∧
    (∀ p ∈ t.region.agenda, p.late ≠ 1) ∧
    ∀ k, t.coreAt k = { s.coreAt k with loads := (t.coreAt k).loads } ∧ (∀ e ∈ (t.coreAt k).loads, e.late ≠ 1) ∧
      (t.coreAt k).loads.map (fun e => { e with late := 0 }) = (s.coreAt k).loads.map (fun e => { e with late := 0 }) := by
  have he : execRegionResume s = .next (s.setTask
      { s.task with region := { s.region with freeze := none, slide := s.region.slide + (s.ptc - f.tick) } }.afterSlide) := by
    rw [execRegionResume, hf]
  obtain ⟨hag, hlate⟩ := Task.afterSlide_agenda
    { s.task with region := { s.region with freeze := none, slide := s.region.slide + (s.ptc - f.tick) } }
  refine ⟨_, he, fun _ _ _ => rfl, ?_⟩
  rw [State.setTask_region, State.setTask_task]
  refine ⟨rfl, rfl, rfl, hag, hlate, fun k => ?_⟩
  have hk : (s.setTask { s.task with region := { s.region with
      freeze := none, slide := s.region.slide + (s.ptc - f.tick) } }.afterSlide).coreAt k = (s.coreAt k).slid := by
    rw [State.coreAt, State.setTask_task]
    exact SMap.get_map_of_default ({} : Core) s.task.cores Core.slid rfl k
  rw [hk]
  exact Core.slid_spec _

/-! ### The slide time-out -/

theorem execSlideTimeout_held {s : State} {k : Nat} {va pc : Word} (h : s.heldStore = some (k, va, pc)) :
    execSlideTimeout s = .next ((s.at' k).faultTask ⟨causeWord 0x0B 1, pc, va, some s.region.rt, k, true, false, (s.coreAt k).handler⟩) := by
  rw [execSlideTimeout, h]

theorem execSlideTimeout_slide {s : State} {f : Freeze} (hf : s.region.freeze = some f) (h : s.heldStore = none) :
    ∃ t, execSlideTimeout s = .next t ∧
    let fault := fun cause pc tval k => FaultsTask s t k ⟨cause, pc, tval, some s.region.rt, k, true, false, (s.coreAt k).handler⟩
    match Late.least s.lates with
    | none => fault 0x800 (BitVec.allOnes 64) (BitVec.ofNat 64 s.region.rt) 0
    | some l => match l.hedge with
      | some (va, _) => fault 0xB01 l.pc va l.core
      | none => fault 0x800 l.pc (BitVec.ofNat 64 s.region.rt) l.core := by
  rw [execSlideTimeout, h, hf]
  refine ⟨_, rfl, ?_⟩
  cases Late.least s.lates with
  | none => exact s.faultTask_spec 0 _
  | some l =>
    dsimp only
    cases l.hedge with
    | none => exact s.faultTask_spec l.core _
    | some p => exact s.faultTask_spec l.core _

/-! ### What comes next while a region stands frozen -/

theorem State.frozenMove_slide {s : State} {f : Freeze} (hw : f.why = .slide) (hs : s.task.state = .running) (hb : s.region.budgetAt = none)
    (hc : s.cutHop = none) (hq : s.queueFaults = []) (hst : s.region.stopAt = none) :
    s.frozenMove f =
      if s.lates.isEmpty && !f.probed then s.run 0 (.phase .cycleProbe)
      else if s.lates.isEmpty && !f.peer && !s.throttle.active && decide (max f.lastLand f.tick + s.region.ahead ≤ s.ptc) then
        s.run 0 (.event .regionResume)
      else if s.heldStore.isSome || decide (s.slidemax + f.throttled ≤ s.ptc - f.tick) then s.run 0 (.event .slideTimeout)
      else none := by
  simp [State.frozenMove, hw, hs, hb, hc, hq, hst]

theorem State.taskMove_frozen {s : State} {f : Freeze} (hf : s.region.freeze = some f) (hs : s.task.state = .running)
    (hn : s.task.noted = s.task.stateCode) (hq : s.queuesMove = none) (hb : s.budgetMet = false) (ha : s.region.active = true)
    (he : s.region.entering = false) (ht : s.region.traps = []) (hl : s.landing = none) (hm : s.frozenMove f ≠ none) :
    s.taskMove = s.frozenMove f := by
  have hr : s.regionMove = s.frozenMove f := by
    have h : s.task.region = s.region := rfl
    simp [State.regionMove, h, he, ha, ht, hl, hf]
  obtain ⟨t, hmove⟩ := Option.ne_none_iff_exists'.1 hm
  simp [State.taskMove, hs, hn, hq, hb, hr, hmove]

/-- Settles O23. -/
theorem freezeAndResume : Obligations.FreezeAndResume := by
  unfold Obligations.FreezeAndResume
  intro s
  refine ⟨fun hl hb hc ht hq hs => phaseCycleOpen_late hl hb hc ht hq hs, fun note ha hn => execRegionFreeze_later ha hn,
    fun note ha hn => execRegionFreeze_spec ha hn, fun f hf => execRegionResume_spec hf, fun f hf h => execSlideTimeout_slide hf h,
    fun k va pc h => ⟨_, execSlideTimeout_held h, s.faultTask_spec k _⟩, fun p h => ?_,
    fun f hf hw hs hb hc hq hst => ?_, fun f hf hs hn hq hb ha he ht hl hm => State.taskMove_frozen hf hs hn hq hb ha he ht hl hm⟩
  · obtain ⟨t, he, ⟨hm, hc, hr⟩, hx⟩ := execItemLand_spec h
    exact ⟨t, he, hm, hc, hr, hx⟩
  · have h := State.frozenMove_slide hw hs hb hc hq hst
    refine ⟨fun hl hp => ?_, fun hl hp hpeer htr => ⟨fun ht => ?_, fun ht => ?_⟩, fun hl => ?_⟩
    · rw [h, hl, hp]
      rfl
    · rw [h, hl, hp, hpeer, htr]
      simp [ht, State.run]
    · rw [h, hl, hp, hpeer, htr]
      simp [ht, State.run]
    · have hl' : s.lates.isEmpty = false := by simpa using hl
      rw [h, hl']
      simp [State.run]

end Sys2Proof.Machine
end

section
/-!
PROOF. RGENTER: what it reads and checks (05 R165, R166, R168), and how it loads a region or proposes its entry (05 R169, R172, 06 R409,
18 R399, R402).
-/

namespace Sys2Proof.Machine

/-! ### Reads of the core in focus -/

theorem Except.bind_ok {ε α β : Type} {x : Except ε α} {f : α → Except ε β} {r : β} (h : (x >>= f) = .ok r) :
    ∃ a, x = .ok a ∧ f a = .ok r := by
  cases x with
  | error e => cases h
  | ok a => exact ⟨a, rfl, h⟩

theorem Except.bind_error {ε α β : Type} {x : Except ε α} {f : α → Except ε β} {e : ε} (h : (x >>= f) = .error e) :
    x = .error e ∨ ∃ a, x = .ok a ∧ f a = .error e := by
  cases x with
  | error e' => exact .inl (by cases h; rfl)
  | ok a => exact .inr ⟨a, rfl, h⟩

/-- The core in focus has counted translations, and every byte of memory reads as before. -/
def WalksOnly (s t : State) : Prop :=
  SameMemory s t ∧ t.cur = s.cur ∧ t.region = s.region ∧ (∀ k, ∃ h n, t.coreAt k = { s.coreAt k with hpc := h, hpcNow := n }) ∧
  CountsOnly s t [0x0B, 0x0C]

theorem State.core_eq_coreAt (s : State) : s.core = s.coreAt s.cur.core := rfl

theorem WalksOnly.core {s t : State} (h : WalksOnly s t) : t.core = { s.core with hpc := t.core.hpc, hpcNow := t.core.hpcNow } := by
  obtain ⟨-, hc, -, hk, -⟩ := h
  obtain ⟨p, n, hk⟩ := hk s.cur.core
  rw [t.core_eq_coreAt, hc, hk]
  rfl

theorem WalksOnly.refl (s : State) : WalksOnly s s := ⟨.refl s, rfl, rfl, fun _ => ⟨_, _, rfl⟩, fun _ _ => ⟨rfl, rfl⟩⟩

theorem WalksOnly.trans {s t u : State} (h : WalksOnly s t) (k : WalksOnly t u) : WalksOnly s u := by
  have hcore := h.core
  obtain ⟨hm, hc, hr, hk, hn⟩ := h
  obtain ⟨km, kc, kr, kk, kn⟩ := k
  refine ⟨hm.trans km, kc.trans hc, kr.trans hr, fun j => ?_, fun i hi => ?_⟩
  · obtain ⟨p, n, e⟩ := hk j
    obtain ⟨p', n', e'⟩ := kk j
    exact ⟨p', n', by rw [e', e]⟩
  · have ht : t.timed = s.timed := congrArg Region.active hr
    have hhpe : t.core.hpe = s.core.hpe := by rw [hcore]
    obtain ⟨h1, h2⟩ := hn i hi
    obtain ⟨h3, h4⟩ := kn i (by rw [hhpe, ht]; exact hi)
    exact ⟨h3.trans h1, h4.trans h2⟩

theorem WalksOnly.of_outside {s t : State} (hm : SameMemory s t) (h : SameOutside s t) : WalksOnly s t := by
  refine ⟨hm, h.cur, h.region, fun k => ⟨(s.coreAt k).hpc, (s.coreAt k).hpcNow, ?_⟩, fun i _ => ?_⟩
  · rw [State.coreAt, h.task]
    rfl
  · rw [h.core]
    exact ⟨rfl, rfl⟩

/-- What counting an event leaves. -/
theorem State.count_spec (s : State) (ev n : Nat) : SameMemory s (s.count ev n) ∧ (s.count ev n).cur = s.cur ∧
    (s.count ev n).region = s.region ∧ ∀ k, ∃ h m, (s.count ev n).coreAt k = { s.coreAt k with hpc := h, hpcNow := m } := by
  unfold State.count
  split
  · exact ⟨.refl s, rfl, rfl, fun _ => ⟨_, _, rfl⟩⟩
  · refine ⟨s.sameMemory_setCore _, rfl, s.setCore_region _, fun k => ?_⟩
    rw [State.coreAt, State.setCore_task]
    by_cases hk : k = s.cur.core
    · subst hk
      exact ⟨_, _, (SMap.get_put_self ..).trans (Core.count_eq _ _ _ _)⟩
    · exact ⟨(s.coreAt k).hpc, (s.coreAt k).hpcNow, SMap.get_put_of_ne _ _ _ hk⟩

theorem State.count_walks (s : State) {ev : Nat} (n : Nat) (h : ev ∈ [0x0B, 0x0C]) : WalksOnly s (s.count ev n) := by
  obtain ⟨hm, hc, hr, hk⟩ := s.count_spec ev n
  exact ⟨hm, hc, hr, hk, fun i hi => (s.count_core ev n).2 i (hi ev h)⟩

theorem State.countWalk_walks (s : State) (va : Nat) : WalksOnly s (s.countWalk va) := by
  unfold State.countWalk
  split
  · split
    · exact .refl s
    · exact s.count_walks 1 (by simp)
  · exact (s.count_walks 1 (by simp)).trans (State.count_walks _ 1 (by simp))

theorem foldl_countWalk_walks (l : List Nat) (s : State) : WalksOnly s (l.foldl State.countWalk s) := by
  induction l generalizing s with
  | nil => exact .refl s
  | cons a l ih => exact (s.countWalk_walks a).trans (ih _)

theorem State.readVa_walks {s t : State} {va n : Nat} {b : List Byte} {p : Bool} (h : s.readVa va n = .ok (b, p, t)) : WalksOnly s t := by
  unfold State.readVa at h
  split at h
  · cases h
  · split at h
    · next hd =>
      cases h
      exact (foldl_countWalk_walks _ s).trans (.of_outside (serveRead_sameMemory hd) (serveRead_outside _ _ _ _ _ _ _ _ _ _ hd))
    · cases h

theorem State.readVa_trap {s : State} {va n : Nat} {f : Trapped} {c : Core} (h : s.readVa va n = .error (.trap f c)) :
    ∃ t, WalksOnly s t ∧ c = t.core := by
  unfold State.readVa at h
  split at h
  · cases h
  · split at h
    · cases h
    · cases h
      exact ⟨_, foldl_countWalk_walks _ s, rfl⟩

/-! ### The core table -/

theorem State.readEntries_ok {s t : State} {a : Word} {ctab k n : Nat} {l : List CoreEntry} (h : s.readEntries a ctab k n = .ok (l, t)) :
    WalksOnly s t ∧ l.length = n ∧ ∀ j e, l[j]? = some e → ∃ sk bk badk tk, sk.readVa (ctab + 32 * (k + j)) 32 = .ok (bk, badk, tk) ∧
      WalksOnly s sk ∧ e = coreEntryOf bk ∧ e.ok = true := by
  induction n generalizing s k l with
  | zero =>
    cases h
    exact ⟨.refl _, rfl, fun _ _ => nofun⟩
  | succ n ih =>
    obtain ⟨⟨b, p, s1⟩, h1, h⟩ := Except.bind_ok h
    dsimp only at h
    split at h
    · cases h
    · next hok =>
      obtain ⟨⟨rest, s2⟩, h2, h⟩ := Except.bind_ok h
      cases h
      have hw := State.readVa_walks h1
      obtain ⟨hw2, hlen, hrest⟩ := ih h2
      refine ⟨hw.trans hw2, by rw [List.length_cons, hlen], fun j e he => ?_⟩
      cases j with
      | zero =>
        cases he
        exact ⟨s, b, p, s1, h1, .refl s, rfl, by simpa using hok⟩
      | succ j =>
        obtain ⟨sk, bk, badk, tk, hr, hwk, he⟩ := hrest j e he
        exact ⟨sk, bk, badk, tk, by rw [← hr, Nat.add_right_comm, Nat.add_assoc], hw.trans hwk, he⟩

theorem State.readEntries_trap {s : State} {a : Word} {ctab k n : Nat} {f : Trapped} {c : Core}
    (h : s.readEntries a ctab k n = .error (.trap f c)) : ∃ t, WalksOnly s t ∧ c = t.core := by
  induction n generalizing s k with
  | zero => cases h
  | succ n ih =>
    obtain h | ⟨⟨b, p, s1⟩, h1, h⟩ := Except.bind_error h
    · exact State.readVa_trap h
    · have hw := State.readVa_walks h1
      dsimp only at h
      split at h
      · cases h
        exact ⟨s1, hw, rfl⟩
      · obtain h | ⟨_, _, h⟩ := Except.bind_error h
        · obtain ⟨t, ht, hc⟩ := ih h
          exact ⟨t, hw.trans ht, hc⟩
        · cases h

theorem State.readCores_ok {s t : State} {l : List CoreEntry} {r : List CoreImage} (h : s.readCores l = .ok (r, t)) :
    WalksOnly s t ∧ r.map (·.entry) = l := by
  induction l generalizing s r with
  | nil =>
    cases h
    exact ⟨.refl _, rfl⟩
  | cons e l ih =>
    obtain ⟨⟨b, p, s1⟩, h1, h⟩ := Except.bind_ok h
    obtain ⟨⟨b2, p2, s2⟩, h2, h⟩ := Except.bind_ok h
    obtain ⟨⟨rest, s3⟩, h3, h⟩ := Except.bind_ok h
    cases h
    obtain ⟨hw, hr⟩ := ih h3
    exact ⟨((State.readVa_walks h1).trans (State.readVa_walks h2)).trans hw, by rw [List.map_cons, hr]⟩

theorem State.readCores_trap {s : State} {l : List CoreEntry} {f : Trapped} {c : Core} (h : s.readCores l = .error (.trap f c)) :
    ∃ t, WalksOnly s t ∧ c = t.core := by
  induction l generalizing s with
  | nil => cases h
  | cons e l ih =>
    obtain h | ⟨⟨b, p, s1⟩, h1, h⟩ := Except.bind_error h
    · exact State.readVa_trap h
    · obtain h | ⟨⟨b2, p2, s2⟩, h2, h⟩ := Except.bind_error h
      · obtain ⟨t, ht, hc⟩ := State.readVa_trap h
        exact ⟨t, (State.readVa_walks h1).trans ht, hc⟩
      · obtain h | ⟨_, _, h⟩ := Except.bind_error h
        · obtain ⟨t, ht, hc⟩ := ih h
          exact ⟨t, ((State.readVa_walks h1).trans (State.readVa_walks h2)).trans ht, hc⟩
        · cases h

/-! ### What the checks accept -/

theorem RegionDesc.ok_iff (s : State) (b : List Byte) :
    (regionDescOf b).ok s.task.ncores (s.ctx s.task.ctx).join s.joinUp (s.greatestRoute (regionDescOf b).ncores) = true ↔ s.descLegal b := by
  simp only [RegionDesc.ok, regionDescOf, State.descLegal, fieldAt, Bool.and_eq_true, Bool.or_eq_true, decide_eq_true_eq, beq_iff_eq,
    List.drop_zero, Nat.add_eq_zero_iff, and_assoc]
  cases (s.ctx s.task.ctx).join with
  | none => simp
  | some j => simp [and_assoc]

theorem CoreEntry.ok_iff (b : List Byte) : (coreEntryOf b).ok = true ↔ entryLegal b := by
  simp only [CoreEntry.ok, coreEntryOf, entryLegal, fieldAt, Config.codeBytes, Config.scratchBytes, Bool.and_eq_true, Bool.or_eq_true,
    decide_eq_true_eq, beq_iff_eq, bne_iff_ne, List.drop_zero, and_assoc, or_iff_not_imp_left, not_not, ne_eq]

/-! ### The plan -/

theorem State.plan_ok {s t : State} {a : Word} {p : Plan} (h : s.plan a = .ok (p, t)) :
    WalksOnly s t ∧ a.toNat % 128 = 0 ∧ ∃ b bad s2 l s3, s.readVa a.toNat 128 = .ok (b, bad, s2) ∧ s2.descLegal b ∧ p.desc = regionDescOf b ∧
      s2.readEntries a p.desc.ctab 0 p.desc.ncores = .ok (l, s3) ∧ p.cores.map (·.entry) = l := by
  unfold State.plan at h
  split at h
  · cases h
  · next ha =>
    obtain ⟨⟨b, bad, s2⟩, h1, h⟩ := Except.bind_ok h
    dsimp only at h
    split at h
    · cases h
    · next hok =>
      obtain ⟨⟨l, s3⟩, h2, h⟩ := Except.bind_ok h
      obtain ⟨⟨cores, s4⟩, h3, h⟩ := Except.bind_ok h
      obtain ⟨hw3, hcores⟩ := State.readCores_ok h3
      have hw := ((State.readVa_walks h1).trans (State.readEntries_ok h2).1).trans hw3
      have hd : s2.descLegal b := (RegionDesc.ok_iff s2 b).1 (by simpa using hok)
      dsimp only at h
      split at h
      · cases h
        exact ⟨hw, not_not.1 ha, b, bad, s2, l, s3, h1, hd, rfl, h2, hcores⟩
      · obtain ⟨⟨shape, _, s5⟩, h5, h⟩ := Except.bind_ok h
        cases h
        exact ⟨hw.trans (State.readVa_walks h5), not_not.1 ha, b, bad, s2, l, s3, h1, hd, rfl, h2, hcores⟩

theorem State.plan_trap {s : State} {a : Word} {f : Trapped} {c : Core} (h : s.plan a = .error (.trap f c)) :
    ∃ t, WalksOnly s t ∧ c = t.core := by
  unfold State.plan at h
  split at h
  · cases h
    exact ⟨s, .refl s, rfl⟩
  · obtain h | ⟨⟨b, bad, s2⟩, h1, h⟩ := Except.bind_error h
    · exact State.readVa_trap h
    · have hw := State.readVa_walks h1
      dsimp only at h
      split at h
      · cases h
        exact ⟨s2, hw, rfl⟩
      · obtain h | ⟨⟨l, s3⟩, h2, h⟩ := Except.bind_error h
        · obtain ⟨t, ht, hc⟩ := State.readEntries_trap h
          exact ⟨t, hw.trans ht, hc⟩
        · have hw2 := hw.trans (State.readEntries_ok h2).1
          obtain h | ⟨⟨cores, s4⟩, h3, h⟩ := Except.bind_error h
          · obtain ⟨t, ht, hc⟩ := State.readCores_trap h
            exact ⟨t, hw2.trans ht, hc⟩
          · have hw3 := hw2.trans (State.readCores_ok h3).1
            dsimp only at h
            split at h
            · cases h
            · obtain h | ⟨_, _, h⟩ := Except.bind_error h
              · obtain ⟨t, ht, hc⟩ := State.readVa_trap h
                exact ⟨t, hw3.trans ht, hc⟩
              · cases h

theorem State.plan_misaligned {s : State} {a : Word} (h : a.toNat % 128 ≠ 0) : s.plan a = .error (.trap ⟨1, 0, a⟩ s.core) := by
  rw [State.plan, if_pos h]

/-- A descriptor that is not legal is refused. -/
theorem State.plan_illegal {s s2 : State} {a : Word} {b : List Byte} {bad : Bool} (ha : a.toNat % 128 = 0)
    (h : s.readVa a.toNat 128 = .ok (b, bad, s2)) (hd : ¬ s2.descLegal b) : s.plan a = .error (.trap ⟨1, 0, a⟩ s2.core) := by
  rw [← RegionDesc.ok_iff] at hd
  rw [State.plan, if_neg (not_not.2 ha), h]
  exact if_pos (by simpa using hd)

/-- A first core-table entry that is not legal is refused. -/
theorem State.plan_illegalEntry {s s2 s3 : State} {a : Word} {b b0 : List Byte} {bad bad0 : Bool} (ha : a.toNat % 128 = 0)
    (h : s.readVa a.toNat 128 = .ok (b, bad, s2)) (hd : s2.descLegal b) (h0 : s2.readVa (leNat (b.take 8)) 32 = .ok (b0, bad0, s3))
    (he : ¬ entryLegal b0) : s.plan a = .error (.trap ⟨1, 0, a⟩ s3.core) := by
  have hn : ∃ n, (regionDescOf b).ncores = n + 1 := Nat.exists_eq_add_of_le' (by
    obtain ⟨-, -, -, -, hpos, -⟩ := hd
    exact hpos)
  obtain ⟨n, hn⟩ := hn
  rw [← RegionDesc.ok_iff] at hd
  rw [← CoreEntry.ok_iff] at he
  have hr : s2.readEntries a (regionDescOf b).ctab 0 (n + 1) = .error (.trap ⟨1, 0, a⟩ s3.core) := by
    rw [State.readEntries, show (regionDescOf b).ctab + 32 * 0 = leNat (b.take 8) from rfl, h0]
    exact if_pos (by simpa using he)
  rw [State.plan, if_neg (not_not.2 ha), h]
  refine (if_neg (by simp [hd])).trans ?_
  rw [hn, hr]
  rfl

/-! ### A core as a region loads it -/

theorem get_putBytes_of_lt (m : SMap Byte) (a : Nat) (l : List Byte) (x : Nat) (h : x < a) :
    SMap.get 0 (putBytes m a l) x = SMap.get 0 m x := by
  induction l generalizing m a with
  | nil => rfl
  | cons b l ih => rw [putBytes, ih _ _ (Nat.lt_succ_of_lt h), SMap.get_set, if_neg (Nat.ne_of_lt h)]

theorem get_putBytes (m : SMap Byte) (a : Nat) (l : List Byte) (i : Nat) (h : i < l.length) :
    SMap.get 0 (putBytes m a l) (a + i) = l[i] := by
  induction l generalizing m a i with
  | nil => cases h
  | cons b l ih =>
    rw [putBytes]
    cases i with
    | zero =>
      refine (get_putBytes_of_lt _ _ _ _ (Nat.lt_add_one a)).trans ?_
      rw [SMap.get_set, if_pos rfl, List.getElem_cons_zero]
    | succ i =>
      rw [show a + (i + 1) = a + 1 + i by omega, List.getElem_cons_succ]
      exact ih _ _ _ (Nat.lt_of_succ_lt_succ h)

theorem Core.smark_scratch (c : Core) (a : Nat) (bad : List Nat) : (c.smark a bad).scratch = c.scratch := by
  unfold Core.smark
  split <;> rfl

theorem Core.enter_loaded (c : Core) (q : CoreImage) (shape : List Byte) (lead : Option (Vector Word 64)) :
    (c.enter q shape lead).Loaded q := by
  refine ⟨rfl, rfl, rfl, rfl, rfl, rfl, rfl, rfl, rfl, rfl, rfl, rfl, rfl, rfl, fun i h => ?_, fun i h => ?_⟩
  · have := get_putBytes [] 0 q.code i h
    rwa [Nat.zero_add] at this
  · have hs : (c.enter q shape lead).scratch = putBytes c.scratch q.entry.sdst q.image := Core.smark_scratch _ _ _
    rw [hs]
    exact get_putBytes _ _ _ i h

/-! ### Values set one after another at consecutive keys -/

theorem SMap.get_foldl_zipIdx_of_lt {α β : Type} (d : α) (h : β → Nat → α) (l : List β) (n k : Nat) (m : SMap α) (hk : k < n) :
    SMap.get d ((l.zipIdx n).foldl (fun m q => SMap.put m q.2 (h q.1 q.2)) m) k = SMap.get d m k := by
  induction l generalizing n m with
  | nil => rfl
  | cons x l ih =>
    rw [List.zipIdx_cons, List.foldl_cons, ih _ _ (Nat.lt_succ_of_lt hk), SMap.get_put_of_ne _ _ _ (Nat.ne_of_lt hk)]

theorem SMap.get_foldl_zipIdx {α β : Type} (d : α) (h : β → Nat → α) {l : List β} {x : β} {n j : Nat} (m : SMap α) (hj : l[j]? = some x) :
    SMap.get d ((l.zipIdx n).foldl (fun m q => SMap.put m q.2 (h q.1 q.2)) m) (n + j) = h x (n + j) := by
  induction l generalizing n m j with
  | nil => cases hj
  | cons y l ih =>
    rw [List.zipIdx_cons, List.foldl_cons]
    cases j with
    | zero =>
      cases hj
      exact (SMap.get_foldl_zipIdx_of_lt _ _ _ _ _ _ (Nat.lt_add_one n)).trans (SMap.get_put_self ..)
    | succ j =>
      rw [← Nat.add_assoc, Nat.add_right_comm]
      exact ih _ hj

/-! ### The region's state at its loading -/

/-- The cores of a task as a region loads them. -/
def State.enteredCores (s : State) (p : Plan) (d : Reg) (e : Nat) : SMap Core :=
  let lead := (s.at' 0).wx d (BitVec.ofNat 64 e)
  p.cores.zipIdx.foldl (fun m q => SMap.put m q.2 ((SMap.get {} lead.task.cores q.2).enter q.1 p.shape
    (if q.2 = 0 then none else some lead.core.x))) lead.task.cores

theorem State.enterRegion_cores (s : State) (p : Plan) (d : Reg) (addr e others : Nat) :
    (s.enterRegion p d addr e others).task.cores = s.enteredCores p d e :=
  congrArg Task.cores (SMap.get_put_self ..)

theorem State.enteredCores_loaded (s : State) {p : Plan} (d : Reg) (e : Nat) {k : Nat} {q : CoreImage} (h : p.cores[k]? = some q) :
    (SMap.get {} (s.enteredCores p d e) k).Loaded q := by
  let lead := (s.at' 0).wx d (BitVec.ofNat 64 e)
  have hk := SMap.get_foldl_zipIdx ({} : Core) (fun (q : CoreImage) k => (SMap.get {} lead.task.cores k).enter q p.shape
    (if k = 0 then none else some lead.core.x)) (n := 0) lead.task.cores h
  rw [Nat.zero_add] at hk
  rw [State.enteredCores, hk]
  exact Core.enter_loaded _ _ _ _

/-- The lead core keeps its registers, x[d] reading the entry tick (05 R169). -/
theorem State.enteredCores_lead (s : State) (p : Plan) (d : Reg) (e : Nat) (r : Reg) :
    (SMap.get {} (s.enteredCores p d e) 0).rx r = ((s.coreAt 0).wx d (BitVec.ofNat 64 e)).rx r := by
  let lead := (s.at' 0).wx d (BitVec.ofNat 64 e)
  have hlead : SMap.get {} lead.task.cores 0 = (s.coreAt 0).wx d (BitVec.ofNat 64 e) := (s.at' 0).setCore_core _
  unfold State.enteredCores
  cases hc : p.cores with
  | nil => exact congrArg (Core.rx · r) hlead
  | cons q l =>
    have h0 := SMap.get_foldl_zipIdx ({} : Core) (fun (q : CoreImage) k => (SMap.get {} lead.task.cores k).enter q p.shape
      (if k = 0 then none else some lead.core.x)) (n := 0) lead.task.cores (l := q :: l) (j := 0) rfl
    rw [← hlead]
    exact (congrArg (Core.rx · r) h0).trans rfl

/-- The region at its loading. -/
def State.entryRegion (s : State) (p : Plan) (d : Reg) (addr e others : Nat) : Region :=
  let lead := (s.at' 0).wx d (BitVec.ofNat 64 e)
  { entering := true, desc := addr, ncores := p.desc.ncores, budget := p.desc.budget, xlat := p.desc.xlat
    live := BitVec.ofNat 256 p.desc.live, entry := e, ahead := s.checkAhead p.desc.ncores p.desc.xlat others
    enteredAt := lead.core.pc, savedLoops := lead.core.loops, savedActive := lead.core.active
    readyAt := (List.range p.desc.ncores).map fun k => (k, s.ptc + Config.delay (s.fresh + k))
    engines := lead.task.region.engines, dest := d }

theorem State.enterRegion_region (s : State) (p : Plan) (d : Reg) (addr e others : Nat) :
    (s.enterRegion p d addr e others).region = s.entryRegion p d addr e others :=
  congrArg Task.region (SMap.get_put_self ..)

theorem State.entryRegion_engines (s : State) (p : Plan) (d : Reg) (addr e others : Nat) :
    (s.entryRegion p d addr e others).engines = s.region.engines := by
  have h := congrArg Region.engines ((s.at' 0).setCore_region ((s.at' 0).core.wx d (BitVec.ofNat 64 e)))
  exact h

theorem State.enterRegion_sameMemory (s : State) (p : Plan) (d : Reg) (addr e others : Nat) :
    SameMemory s (s.enterRegion p d addr e others) := by
  obtain ⟨t, n, h⟩ : ∃ t n, s.enterRegion p d addr e others = { (s.at' 0).setTask t with fresh := n } :=
    ⟨_, _, by rw [State.enterRegion, State.wx, State.setCore, State.setTask_setTask]⟩
  rw [h]
  exact fun _ _ _ => rfl

/-! ### RGENTER -/

theorem execRgenter_loads {s : State} (d a : Reg) (h : s.timed = false) (hl : s.core.loads ≠ []) :
    execRgenter d a s = .next (s.raise 2 0 (BitVec.ofNat 64 s.core.loads.length)) := by
  have hl' : s.core.loads.isEmpty = false := by simpa using hl
  simp [execRgenter, State.needLoose, h, hl']

theorem execRgenter_stores {s : State} (d a : Reg) (h : s.timed = false) (hl : s.core.loads = []) (hf : s.task.failed = none)
    (hs : s.storesDone = false) : execRgenter d a s = .next (s.tryLater .stores) := by
  simp [execRgenter, State.needLoose, State.afterFailed, h, hl, hf, hs]

theorem execRgenter_stopped {s : State} {d a : Reg} {e : Stopped} (h : s.mayEnter) (hp : s.plan (s.rx a) = .error e) :
    execRgenter d a s = .next (s.stopAt e) := by
  obtain ⟨ht, hl, hf, hs⟩ := h
  simp [execRgenter, State.needLoose, State.afterFailed, ht, hl, hf, hs, hp]

/-- The notice of a member's proposal (18 R402). -/
def State.proposal (s : State) (p : Plan) : Instr :=
  .joinEntry ⟨s.task.ctx, s.joinSelf⟩ ⟨s.ptc + p.desc.lead, p.desc.ncores, s.widest p.desc.ncores, s.ptc⟩

/-- The region of a member that has made its proposal. -/
def State.proposing (s : State) (p : Plan) (d a : Reg) : Region := { s.region with
  entering := true, joinSince := some s.ptc, desc := (s.rx a).toNat, dest := d, entry := s.ptc + p.desc.lead }

/-- The state of a member that has made its proposal. -/
def State.proposed (s : State) (p : Plan) (d a : Reg) : State :=
  let s2 := (s.reserveSlots.setRegion (s.proposing p d a)).tellJoin (s.proposal p)
  { s2 with turn := (s.cur, .event (s.proposal p)) :: s2.turn }

theorem execRgenter_planned {s s1 : State} {d a : Reg} {p : Plan} (h : s.mayEnter) (hp : s.plan (s.rx a) = .ok (p, s1)) :
    execRgenter d a s = .next (
      if s.region.engines = [] then
        (if s.enginesFree p.desc.ncores = true then
          { s.setRegion { s.region with ncores := p.desc.ncores } with
            turn := (s.cur, .event .allotCopyEngines) :: (s.cur, .issue) :: s.turn }
        else s.tryLater .engines)
      else if p.desc.xlat = 0 then (s1.count 1 1).enterRegion p d (s.rx a).toNat (s.ptc + p.desc.lead) 0
      else s.proposed p d a) := by
  obtain ⟨ht, hl, hf, hs⟩ := h
  simp only [execRgenter, State.needLoose, State.afterFailed, ht, hl, hf, hs, hp, List.isEmpty_iff, List.isEmpty_nil]
  rfl

/-- Writing the core in focus back changes no trap of loose code. -/
theorem Traps.of_setCore_core {s t : State} {cause sub : Nat} {tval : Word} (hl : s.timed = false)
    (h : Traps (s.setCore s.core) t cause sub tval) : Traps s t cause sub tval := by
  obtain ⟨hmem, hregs, hframe, hmode⟩ := h
  have hput (u : Task) : SMap.put (s.setCore s.core).tasks s.cur.task u = SMap.put s.tasks s.cur.task u := SMap.put_put _ _ _ _
  simp only [SameRegs, State.setCore_core, State.setCore_timed, State.setCore_region, State.setCore_cur, State.setCore_turn,
    State.setCore_task, SMap.put_put, hput, hl, if_neg Bool.false_ne_true] at hmem hregs hframe hmode
  refine ⟨hmem, hregs, hframe, ?_⟩
  rw [hl]
  exact hmode

/-- A trap of an instruction that has read counts the translations it made. -/
theorem WalksOnly.traps {s t : State} (h : WalksOnly s t) (cause sub : Nat) (tval : Word) :
    TrapsWalked s ((s.setCore t.core).raise cause sub tval) cause sub tval := by
  have hcore := h.core
  obtain ⟨-, -, -, -, hn⟩ := h
  refine ⟨s.setCore t.core, ⟨s.onlyCore_setCore _, s.sameMemory_setCore _, ?_, fun i hi => ?_⟩, State.raise_spec _ _ _ _⟩
  · rw [State.setCore_core]
    exact hcore
  · rw [State.setCore_core]
    exact hn i hi

/-- What a region is loaded into, of the cores that a count has touched. -/
theorem State.count_lead (s : State) (ev n : Nat) (r : Reg) : ((s.count ev n).coreAt 0).rx r = (s.coreAt 0).rx r := by
  obtain ⟨-, -, -, hk⟩ := s.count_spec ev n
  obtain ⟨p, m, h⟩ := hk 0
  rw [h]
  rfl

theorem WalksOnly.lead {s t : State} (h : WalksOnly s t) (r : Reg) : (t.coreAt 0).rx r = (s.coreAt 0).rx r := by
  obtain ⟨-, -, -, hk, -⟩ := h
  obtain ⟨p, m, h⟩ := hk 0
  rw [h]
  rfl

theorem State.tellJoin_eq (s : State) (i : Instr) : s.tellJoin i = { s with outbox := (s.tellJoin i).outbox } := by
  unfold State.tellJoin
  split <;> rfl

theorem State.tellJoin_outbox {s : State} {l : Join} (i : Instr) (h : (s.ctx s.task.ctx).join = some l) :
    (s.tellJoin i).outbox = s.outbox ++ (l.bases.eraseIdx l.self).map fun n => .peer n i := by
  rw [State.tellJoin, h]

theorem SMap.has_put {α : Type} (m : SMap α) (i : Nat) (v : α) : SMap.has (SMap.put m i v) i = true := by
  induction m with
  | nil => simp [SMap.put, SMap.has]
  | cons p m ih =>
    obtain ⟨k, w⟩ := p
    simp only [SMap.put]
    split
    · simp [SMap.has]
    · split
      · simp [SMap.has]
      · simp only [SMap.has, List.any_cons, Bool.or_eq_true] at ih ⊢
        exact .inr ih

theorem State.reserveSlots_ports {s : State} {l : Join} (h : (s.ctx s.task.ctx).join = some l) {q : Nat × Port}
    (hq : q ∈ s.reserveSlots.ports) (hl : q.1 ∈ l.ports) : SMap.has q.2.reserved s.cur.task = true := by
  rw [State.reserveSlots, h] at hq
  obtain ⟨x, -, rfl⟩ := List.mem_map.1 hq
  have hx : l.ports.contains x.1 = true := List.contains_iff_mem.2 hl
  simp only [hx, if_true]
  exact SMap.has_put _ _ _

theorem State.proposed_spec (s : State) (p : Plan) (d a : Reg) : SameMemory s (s.proposed p d a) ∧
    (s.proposed p d a).region = s.proposing p d a ∧ (s.proposed p d a).turn = (s.cur, .event (s.proposal p)) :: s.turn ∧
    ∀ l, (s.ctx s.task.ctx).join = some l →
      (s.proposed p d a).outbox = s.outbox ++ ((l.bases.eraseIdx l.self).map fun n => .peer n (s.proposal p)) ∧
      ∀ q ∈ (s.proposed p d a).ports, q.1 ∈ l.ports → SMap.has q.2.reserved s.cur.task = true := by
  have he := (s.reserveSlots.setRegion (s.proposing p d a)).tellJoin_eq (s.proposal p)
  have ht : (s.reserveSlots.setRegion (s.proposing p d a)).task = { s.task with region := s.proposing p d a } :=
    SMap.get_put_self ..
  have ho : ∀ l, (s.ctx s.task.ctx).join = some l → ((s.reserveSlots.setRegion (s.proposing p d a)).tellJoin (s.proposal p)).outbox =
      s.outbox ++ (l.bases.eraseIdx l.self).map fun n => .peer n (s.proposal p) := fun l hl =>
    State.tellJoin_outbox _ (by rw [ht]; exact hl)
  unfold State.proposed
  dsimp only
  rw [he]
  refine ⟨fun _ _ _ => rfl, congrArg Task.region ht, rfl, fun l hl => ⟨ho l hl, fun q hq hp => State.reserveSlots_ports hl hq hp⟩⟩

/-- What RGENTER leaves where its checks accept. -/
theorem execRgenter_ok {s s1 : State} {d a : Reg} {p : Plan} (h : s.mayEnter) (hp : s.plan (s.rx a) = .ok (p, s1)) :
    ∃ t, execRgenter d a s = .next t ∧
      if s.region.engines = [] then
        (if s.enginesFree p.desc.ncores then
           OnlyRegion s { t with turn := s.turn } ∧ t.region = { s.region with ncores := p.desc.ncores } ∧
           t.turn = (s.cur, .event .allotCopyEngines) :: (s.cur, .issue) :: s.turn
         else TriesLater s t .engines)
      else if p.desc.xlat = 0 then t = (s1.count 1 1).enterRegion p d (s.rx a).toNat (s.ptc + p.desc.lead) 0
      else t = s.proposed p d a := by
  refine ⟨_, execRgenter_planned h hp, ?_⟩
  split
  · split
    · exact ⟨s.onlyRegion_setRegion _, s.setRegion_region _, rfl⟩
    · exact s.triesLater_tryLater _
  · split <;> rfl

/-- Settles O20. -/
theorem regionLoading : Obligations.RegionLoading := by
  unfold Obligations.RegionLoading
  refine ⟨fun s a p s1 h => ?_, fun s a b bad s2 ha h => ⟨fun hd => ⟨_, State.plan_illegal ha h hd⟩, fun b0 bad0 s3 hd h0 he =>
    ⟨_, State.plan_illegalEntry ha h hd h0 he⟩⟩, fun s d a => ⟨fun ht hl => ?_, fun h ha => ?_, fun ht hl hf hs => ?_, fun f c h hp => ?_,
    fun h hp => ?_, fun p s1 h hp => ?_⟩⟩
  · obtain ⟨-, ha, b, bad, s2, l, s3, hb, hd, hdesc, he, hcores⟩ := State.plan_ok h
    obtain ⟨-, hlen, hentry⟩ := State.readEntries_ok he
    refine ⟨ha, by rw [← hlen, ← hcores, List.length_map], b, bad, s2, hb, hd, ?_⟩
    rw [hdesc] at hentry ⊢
    refine ⟨rfl, rfl, rfl, rfl, rfl, rfl, fun k q hk => ?_⟩
    obtain ⟨sk, bk, badk, tk, hr, hw, hq, hok⟩ := hentry k q.entry (by rw [← hcores, List.getElem?_map, hk]; rfl)
    rw [Nat.zero_add] at hr
    refine ⟨sk, bk, badk, tk, hr, (State.readVa_walks hb).1.trans hw.1, ?_, ?_⟩
    · rw [hq] at hok
      exact (CoreEntry.ok_iff bk).1 hok
    · rw [hq]
      exact ⟨rfl, rfl, rfl, rfl, rfl⟩
  · rw [exec_rgenter]
    exact ⟨_, execRgenter_loads d a ht hl, s.raise_spec _ _ _⟩
  · rw [exec_rgenter]
    refine ⟨_, execRgenter_stopped h (State.plan_misaligned ha), ?_⟩
    exact (State.raise_spec _ _ _ _).of_setCore_core h.1
  · rw [exec_rgenter]
    exact ⟨_, execRgenter_stores d a ht hl hf hs, s.triesLater_tryLater _⟩
  · rw [exec_rgenter]
    obtain ⟨t, hw, rfl⟩ := State.plan_trap hp
    exact ⟨_, execRgenter_stopped h hp, hw.traps _ _ _⟩
  · rw [exec_rgenter]
    exact ⟨_, execRgenter_stopped h hp, s.triesLater_tryLater _⟩
  · rw [exec_rgenter]
    obtain ⟨t, he, ht⟩ := execRgenter_ok (d := d) h hp
    refine ⟨t, he, ?_⟩
    split
    · next hn =>
      rw [if_pos hn] at ht
      exact ht
    · next hn =>
      rw [if_neg hn] at ht
      split
      · next hx =>
        rw [if_pos hx] at ht
        obtain ⟨hw, -⟩ := State.plan_ok hp
        obtain ⟨cm, -, cr, -⟩ := s1.count_spec 1 1
        have hm := (hw.1.trans cm).trans ((s1.count 1 1).enterRegion_sameMemory p d (s.rx a).toNat (s.ptc + p.desc.lead) 0)
        have hr := (s1.count 1 1).enterRegion_region p d (s.rx a).toNat (s.ptc + p.desc.lead) 0
        have hcores := (s1.count 1 1).enterRegion_cores p d (s.rx a).toNat (s.ptc + p.desc.lead) 0
        have hengines : t.region.engines = s.region.engines := by
          rw [ht, hr, State.entryRegion_engines, cr]
          exact congrArg Region.engines hw.2.2.1
        rw [← ht] at hm hr hcores
        refine ⟨hm, ?_⟩
        refine ⟨by rw [hr]; rfl, by rw [hr]; rfl, by rw [hr]; rfl, by rw [hr]; rfl, by rw [hr]; rfl, by rw [hr]; rfl, by rw [hr]; rfl,
          by rw [hr]; rfl, by rw [hr]; rfl, by rw [hr]; rfl, hengines, fun r => ?_, fun k q hq => ?_⟩
        · rw [State.coreAt, hcores, State.enteredCores_lead, Core.rx_wx, State.count_lead, hw.lead]
        · rw [State.coreAt, hcores]
          exact State.enteredCores_loaded _ d _ hq
      · next hx =>
        rw [if_neg hx] at ht
        obtain ⟨hm, hr, hturn, hjoin⟩ := s.proposed_spec p d a
        rw [← ht] at hm hr hturn hjoin
        rw [hr]
        exact ⟨hm, rfl, rfl, rfl, rfl, rfl, hturn, hjoin⟩

end Sys2Proof.Machine
end

section
/-!
PROOF. Registers (10 R274, 17 R381): where the statement fails. Setting a fault queue puts the context's registers first, and the 64
bytes are written on the state that this gives. `State.cover` takes the first context whose range covers the line, and `SMap.put` of a
map that is not in key order can move a context to its front: the range that the write is charged to is then another one than in the
state that the statement speaks of.
-/

namespace Sys2Proof.Machine

/-- A range over the granule at 0x20000 at level 1. -/
def granuleRange : SMap Range := [(0, { base := 0x20000, length := 0x10000, depth := 1, extent := [(0x20000, 0x10000)] })]

/-- Loose code whose contexts 1 and 0 stand in this order and both cover the granule at 0x20000: context 1 with quota, context 0 without,
having asked for it. The byte at 0x20000 is 1. -/
def unorderedContexts : State :=
  let s := (Tests.loose []).writePa 0x20000 1
  { s with contexts := [(1, { s.ctx 1 with ranges := granuleRange, quota := 1 }), (0, { s.ctx 0 with ranges := granuleRange, asked := true })] }

theorem unorderedContexts_noneHeld : unorderedContexts.noneHeld := by unfold State.noneHeld; decide +kernel

theorem unorderedContexts_translate : translate unorderedContexts 0 0x20000 .none = .ok 0x20000 7 := by decide +kernel

/-- Context 1 pays for the line's shadow. -/
theorem unorderedContexts_hedgeRun : hedgeRun 0 [(0x20000, 0, 7)] unorderedContexts = none := by decide +kernel

theorem unorderedContexts_foreign : unorderedContexts.foreign 0 0x20000 = false := by decide +kernel

/-- With the registers of context 0 set, it stands first, and the write waits for its quota. -/
theorem unorderedContexts_register_readView :
    (unorderedContexts.register (.faultQueue 0 0x20000 0)).readView 0 0x20000 = 1 := by decide +kernel

/-- What the statement says of a fault queue within its bounds. -/
theorem Registers.faultQueue_stores (h : Obligations.Registers) (s : State) {c base log2n : Nat}
    (hb : c < 64 ∧ base % 4096 = 0 ∧ log2n ≤ 12) :
    DeviceStores s (s.register (.faultQueue c base log2n)) c base (List.replicate 64 0) := by
  obtain ⟨-, hwrite, -⟩ := h s
  obtain ⟨t, ht, hqueue⟩ := hwrite (.faultQueue c base log2n)
  cases Host.Outcome.next.inj ht
  dsimp only at hqueue
  rw [if_pos hb] at hqueue
  obtain ⟨-, -, hstores, -⟩ := hqueue
  exact hstores

/-- Refutes O39: a fault queue at 0x20000 is set for context 0 of `unorderedContexts`, whose byte there stays 1 and is not cleared. -/
theorem not_registers : ¬ Obligations.Registers := by
  intro h
  have hstores := Registers.faultQueue_stores h unorderedContexts (c := 0) (base := 0x20000) (log2n := 0) (by decide)
  obtain ⟨hbyte, -⟩ := hstores 0x20000 7 unorderedContexts_noneHeld (by decide) (by decide) rfl unorderedContexts_translate
    unorderedContexts_foreign unorderedContexts_hedgeRun
  exact absurd ((hbyte 0 (by decide)).symm.trans unorderedContexts_register_readView) (by decide)

end Sys2Proof.Machine
end

section
/-!
PROOF. The save and the restore (10 R291, R298): where the statement fails. A pre-emption takes a member's unapplied report back by the
number that the member has in its group (`State.withdraw`). Two tasks of a gang that bear the same number then have one report between
them: the first takes it back, and the second, which finds none, goes on waiting.
-/

namespace Sys2Proof.Machine

/-- A running task of a gang, with number 0 in group 0, that waits for its report to be applied. -/
def reportingMember : Task := { state := .running, record := putBytes [] 0x0E [1], group := some (0, 0), wait := .report }

/-- Tasks 0 and 1 are both this member of group 0, which has its report under way. -/
def doubledMember : State :=
  { State.reset with tasks := [(0, reportingMember), (1, reportingMember)], groups := [(0, { reports := [(0, 0, 1)] })] }

theorem doubledMember_gangOf : doubledMember.gangOf 0 = [0, 1] := by decide +kernel

/-- Task 1 still waits for the report that task 0 has taken back. -/
theorem doubledMember_preempt_wait :
    (((doubledMember.gangOf 0).foldl (fun s j => s.preemptTask j) doubledMember).taskAt 1).wait = .report := by decide +kernel

/-- What the statement says of the wait of a gang's task whose report has not been applied. -/
theorem SaveAndRestore.preempt_wait (h : Obligations.SaveAndRestore) (s : State) {i j g m : Nat} (hj : j ∈ s.gangOf i)
    (hw : (s.taskAt j).wait = .report) (hg : (s.taskAt j).group = some (g, m)) (hr : ∃ r ∈ (s.group g).reports, r.1 = m) :
    (((s.gangOf i).foldl (fun s j => s.preemptTask j) s).taskAt j).wait = .none := by
  obtain ⟨hpreempt, -⟩ := h s
  obtain ⟨t, ht, -, -, hgang⟩ := hpreempt i
  cases Host.Outcome.next.inj ht
  obtain ⟨-, -, hwait, -⟩ := hgang j hj
  exact (hwait g m hw hg hr).1

/-- Refutes O42: a pre-emption request to task 0 of `doubledMember` leaves its gang's task 1 waiting. -/
theorem not_saveAndRestore : ¬ Obligations.SaveAndRestore := by
  intro h
  have hwait := SaveAndRestore.preempt_wait h doubledMember (i := 0) (j := 1) (g := 0) (m := 0) (by rw [doubledMember_gangOf]; decide) rfl rfl
    ⟨(0, 0, 1), List.mem_singleton.mpr rfl, rfl⟩
  exact absurd (doubledMember_preempt_wait.symm.trans hwait) (by decide)

end Sys2Proof.Machine
end

section
/-!
PROOF. Checkpoints and power (12 R336, 14 R353, 17 R385, 18 R404 to R407): what a pre-emption of every task does, what a checkpoint
drains and a restore writes, what a power-on reset keeps, what each step of bring-up leaves, and what the throttle holds up.
-/

namespace Sys2Proof.Machine

/-! ### The pre-emption of every task (18 R404) -/

/-- What comes to one task alone: memory reads as before, no checkpoint opens or ends, and no other task changes. -/
def OneTask (s t : State) (i : Nat) : Prop :=
  SameMemory s t ∧ t.checkpoint = s.checkpoint ∧ ∀ j, j ≠ i → t.taskAt j = s.taskAt j

theorem OneTask.refl (s : State) (i : Nat) : OneTask s s i := ⟨.refl s, rfl, fun _ _ => rfl⟩

theorem OneTask.trans {s t u : State} {i : Nat} (h : OneTask s t i) (k : OneTask t u i) : OneTask s u i := by
  obtain ⟨hm, hc, ht⟩ := h
  obtain ⟨km, kc, kt⟩ := k
  exact ⟨hm.trans km, kc.trans hc, fun j hj => (kt j hj).trans (ht j hj)⟩

/-- A task is set, and what is neither memory nor a checkpoint changes besides. -/
theorem OneTask.of_put {s t : State} {i : Nat} {u : Task} (hm : t.mem = s.mem) (hv : t.versions = s.versions)
    (hd : ∀ d, (t.die d).remaps = (s.die d).remaps) (hc : t.checkpoint = s.checkpoint) (ht : t.tasks = SMap.put s.tasks i u) :
    OneTask s t i := by
  refine ⟨sameMemory_of hm hv hd, hc, fun j hj => ?_⟩
  rw [State.taskAt, ht, SMap.get_put_of_ne _ _ _ hj]
  rfl

theorem State.withdraw_eq (s : State) (i : Nat) :
    s.withdraw i = s ∨ ∃ g, s.withdraw i = { s with groups := g, tasks := SMap.put s.tasks i { s.taskAt i with wait := .none } } := by
  unfold State.withdraw
  dsimp only
  split
  · split
    · exact .inr ⟨_, rfl⟩
    · exact .inl rfl
  · split
    · exact .inr ⟨_, rfl⟩
    · exact .inl rfl
  · exact .inr ⟨s.groups, rfl⟩
  · exact .inl rfl

theorem State.withdraw_oneTask (s : State) (i : Nat) : OneTask s (s.withdraw i) i := by
  obtain h | ⟨g, h⟩ := s.withdraw_eq i
  · rw [h]
    exact .refl s i
  · rw [h]
    exact .of_put rfl rfl (fun _ => rfl) rfl rfl

/-- A withdrawal ends a wait, and leaves the task otherwise. -/
theorem State.withdraw_taskAt (s : State) (i : Nat) : ∃ w, (s.withdraw i).taskAt i = { s.taskAt i with wait := w } := by
  obtain h | ⟨g, h⟩ := s.withdraw_eq i
  · exact ⟨(s.taskAt i).wait, by rw [h]⟩
  · exact ⟨.none, by rw [h]; exact SMap.get_put_self ..⟩

theorem State.leaveJoin_eq (s : State) : s.leaveJoin = { s with outbox := s.leaveJoin.outbox, contexts := s.leaveJoin.contexts } := by
  unfold State.leaveJoin
  split
  · rfl
  · dsimp only
    rw [State.tellJoin_eq]
    rfl

/-- A stop at a cycle, which the other members are told, as the task in focus goes on. -/
theorem State.stopFor_tellPeers (s : State) (u : Task) (i : Nat) (e : Instr) : ∃ b c o,
    { ({ ({ s with tasks := SMap.put s.tasks i u } : State) with cur := { task := i } } : State).tellPeers e with cur := s.cur } =
      { s with tasks := SMap.put s.tasks i { u with region := { u.region with ready := b, othersReady := c } }, outbox := o } := by
  obtain ⟨b, c, o, h⟩ := State.tellPeers_setTask { s with cur := { task := i } } u e
  exact ⟨b, c, o, congrArg (fun t : State => { t with cur := s.cur }) h⟩

/-- What leaves a joined region's wait and what it holds of the package. -/
theorem State.leaveJoin_releaseAll (s : State) :
    s.leaveJoin.releaseAll.mem = s.mem ∧ s.leaveJoin.releaseAll.versions = s.versions ∧ s.leaveJoin.releaseAll.checkpoint = s.checkpoint ∧
    s.leaveJoin.releaseAll.tasks = s.tasks ∧ ∀ d, (s.leaveJoin.releaseAll.die d).remaps = (s.die d).remaps := by
  rw [s.leaveJoin_eq]
  refine ⟨rfl, rfl, rfl, rfl, fun d => ?_⟩
  rw [State.releaseAll_die]
  rfl

theorem State.preemptTask_oneTask (s : State) (i : Nat) : OneTask s (s.preemptTask i) i := by
  refine (s.withdraw_oneTask i).trans ?_
  unfold State.preemptTask
  generalize s.withdraw i = s
  dsimp only
  split
  · exact .of_put rfl rfl (fun _ => rfl) rfl rfl
  · split
    · obtain ⟨b, c, o, h⟩ := s.stopFor_tellPeers _ i _
      rw [h]
      exact .of_put rfl rfl (fun _ => rfl) rfl rfl
    · split
      · obtain ⟨b, c, o, h⟩ := s.stopFor_tellPeers _ i _
        rw [h]
        exact .of_put rfl rfl (fun _ => rfl) rfl rfl
      · split
        · obtain ⟨hm, hv, hc, ht, hd⟩ := State.leaveJoin_releaseAll { s with cur := { task := i } }
          exact .of_put hm hv hd hc (congrArg (SMap.put · i _) ht)
        · exact .of_put rfl rfl (fun _ => rfl) rfl rfl
  · exact .refl s i

/-- A task in loose code stops at once. -/
theorem State.preemptTask_loose {s : State} {i : Nat} (hs : (s.taskAt i).state = .running) (he : (s.taskAt i).region.entering = false)
    (ha : (s.taskAt i).region.active = false) : ((s.preemptTask i).taskAt i).state = .freezing := by
  obtain ⟨w, hw⟩ := s.withdraw_taskAt i
  replace hs : ((s.withdraw i).taskAt i).state = .running := by rw [hw]; exact hs
  replace he : ((s.withdraw i).taskAt i).region.entering = false := by rw [hw]; exact he
  replace ha : ((s.withdraw i).taskAt i).region.active = false := by rw [hw]; exact ha
  unfold State.preemptTask
  generalize s.withdraw i = s at hs he ha ⊢
  dsimp only
  rw [show SMap.get {} s.tasks i = s.taskAt i from rfl]
  generalize s.taskAt i = u at hs he ha ⊢
  split
  · next h _ => exact absurd (hs.symm.trans h) nofun
  · rw [if_neg (by simp [he]), if_neg (by simp [ha])]
    split <;> exact congrArg Task.state (SMap.get_put_self ..)
  · next h _ => exact (h hs).elim

/-- A region stops at the cycle that 05 R182 chooses, or at an earlier one that was chosen before. -/
theorem State.preemptTask_timed {s : State} {i : Nat} (hs : (s.taskAt i).state = .running) (he : (s.taskAt i).region.entering = false)
    (ha : (s.taskAt i).region.active = true) : ∃ w b c, (s.preemptTask i).taskAt i = { s.taskAt i with
      wait := w
      region := { (s.taskAt i).region.stopFor .preempt (if (s.taskAt i).region.freeze.isSome then (s.taskAt i).region.rt
        else (s.taskAt i).region.rt + (s.taskAt i).region.ahead) with ready := b, othersReady := c } } := by
  obtain ⟨w, hw⟩ := s.withdraw_taskAt i
  replace hs : ((s.withdraw i).taskAt i).state = .running := by rw [hw]; exact hs
  replace he : ((s.withdraw i).taskAt i).region.entering = false := by rw [hw]; exact he
  replace ha : ((s.withdraw i).taskAt i).region.active = true := by rw [hw]; exact ha
  refine ⟨w, ?_⟩
  suffices h : ∃ b c, (s.preemptTask i).taskAt i = { (s.withdraw i).taskAt i with
      region := { ((s.withdraw i).taskAt i).region.stopFor .preempt (if ((s.withdraw i).taskAt i).region.freeze.isSome then
          ((s.withdraw i).taskAt i).region.rt else ((s.withdraw i).taskAt i).region.rt + ((s.withdraw i).taskAt i).region.ahead) with
        ready := b, othersReady := c } } by
    obtain ⟨b, c, h⟩ := h
    exact ⟨b, c, by rw [h, hw]⟩
  unfold State.preemptTask
  generalize s.withdraw i = s at hs he ha ⊢
  dsimp only
  rw [show SMap.get {} s.tasks i = s.taskAt i from rfl]
  generalize s.taskAt i = u at hs he ha ⊢
  split
  · next h _ => exact absurd (hs.symm.trans h) nofun
  · rw [if_neg (by simp [he]), if_pos ha]
    obtain ⟨b, c, o, h⟩ := s.stopFor_tellPeers _ i _
    rw [h]
    exact ⟨b, c, SMap.get_put_self ..⟩
  · next h _ => exact (h hs).elim

/-- A task that is being saved already goes on being saved. -/
theorem State.preemptTask_freezing {s : State} {i : Nat} (hs : (s.taskAt i).state = .freezing) :
    ((s.preemptTask i).taskAt i).state = .freezing := by
  obtain ⟨w, hw⟩ := s.withdraw_taskAt i
  replace hs : ((s.withdraw i).taskAt i).state = .freezing := by rw [hw]; exact hs
  unfold State.preemptTask
  generalize s.withdraw i = s at hs ⊢
  dsimp only
  split
  · next h _ => exact absurd (hs.symm.trans h) nofun
  · next h => exact absurd (hs.symm.trans h) nofun
  · exact hs

/-- The cycle at which a pre-emption stops a region that runs (05 R182). -/
def Region.preemptCycle (r : Region) : Nat := if r.freeze.isSome then r.rt else r.rt + r.ahead

/-- A second stop at the same cycle is none. -/
theorem Region.stopFor_stopFor (r : Region) (n : Nat) : (r.stopFor .preempt n).stopFor .preempt n = r.stopFor .preempt n := by
  unfold Region.stopFor
  cases h : r.stopAt with
  | none => simp [whyOver]
  | some p => cases hw : p.2 <;> simp [whyOver, hw]

/-- A task that runs with this region, but for what is known of the others' being ready. -/
def Running (r : Region) (u : Task) : Prop :=
  u.state = .running ∧ ∃ b c, u.region = { r with ready := b, othersReady := c }

/-- A task that ran with this region has been pre-empted. -/
def Preempted (r : Region) (u : Task) : Prop :=
  if r.active = true then Running (r.stopFor .preempt r.preemptCycle) u else u.state = .freezing

theorem Running.preempted {r : Region} {s : State} {i : Nat} (h : Running r (s.taskAt i)) (he : r.entering = false) :
    Preempted r ((s.preemptTask i).taskAt i) := by
  obtain ⟨hs, b, c, hr⟩ := h
  unfold Preempted
  split
  · next ha =>
    obtain ⟨w, b', c', ht⟩ := State.preemptTask_timed hs (by rw [hr]; exact he) (by rw [hr]; exact ha)
    rw [ht, hr]
    exact ⟨hs, b', c', rfl⟩
  · next ha => exact State.preemptTask_loose hs (by rw [hr]; exact he) (by rw [hr]; simpa using ha)

theorem Preempted.again {r : Region} {s : State} {i : Nat} (h : Preempted r (s.taskAt i)) (he : r.entering = false) :
    Preempted r ((s.preemptTask i).taskAt i) := by
  by_cases ha : r.active = true
  · rw [Preempted, if_pos ha] at h
    have hp := h.preempted he
    rw [Preempted, if_pos (show (r.stopFor .preempt r.preemptCycle).active = true from ha)] at hp
    rw [Preempted, if_pos ha]
    exact r.stopFor_stopFor r.preemptCycle ▸ hp
  · rw [Preempted, if_neg ha] at h ⊢
    exact State.preemptTask_freezing h

/-- Once its turn has come, a task stays pre-empted whatever others are, and however often. -/
theorem foldl_preemptTask_preempted {r : Region} (he : r.entering = false) {i : Nat} (l : List Nat) {s : State}
    (h : Preempted r (s.taskAt i) ∨ Running r (s.taskAt i) ∧ i ∈ l) : Preempted r ((l.foldl (fun s i => s.preemptTask i) s).taskAt i) := by
  induction l generalizing s with
  | nil => exact h.resolve_right (fun h => nomatch h.2)
  | cons j l ih =>
    refine ih ?_
    by_cases hj : i = j
    · subst hj
      exact .inl (h.elim (·.again he) (·.1.preempted he))
    · obtain ⟨-, -, ht⟩ := s.preemptTask_oneTask j
      rw [ht i hj]
      exact h.imp_right fun ⟨hr, hi⟩ => ⟨hr, (List.mem_cons.1 hi).resolve_left hj⟩

theorem foldl_preemptTask_frame (l : List Nat) (s : State) : SameMemory s (l.foldl (fun s i => s.preemptTask i) s) ∧
    (l.foldl (fun s i => s.preemptTask i) s).checkpoint = s.checkpoint := by
  induction l generalizing s with
  | nil => exact ⟨.refl s, rfl⟩
  | cons j l ih =>
    obtain ⟨hm, hc, -⟩ := s.preemptTask_oneTask j
    obtain ⟨km, kc⟩ := ih (s.preemptTask j)
    exact ⟨hm.trans km, kc.trans hc⟩

theorem SMap.mem_keys_of_has {α : Type} {m : SMap α} {i : Nat} (h : SMap.has m i = true) : i ∈ m.map (·.1) := by
  obtain ⟨p, hp, hi⟩ := List.any_eq_true.1 h
  exact List.mem_map.2 ⟨p, hp, by simpa using hi⟩

/-- What a pre-emption leaves of the cycles at which a region stops. -/
theorem Region.stopFor_stopAt (r : Region) (n : Nat) : (r.stopFor .preempt n).stopAt = match r.stopAt with
    | none => some (n, .preempt)
    | some (c, why) => some (min c n, if why = .cancel then .cancel else .preempt) := by
  unfold Region.stopFor
  match r.stopAt with
  | none => rfl
  | some (c, why) => cases why <;> rfl

theorem execFullCheckpoint_spec {s : State} (h : s.checkpoint.isOpen = false) : ∃ t, execFullCheckpoint s = .next t ∧ SameMemory s t ∧
    t.checkpoint = { isOpen := false, full := true } ∧ ∀ i, SMap.has s.tasks i = true → (s.taskAt i).state = .running →
      (s.taskAt i).region.entering = false → Preempted (s.taskAt i).region (t.taskAt i) := by
  refine ⟨_, congrArg Host.Outcome.next (if_neg (by simp [h])), ?_⟩
  obtain ⟨hm, hc⟩ := foldl_preemptTask_frame (s.tasks.map (·.1)) { s with checkpoint := { s.checkpoint with full := true } }
  refine ⟨hm, hc.trans (congrArg (Checkpoint.mk · true) h), fun i hi hs he => ?_⟩
  exact foldl_preemptTask_preempted he _ (.inr ⟨⟨hs, _, _, rfl⟩, SMap.mem_keys_of_has hi⟩)

theorem State.allSaved_iff (s : State) :
    s.allSaved = true ↔ ∀ p ∈ s.tasks, p.2.state = .saved ∨ p.2.state = .gone ∨ p.2.state = .bound := by
  unfold State.allSaved
  rw [List.all_eq_true]
  refine forall₂_congr fun p _ => ?_
  obtain ⟨i, u⟩ := p
  cases hu : u.state <;> simp [hu]

theorem execMemoryCheckpoint_spec (s : State) : ∃ t, execMemoryCheckpoint s = .next t ∧
    if s.checkpoint.isOpen = true ∨ (s.checkpoint.full = true ∧ s.allSaved = false) then t = s
    else ∃ n, s.ptc < n ∧ t = { s with checkpoint := { isOpen := true }, inbox := s.inbox ++ [(n, .checkpointDrainComplete)], fresh := t.fresh } := by
  refine ⟨_, rfl, ?_⟩
  by_cases h : s.checkpoint.isOpen = true ∨ (s.checkpoint.full = true ∧ s.allSaved = false)
  · rw [if_pos h, if_pos (by simpa using h)]
  · rw [if_neg h, if_neg (by simpa using h)]
    exact ⟨s.later, s.lt_later, rfl⟩

/-! ### What a checkpoint drains (18 R404, R405) -/

/-- The records that a host port drains: those of the granules in use on the dies of its group. -/
def State.portRecords (s : State) (k : Nat) : List GranuleRecord :=
  (s.usedGranules.filter fun g => (SMap.get [] Config.hostPorts k).contains (Config.paDie (g * 0x10000))).map s.granuleRecord

theorem Config.get_hostPorts : ∀ p ∈ Config.hostPorts, SMap.get [] Config.hostPorts p.1 = p.2 := by decide

theorem State.drained_eq (s : State) : s.drained = Config.hostPorts.map fun p => (p.1, s.portRecords p.1) := by
  unfold State.drained
  refine List.map_congr_left fun p hp => ?_
  rw [State.portRecords, Config.get_hostPorts p hp]

theorem State.mem_portRecords {s : State} {p : Nat × List Nat} (hp : p ∈ Config.hostPorts) (r : GranuleRecord) :
    r ∈ s.portRecords p.1 ↔ ∃ g ∈ s.usedGranules, Config.paDie (g * 0x10000) ∈ p.2 ∧ r = s.granuleRecord g := by
  rw [State.portRecords, Config.get_hostPorts p hp]
  simp only [List.mem_map, List.mem_filter, List.contains_iff_mem, and_assoc, eq_comm (a := r)]

/-- The versions of other views than the system's stay as they are when the system level closes. -/
theorem State.closeLevel_readView {s t : State} (hm : t.mem = s.mem) (hd : t.dies = s.dies)
    (hv : t.versions = s.versions.filter fun v : Version => v.view != systemView) {view : Nat} (h : view ≠ systemView) (pa : Nat) :
    t.readView view pa = s.readView view pa := by
  have hver : t.version (pa / 128) view 0 = s.version (pa / 128) view 0 := by
    rw [State.version, hv, List.find?_filter]
    refine congrArg (s.versions.find? ·) (funext fun v => ?_)
    by_cases hview : v.view = view
    · rw [Bool.eq_iff_iff]
      simp [hview, h]
    · simp [hview]
  have hpa : t.readPa pa = s.readPa pa := by
    rw [State.readPa, hm, State.storage_congr hd]
    rfl
  rw [State.readView, State.readView, hver, hpa]

theorem execCheckpointDrainComplete_spec (s : State) : ∃ t, execCheckpointDrainComplete s = .next t ∧
    if s.checkpoint.isOpen = false then t = s
    else t.checkpoint = {} ∧ (∀ view pa, view ≠ systemView → t.readView view pa = s.readView view pa) ∧
      (∀ w ∈ t.versions, w.view ≠ systemView) ∧ t.tasks = s.tasks ∧
      ∃ drained : Nat → List GranuleRecord,
        (∀ p ∈ Config.hostPorts, ∀ r, r ∈ drained p.1 ↔ ∃ g ∈ s.usedGranules, Config.paDie (g * 0x10000) ∈ p.2 ∧ r = s.granuleRecord g) ∧
        let l := Config.hostPorts.flatMap fun p => drained p.1
        t.outbox = s.outbox ++ (Config.hostPorts.map fun p => .drain p.1 (drained p.1)) ++ [.manifest (l.map fun r => (r.granule, r.digest))
          s.retiredUnits s.wrappedKeys (Config.sign 1 (manifestDigest l s.retiredUnits s.wrappedKeys))] := by
  unfold execCheckpointDrainComplete
  cases h : s.checkpoint.isOpen with
  | false => exact ⟨s, rfl, rfl⟩
  | true =>
    refine ⟨_, rfl, ?_⟩
    rw [if_neg (by decide)]
    refine ⟨rfl, fun view pa hv => ?_, fun w hw => ?_, rfl, s.portRecords,
      fun p hp => State.mem_portRecords hp, ?_⟩
    · exact State.closeLevel_readView (by rfl) (by rfl) (by rfl) hv pa
    · simpa using (List.mem_filter.1 hw).2
    · have hl : s.drained.flatMap (·.2) = Config.hostPorts.flatMap fun p => s.portRecords p.1 := by
        rw [State.drained_eq, List.flatMap_map]
      have ho : (s.drained.map fun d => Output.drain d.1 d.2) = Config.hostPorts.map fun p => .drain p.1 (s.portRecords p.1) := by
        rw [State.drained_eq, List.map_map]
        rfl
      dsimp only
      rw [hl, ho]

/-! ### Granules in use, and what they hold -/

/-- Without a remapped granule, a byte of device memory stands at its own address (11 R315). -/
theorem State.storage_of_no_remaps {s : State} (h : ∀ d ∈ s.dies, d.2.remaps = []) (pa : Nat) : s.storage pa = pa ∧ s.mirror pa = none := by
  have hd : ∀ d, (s.die d).remaps = [] := by
    intro d
    unfold State.die
    generalize s.dies = m at h
    induction m with
    | nil => rfl
    | cons p m ih =>
      obtain ⟨k, v⟩ := p
      rw [SMap.get]
      split
      · exact h (k, v) List.mem_cons_self
      · exact ih fun d hm => h d (List.mem_cons_of_mem _ hm)
  have hr : s.remap pa = none := by
    unfold State.remap
    rw [hd]
    split <;> rfl
  exact ⟨by rw [State.storage, hr], by rw [State.mirror, hr]⟩

theorem SMap.mem_of_get_ne {α : Type} {d : α} {m : SMap α} {i : Nat} (h : SMap.get d m i ≠ d) : ∃ p ∈ m, p.1 = i := by
  by_contra hn
  refine h (SMap.get_of_has_eq_false d ?_)
  rw [SMap.has, List.any_eq_false]
  intro p hp hi
  exact hn ⟨p, hp, by simpa using hi⟩

theorem State.usedGranules_of_byte {s : State} (h : ∀ d ∈ s.dies, d.2.remaps = []) {g i : Nat} (hi : i < 0x10000)
    (hs : Config.deviceStorage (g * 0x10000 + i) = true) (hb : s.readPa (g * 0x10000 + i) ≠ 0) : g ∈ s.usedGranules := by
  rw [State.readPa, (s.storage_of_no_remaps h _).1] at hb
  obtain ⟨p, hp, hpa⟩ := SMap.mem_of_get_ne hb
  have hg : (g * 0x10000 + i) / 0x10000 = g := by omega
  have hback : s.dies.findSome? (fun (_, d) => d.remaps.find? fun r => r.current == g) = none := by
    rw [List.findSome?_eq_none_iff]
    rintro ⟨k, d⟩ hd
    have hr : d.remaps = [] := h _ hd
    dsimp only
    rw [hr]
    rfl
  unfold State.usedGranules
  refine List.mem_eraseDups.2 (List.mem_append_left _ (List.mem_append_left _ (List.mem_map.2 ⟨g, List.mem_filterMap.2 ⟨p, hp, ?_⟩, ?_⟩)))
  · dsimp only
    rw [hpa, if_pos hs, hg]
  · rw [hback]

theorem State.usedGranules_of_owner {s : State} {g : Nat} {o : Nat × Nat × Nat} (ho : o ∈ s.owners) (h1 : o.1 / 0x10000 ≤ g)
    (h2 : g < o.1 / 0x10000 + o.2.1 / 0x10000) : g ∈ s.usedGranules := by
  obtain ⟨a, n, x⟩ := o
  dsimp only at h1 h2
  unfold State.usedGranules
  refine List.mem_eraseDups.2 (List.mem_append_right _ (List.mem_flatMap.2 ⟨_, ho, List.mem_map.2 ⟨g - a / 0x10000, ?_, ?_⟩⟩))
  · exact List.mem_range.2 (by omega)
  · omega

theorem length_takeBytes (m : SMap Byte) (a n : Nat) : (takeBytes m a n).length = n := by
  induction n generalizing a with
  | zero => rfl
  | succ n ih => rw [takeBytes, List.length_cons, ih]

theorem getElem?_takeBytes (m : SMap Byte) (a : Nat) {i n : Nat} (h : i < n) : (takeBytes m a n)[i]? = some (SMap.get 0 m (a + i)) := by
  induction n generalizing a i with
  | zero => cases h
  | succ n ih =>
    cases i with
    | zero => rfl
    | succ i =>
      rw [takeBytes, List.getElem?_cons_succ, ih _ (Nat.lt_of_succ_lt_succ h), Nat.add_right_comm]
      rfl

theorem State.length_readPas (s : State) (pa n : Nat) : (s.readPas pa n).length = n := by
  induction n generalizing pa with
  | zero => rfl
  | succ n ih => rw [State.readPas, List.length_cons, ih]

theorem State.getElem?_readPas (s : State) (pa : Nat) {i n : Nat} (h : i < n) : (s.readPas pa n)[i]? = some (s.readPa (pa + i)) := by
  induction n generalizing pa i with
  | zero => cases h
  | succ n ih =>
    cases i with
    | zero => rfl
    | succ i =>
      rw [State.readPas, List.getElem?_cons_succ, ih _ (Nat.lt_of_succ_lt_succ h), Nat.add_right_comm]
      rfl

/-- Where runs of one length stand one after another, an index names a run and a place in it. -/
theorem getElem?_flatMap_range {α : Type} {m : Nat} (f : Nat → List α) (hf : ∀ k, (f k).length = m) {n k j : Nat} (hk : k < n) (hj : j < m) :
    ((List.range n).flatMap f)[k * m + j]? = (f k)[j]? := by
  induction n with
  | zero => cases hk
  | succ n ih =>
    have hl : ((List.range n).flatMap f).length = n * m := by
      rw [List.length_flatMap, List.map_congr_left fun k _ => hf k, List.map_const', List.sum_replicate_nat, List.length_range]
    rw [List.range_succ, List.flatMap_append]
    obtain hlt | rfl := Nat.lt_succ_iff_lt_or_eq.1 hk
    · have hb : k * m + j < n * m := by
        calc k * m + j < k * m + m := by omega
          _ = (k + 1) * m := (Nat.succ_mul k m).symm
          _ ≤ n * m := Nat.mul_le_mul_right m hlt
      rw [List.getElem?_append_left (by rw [hl]; exact hb), ih hlt]
    · rw [List.getElem?_append_right (by omega), hl, Nat.add_sub_cancel_left]
      simp

/-- A line of a granule at the checkpoint instant: its system shadow's bytes, or the current ones (12 R336). -/
def State.instantLine (s : State) (g k : Nat) : List Byte :=
  match s.version (g * 512 + k) systemView 0 with
  | some v => takeBytes (v.content.getD []) 0 128
  | none => s.readPas (g * 0x10000 + k * 128) 128

theorem State.granuleAt_eq (s : State) (g : Nat) : s.granuleAt g = putBytes [] 0 ((List.range 512).flatMap (s.instantLine g)) := rfl

theorem State.length_instantLine (s : State) (g k : Nat) : (s.instantLine g k).length = 128 := by
  unfold State.instantLine
  split
  · exact length_takeBytes ..
  · exact s.length_readPas ..

/-- A byte of a granule at the checkpoint instant. -/
theorem State.get_granuleAt (s : State) (g : Nat) {i : Nat} (h : i < 0x10000) : SMap.get 0 (s.granuleAt g) i =
    match s.version (g * 512 + i / 128) systemView 0 with
    | some w => SMap.get 0 (w.content.getD []) (i % 128)
    | none => s.readPa (g * 0x10000 + i) := by
  have hj : i % 128 < 128 := Nat.mod_lt _ (by decide)
  have hline : (s.instantLine g (i / 128))[i % 128]? = some (match s.version (g * 512 + i / 128) systemView 0 with
      | some w => SMap.get 0 (w.content.getD []) (i % 128)
      | none => s.readPa (g * 0x10000 + i)) := by
    unfold State.instantLine
    split
    · rw [getElem?_takeBytes _ _ hj, Nat.zero_add]
    · rw [State.getElem?_readPas _ _ hj, Nat.add_assoc, Nat.div_add_mod']
  have hget := getElem?_flatMap_range (s.instantLine g) (s.length_instantLine g) (n := 512) (k := i / 128) (by omega) hj
  rw [Nat.div_add_mod', hline] at hget
  obtain ⟨hlt, hval⟩ := List.getElem?_eq_some_iff.1 hget
  rw [← hval, State.granuleAt_eq, ← get_putBytes [] 0 _ i hlt, Nat.zero_add]

theorem State.granuleRecord_content {s : State} {g i : Nat} (h : i < 0x10000) (ho : s.ownerOf (g * 0x10000) = 0xFF) :
    SMap.get 0 (s.granuleRecord g).content i =
      match s.version (g * 512 + i / 128) systemView 0 with
      | some w => SMap.get 0 (w.content.getD []) (i % 128)
      | none => s.readPa (g * 0x10000 + i) := by
  rw [← s.get_granuleAt g h, State.granuleRecord]
  dsimp only
  rw [if_pos ho]

/-! ### Bytes written where no granule is remapped (11 R315) -/

/-- No die has a remapped granule. -/
def State.NoRemaps (s : State) : Prop := ∀ d ∈ s.dies, d.2.remaps = []

theorem State.writePa_dies (s : State) (pa : Nat) (b : Byte) : (s.writePa pa b).dies = s.dies := by
  unfold State.writePa
  split <;> rfl

/-- Writing bytes changes memory alone. -/
theorem State.writePas_eq (s : State) (pa : Nat) (l : List Byte) : s.writePas pa l = { s with mem := (s.writePas pa l).mem } := by
  induction l generalizing s pa with
  | nil => rfl
  | cons b l ih =>
    have h : s.writePa pa b = { s with mem := (s.writePa pa b).mem } := by
      unfold State.writePa
      split <;> rfl
    rw [State.writePas, ih, h]

theorem State.NoRemaps.congr {s t : State} (h : s.NoRemaps) (hd : t.dies = s.dies) : t.NoRemaps := by
  rw [State.NoRemaps, hd]
  exact h

theorem State.readPa_writePa_noRemaps {s : State} (h : s.NoRemaps) (pa x : Nat) (b : Byte) :
    (s.writePa pa b).readPa x = if x = pa then b else s.readPa x := by
  split
  · next e => rw [e, State.readPa_writePa_self]
  · next e =>
    refine s.readPa_writePa_of_ne pa x b ?_ ?_
    · rw [(s.storage_of_no_remaps h x).1, (s.storage_of_no_remaps h pa).1]
      exact e
    · rw [(s.storage_of_no_remaps h pa).2]
      nofun

theorem State.readPa_writePas_of_not_mem {s : State} (h : s.NoRemaps) {pa x : Nat} (l : List Byte) (hx : x < pa ∨ pa + l.length ≤ x) :
    (s.writePas pa l).readPa x = s.readPa x := by
  induction l generalizing s pa with
  | nil => rfl
  | cons b l ih =>
    rw [List.length_cons] at hx
    have hn : (s.writePa pa b).NoRemaps := h.congr (s.writePa_dies pa b)
    rw [State.writePas, ih hn (by omega), State.readPa_writePa_noRemaps h, if_neg (by omega)]

theorem State.readPa_writePas_getElem {s : State} (h : s.NoRemaps) {pa i : Nat} (l : List Byte) (hi : i < l.length) :
    (s.writePas pa l).readPa (pa + i) = l[i] := by
  induction l generalizing s pa i with
  | nil => cases hi
  | cons b l ih =>
    have hn : (s.writePa pa b).NoRemaps := h.congr (s.writePa_dies pa b)
    rw [State.writePas]
    cases i with
    | zero => exact (State.readPa_writePas_of_not_mem hn l (.inl (Nat.lt_add_one pa))).trans (s.readPa_writePa_self pa b)
    | succ i =>
      have h1 := ih hn (pa := pa + 1) (Nat.lt_of_succ_lt_succ hi)
      rw [Nat.add_right_comm] at h1
      exact h1

/-- Bytes are written, and owners are added. -/
def State.writeOwned (s : State) (pa : Nat) (l : List Byte) (o : List (Nat × Nat × Nat)) : State :=
  { s with mem := (s.writePas pa l).mem, owners := s.owners ++ o }

theorem State.writePas_owners (s : State) (pa : Nat) (l : List Byte) (o : List (Nat × Nat × Nat)) :
    ({ s.writePas pa l with owners := (s.writePas pa l).owners ++ o } : State) = s.writeOwned pa l o := by
  rw [State.writePas_eq]
  rfl

theorem State.writeOwned_eq (s : State) (pa : Nat) (l : List Byte) (o : List (Nat × Nat × Nat)) :
    s.writeOwned pa l o = { s with mem := (s.writeOwned pa l o).mem, owners := s.owners ++ o } := rfl

theorem State.writeOwned_noRemaps {s : State} (h : s.NoRemaps) (pa : Nat) (l : List Byte) (o : List (Nat × Nat × Nat)) :
    (s.writeOwned pa l o).NoRemaps := h

theorem State.writeOwned_readPa (s : State) (pa : Nat) (l : List Byte) (o : List (Nat × Nat × Nat)) (x : Nat) :
    (s.writeOwned pa l o).readPa x = (s.writePas pa l).readPa x := by
  rw [State.writePas_eq]
  rfl

/-! ### The restore of an image (18 R405) -/

/-- A granule's byte as the restore writes it: a sealed one deciphered. -/
def imageByte (image : CheckpointImage) (r : GranuleRecord) (i : Nat) : Byte :=
  if r.owner = 0xFF then SMap.get 0 r.content i
  else Config.decipherByte (imageKey image r.owner) (r.granule * 0x10000 + i) (SMap.get 0 r.content i)

/-- The bytes of a granule as the restore writes them. -/
def imageBytes (image : CheckpointImage) (r : GranuleRecord) : List Byte := (List.range 0x10000).map (imageByte image r)

theorem length_imageBytes (image : CheckpointImage) (r : GranuleRecord) : (imageBytes image r).length = 0x10000 := by
  rw [imageBytes, List.length_map, List.length_range]

theorem getElem_imageBytes (image : CheckpointImage) (r : GranuleRecord) {i : Nat} (h : i < (imageBytes image r).length) :
    (imageBytes image r)[i] = imageByte image r i := by
  have hi : i < 0x10000 := length_imageBytes image r ▸ h
  refine Option.some.inj ((List.getElem?_eq_getElem h).symm.trans ?_)
  rw [imageBytes, List.getElem?_map, List.getElem?_range hi, Option.map_some]

/-- What an image's granule does to the owners. -/
def imageOwner (r : GranuleRecord) : List (Nat × Nat × Nat) :=
  if r.owner = 0xFF then [] else [(r.granule * 0x10000, 0x10000, r.owner)]

/-- A granule of an image is written, with its owner. -/
def writeGranule (image : CheckpointImage) (s : State) (r : GranuleRecord) : State :=
  s.writeOwned (r.granule * 0x10000) (imageBytes image r) (imageOwner r)

/-- Sets the key of a context, which is sealed by it. -/
def State.setKey (s : State) (k : Nat × BitVec 320) : State := s.setCtx k.1 { s.ctx k.1 with key := k.2, isSealed := true }

theorem writeImage_eq (image : CheckpointImage) (s : State) :
    writeImage image s = image.keys.foldl State.setKey (image.granules.foldl (writeGranule image) s) := by
  unfold writeImage
  refine congrArg (image.keys.foldl _) (congrArg (fun f => image.granules.foldl f s) (funext₂ fun s r => ?_))
  have ho : ∀ o : List (Nat × Nat × Nat),
      (if r.owner = 0xFF then o else o ++ [(r.granule * 0x10000, 0x10000, r.owner)]) = o ++ imageOwner r := by
    intro o
    unfold imageOwner
    split
    · rw [List.append_nil]
    · rfl
  exact (congrArg (fun o => ({ s.writePas (r.granule * 0x10000) (imageBytes image r) with owners := o } : State)) (ho _)).trans
    (s.writePas_owners _ _ _)

theorem foldl_setKey_eq (l : List (Nat × BitVec 320)) (s : State) :
    l.foldl State.setKey s = { s with contexts := (l.foldl State.setKey s).contexts } := by
  induction l generalizing s with
  | nil => rfl
  | cons k l ih => rw [List.foldl_cons, ih]; rfl

/-- Granules change memory and the owners alone. -/
theorem foldl_writeGranule_eq (image : CheckpointImage) (l : List GranuleRecord) (s : State) : l.foldl (writeGranule image) s =
    { s with mem := (l.foldl (writeGranule image) s).mem, owners := s.owners ++ l.flatMap imageOwner } := by
  induction l generalizing s with
  | nil => simp
  | cons r l ih =>
    have h : writeGranule image s r = { s with mem := (writeGranule image s r).mem, owners := s.owners ++ imageOwner r } :=
      s.writeOwned_eq _ _ _
    rw [List.foldl_cons, ih, h]
    simp

theorem writeGranule_noRemaps {image : CheckpointImage} {s : State} (h : s.NoRemaps) (r : GranuleRecord) :
    (writeGranule image s r).NoRemaps := State.writeOwned_noRemaps h _ _ _

theorem writeGranule_readPa_eq (image : CheckpointImage) (s : State) (r : GranuleRecord) (pa : Nat) :
    (writeGranule image s r).readPa pa = (s.writePas (r.granule * 0x10000) (imageBytes image r)).readPa pa :=
  s.writeOwned_readPa _ _ _ _

theorem writeGranule_readPa_of_ne {image : CheckpointImage} {s : State} (h : s.NoRemaps) (r : GranuleRecord) {pa : Nat}
    (hp : pa / 0x10000 ≠ r.granule) : (writeGranule image s r).readPa pa = s.readPa pa := by
  rw [writeGranule_readPa_eq, State.readPa_writePas_of_not_mem h]
  rw [length_imageBytes]
  omega

theorem writeGranule_readPa (image : CheckpointImage) {s : State} (h : s.NoRemaps) (r : GranuleRecord) {i : Nat} (hi : i < 0x10000) :
    (writeGranule image s r).readPa (r.granule * 0x10000 + i) = imageByte image r i := by
  have hl : i < (imageBytes image r).length := by rw [length_imageBytes]; exact hi
  rw [writeGranule_readPa_eq, State.readPa_writePas_getElem h _ hl, getElem_imageBytes]

theorem foldl_writeGranule_readPa {image : CheckpointImage} (l : List GranuleRecord) {s : State} (h : s.NoRemaps) {pa : Nat}
    (hp : ∀ r ∈ l, pa / 0x10000 ≠ r.granule) : (l.foldl (writeGranule image) s).readPa pa = s.readPa pa := by
  induction l generalizing s with
  | nil => rfl
  | cons r l ih =>
    rw [List.foldl_cons, ih (writeGranule_noRemaps h r) fun x hx => hp x (List.mem_cons_of_mem _ hx),
      writeGranule_readPa_of_ne h r (hp r List.mem_cons_self)]

theorem foldl_writeGranule_noRemaps {image : CheckpointImage} (l : List GranuleRecord) {s : State} (h : s.NoRemaps) :
    (l.foldl (writeGranule image) s).NoRemaps := by
  induction l generalizing s with
  | nil => exact h
  | cons r l ih =>
    rw [List.foldl_cons]
    exact ih (writeGranule_noRemaps h r)

/-- A granule that stands once in an image has its bytes. -/
theorem foldl_writeGranule_readPa_of_mem {image : CheckpointImage} {pre post : List GranuleRecord} {r : GranuleRecord} {s : State}
    (h : s.NoRemaps) (hr : ∀ x ∈ pre ++ post, x.granule ≠ r.granule) {i : Nat} (hi : i < 0x10000) :
    ((pre ++ r :: post).foldl (writeGranule image) s).readPa (r.granule * 0x10000 + i) = imageByte image r i := by
  have hn := foldl_writeGranule_noRemaps (image := image) pre h
  rw [List.foldl_append, List.foldl_cons, foldl_writeGranule_readPa post (writeGranule_noRemaps hn r), writeGranule_readPa image hn r hi]
  intro x hx he
  exact hr x (List.mem_append_right _ hx) (by omega)

theorem find?_imageOwner {r : GranuleRecord} {pa : Nat} (l : List GranuleRecord) (h : ∀ x ∈ l, x.granule ≠ r.granule)
    (hp : pa = r.granule * 0x10000) :
    (l.flatMap imageOwner).find? (fun (a, n, _) => decide (a ≤ pa) && decide (pa < a + n)) = none := by
  rw [List.find?_eq_none]
  intro o ho
  obtain ⟨x, hx, ho⟩ := List.mem_flatMap.1 ho
  unfold imageOwner at ho
  split at ho
  · cases ho
  · cases List.mem_singleton.1 ho
    have := h x hx
    simp only [Bool.and_eq_true, decide_eq_true_eq]
    omega

/-- A granule that stands once in an image has its owner. -/
theorem ownerOf_of_image {pre post : List GranuleRecord} {r : GranuleRecord} {s : State} (ho : s.owners = (pre ++ r :: post).flatMap imageOwner)
    (hr : ∀ x ∈ pre ++ post, x.granule ≠ r.granule) (hlt : r.owner < 64) : s.ownerOf (r.granule * 0x10000) = r.owner := by
  have hpre := find?_imageOwner (r := r) pre (fun x hx => hr x (List.mem_append_left _ hx)) rfl
  unfold State.ownerOf
  rw [ho, List.flatMap_append, List.find?_append, hpre, Option.none_or, List.flatMap_cons, imageOwner, if_neg (by omega)]
  simp

theorem State.saveSystem_dies (s : State) (l : Nat) : (s.saveSystem l).dies = s.dies := by
  unfold State.saveSystem
  split
  · split <;> rfl
  · rfl

theorem State.saveShadows_dies (s : State) (l tv : Nat) : (s.saveShadows l tv).dies = s.dies := by
  have h0 : (if tv = 0 then s.saveSystem l else s).dies = s.dies := by
    split
    · exact s.saveSystem_dies l
    · rfl
  unfold State.saveShadows
  dsimp only
  generalize (if tv = 0 then s.saveSystem l else s) = u at h0 ⊢
  split
  · exact h0
  · split <;> exact h0

/-- Saving the shadows of lines leaves memory, the remap tables and the tasks. -/
theorem foldl_saveShadows_frame (l : List Nat) (s : State) :
    (l.foldl (fun s a => s.saveShadows (a / 128) 0) s).mem = s.mem ∧ (l.foldl (fun s a => s.saveShadows (a / 128) 0) s).dies = s.dies ∧
    (l.foldl (fun s a => s.saveShadows (a / 128) 0) s).tasks = s.tasks := by
  induction l generalizing s with
  | nil => exact ⟨rfl, rfl, rfl⟩
  | cons a l ih =>
    obtain ⟨hm, hd, ht⟩ := ih (s.saveShadows (a / 128) 0)
    exact ⟨hm.trans (s.saveShadows_mem _ _), hd.trans (s.saveShadows_dies _ _), ht.trans (s.saveShadows_outside _ _).tasks⟩

/-- An image is good if it is signed and every granule of it can be restored and has its digest. -/
theorem imageGood_iff (image : CheckpointImage) (signature : BitVec 1056) : imageGood image signature = true ↔
    Config.verify signature (manifestDigest image.granules image.retired image.keys) = true ∧ ∀ r ∈ image.granules,
      imageOpens image r = true ∧ Config.deviceStorage (r.granule * 0x10000) = true ∧
      r.digest = BitVec.ofNat 512 (leNat (sha512 (takeBytes r.content 0 0x10000))) := by
  simp only [imageGood, Bool.and_eq_true, List.all_eq_true, decide_eq_true_eq, and_assoc]

/-- The state that a restore writes an image into: shadows are saved, and device memory is cleared. -/
def State.cleared (s : State) (lines : List Nat) : State :=
  let s1 := lines.foldl (fun s a => s.saveShadows (a / 128) 0) s
  { s1 with mem := s1.mem.filter fun p => decide (Config.hostBase ≤ p.1), poison := [], copies := [], owners := [], deadKey := [], history := [] }

theorem State.cleared_noRemaps {s : State} (h : s.NoRemaps) (lines : List Nat) : (s.cleared lines).NoRemaps := by
  obtain ⟨-, hd, -⟩ := foldl_saveShadows_frame lines s
  exact h.congr hd

theorem State.cleared_readPa {s : State} (h : s.NoRemaps) (lines : List Nat) {pa : Nat} (hpa : Config.deviceStorage pa = true) :
    (s.cleared lines).readPa pa = 0 := by
  rw [State.readPa, (State.storage_of_no_remaps (State.cleared_noRemaps h lines) pa).1]
  by_contra hne
  obtain ⟨p, hp, he⟩ := SMap.mem_of_get_ne hne
  have hb : Config.hostBase ≤ p.1 := by simpa using (List.mem_filter.1 hp).2
  simp only [Config.deviceStorage, Bool.and_eq_true, decide_eq_true_eq] at hpa
  simp only [Config.hostBase] at hb
  omega

/-- A restore that nothing stands against. -/
def State.restored (s : State) (image : CheckpointImage) : State := writeImage image (s.cleared (s.imageLines image))

theorem State.restored_eq (s : State) (image : CheckpointImage) : s.restored image =
    { image.granules.foldl (writeGranule image) (s.cleared (s.imageLines image)) with contexts := (s.restored image).contexts } := by
  unfold State.restored
  rw [writeImage_eq]
  exact foldl_setKey_eq _ _

theorem State.restored_readPa (s : State) (image : CheckpointImage) (pa : Nat) : (s.restored image).readPa pa =
    (image.granules.foldl (writeGranule image) (s.cleared (s.imageLines image))).readPa pa := by
  rw [State.restored_eq]
  generalize image.granules.foldl (writeGranule image) (s.cleared (s.imageLines image)) = u
  rfl

/-- What a restore leaves beside memory's bytes. -/
theorem State.restored_frame (s : State) (image : CheckpointImage) : (s.restored image).tasks = s.tasks ∧ (s.restored image).poison = [] ∧
    (s.restored image).copies = [] ∧ (s.restored image).owners = image.granules.flatMap imageOwner := by
  obtain ⟨-, -, ht⟩ := foldl_saveShadows_frame (s.imageLines image) s
  rw [State.restored_eq, foldl_writeGranule_eq]
  exact ⟨ht, rfl, rfl, List.nil_append _⟩

theorem State.restored_key (s : State) {image : CheckpointImage} {k : Nat × BitVec 320} (h : image.keys = [k]) :
    ((s.restored image).ctx k.1).key = k.2 ∧ ((s.restored image).ctx k.1).isSealed = true := by
  unfold State.restored
  rw [writeImage_eq, h, List.foldl_cons, List.foldl_nil, State.setKey]
  generalize image.granules.foldl (writeGranule image) (s.cleared (s.imageLines image)) = u
  rw [State.ctx, State.setCtx, SMap.get_put_self]
  exact ⟨rfl, rfl⟩

theorem execCheckpointRestore_refused {s : State} {image : CheckpointImage} {signature : BitVec 1056}
    (h : imageGood image signature = false ∨ ∃ p ∈ s.tasks, p.2.places ≠ []) :
    execCheckpointRestore image signature s = .next s := by
  refine congrArg Host.Outcome.next (if_pos ?_)
  rw [Bool.or_eq_true]
  refine h.imp (fun h => by rw [h]; rfl) fun ⟨p, hp, hne⟩ => List.any_eq_true.2 ⟨p, hp, ?_⟩
  simpa using hne

/-- A restore that is tried again later. -/
def State.restoreAgain (s : State) (image : CheckpointImage) (signature : BitVec 1056) : State :=
  { s with inbox := s.inbox ++ [(s.later, .checkpointRestore image signature)], fresh := s.fresh + 1 }

theorem execCheckpointRestore_good {s : State} {image : CheckpointImage} {signature : BitVec 1056} (h : imageGood image signature = true)
    (hp : ∀ p ∈ s.tasks, p.2.places = []) : execCheckpointRestore image signature s = .next (
      if (s.imageLines image).any fun a => s.locked (a / 128) (0, 2 ^ 32, 0) then s.restoreAgain image signature
      else match hedgeRun 0 ((s.imageLines image).map fun a => (a, 0, 0)) s with
        | some c => (s.restoreAgain image signature).ask c
        | none => s.restored image) := by
  refine congrArg Host.Outcome.next (if_neg ?_)
  rw [Bool.or_eq_true, not_or, h]
  refine ⟨by decide, fun hany => ?_⟩
  obtain ⟨p, hm, hne⟩ := List.any_eq_true.1 hany
  have := hp p hm
  simp [this] at hne

theorem State.restoreAgain_spec (s : State) (image : CheckpointImage) (signature : BitVec 1056) :
    SameMemory s (s.restoreAgain image signature) ∧ (s.restoreAgain image signature).tasks = s.tasks ∧
    ∃ n, s.ptc < n ∧ (n, .checkpointRestore image signature) ∈ (s.restoreAgain image signature).inbox :=
  ⟨fun _ _ _ => rfl, rfl, s.later, s.lt_later, List.mem_append_right _ (List.mem_singleton.2 rfl)⟩

theorem State.ask_inbox {s : State} {p : Nat × Instr} (c : Nat) (h : p ∈ s.inbox) : p ∈ (s.ask c).inbox := by
  unfold State.ask
  dsimp only
  split
  · exact h
  · exact List.mem_append_left _ h

/-! ### Reset and bring-up (14 R353, 17 R384, R385, 18 R406) -/

theorem State.persistent_die (m : SMap Die) (d : Nat) :
    SMap.get ({} : Die) (m.map fun p => (p.1, p.2.persistent)) d = (SMap.get ({} : Die) m d).persistent :=
  SMap.get_map_of_default ({} : Die) m Die.persistent rfl d

theorem mem_persistent_ras {v : Die} {e : List Byte} : e ∈ v.persistent.ras ↔ e ∈ v.ras ∧ leNat (e.take 2) = 0x902 := by
  simp [Die.persistent, List.mem_filter]

theorem execPowerOnReset_spec (s : State) : ∃ t, execPowerOnReset s = .next t ∧
    t = { State.reset with replReq := t.replReq, dies := t.dies, firmware := t.firmware, fresh := s.fresh + 1 } ∧
    (t.firmware = s.firmware ∨ t.firmware = s.firmware + 1) ∧ (s.replReq = true → t.replReq = true) ∧
    (∀ d e, (∃ x, (d, x) ∈ t.dies ∧ e ∈ x.ras) ↔ ∃ x, (d, x) ∈ s.dies ∧ e ∈ x.ras ∧ leNat (e.take 2) = 0x902) ∧
    ∀ d, (t.die d).retiredCores = (s.die d).retiredCores ∧ (t.die d).retiredSlices = (s.die d).retiredSlices ∧
      (t.die d).retiredLinks = (s.die d).retiredLinks ∧ (t.die d).retiredMemory = (s.die d).retiredMemory ∧
      let l := resetSlices d (s.die d).retiredSlices
      ∀ b, t.sliceOf d b = l.getD (b % max 1 l.length) 0 := by
  refine ⟨_, rfl, rfl, ?_, fun h => by rw [h]; rfl, fun d e => ⟨?_, ?_⟩, fun d => ?_⟩
  · have hlt : Config.choose s.fresh % 2 < 2 := Nat.mod_lt _ (by decide)
    dsimp only
    omega
  · rintro ⟨x, hx, he⟩
    obtain ⟨⟨k, v⟩, hv, heq⟩ := List.mem_map.1 hx
    cases heq
    exact ⟨v, hv, mem_persistent_ras.1 he⟩
  · rintro ⟨x, hx, he⟩
    exact ⟨x.persistent, List.mem_map.2 ⟨(d, x), hx, rfl⟩, mem_persistent_ras.2 he⟩
  · unfold State.sliceOf State.die
    dsimp only
    rw [State.persistent_die]
    exact ⟨rfl, rfl, rfl, rfl, fun b => rfl⟩

theorem resetSlices_spec (d : Nat) (gone : List Nat) : (resetSlices d gone).Pairwise (· < ·) ∧ ∀ k, k ∈ resetSlices d gone ↔
    k < Config.slices d + 2 ∧ k ∉ gone ∧ k ∉ fuseRetired d ∧ k ∉ resetSpares d gone := by
  refine ⟨List.pairwise_lt_range.filter _, fun k => ?_⟩
  simp only [resetSlices, retiredAt, List.mem_filter, List.mem_range, Bool.and_eq_true, Bool.not_eq_true', List.contains_eq_mem,
    decide_eq_false_iff_not, List.mem_eraseDups, List.mem_append, not_or]
  tauto

theorem State.raiseVector_pending (s : State) (fn vec : Nat) : vec ∈ ((s.raiseVector fn vec).fn fn).msixPending := by
  rw [State.fn, State.raiseVector, SMap.get_put_self]
  dsimp only
  split
  · next h => exact List.contains_iff_mem.1 h
  · exact List.mem_append_right _ (List.mem_singleton.2 rfl)

/-- The die of an error log's entry has it, and its other state. -/
theorem State.rasLog_die (s : State) (r : Ras) : (s.rasLog r).die r.die = { s.die r.die with
    ras := if (s.die r.die).rasCount < 65536 then (s.die r.die).ras ++ [r.bytes s.ptc]
      else (s.die r.die).ras.set ((s.die r.die).rasCount % 65536) (r.bytes s.ptc)
    rasCount := (s.die r.die).rasCount + 1 } := SMap.get_put_self ..

theorem State.rasLog_rasLogged (s : State) (r : Ras) : RasLogged s (s.rasLog r) r := by
  refine ⟨?_, State.raiseVector_pending _ 0 2, ?_⟩
  · rw [State.rasLog_die]
  · rw [State.rasLog_die]

theorem State.rasLog_retiredMemory (s : State) {r : Ras} {d : Nat} (h : r.die = d) :
    ((s.rasLog r).die d).retiredMemory = (s.die d).retiredMemory := by
  subst h
  rw [State.rasLog_die]

/-- What an entry adds is said of the die's log and the time alone. -/
theorem RasLogged.of_die {s u t : State} {r : Ras} (h : RasLogged u t r) (hl : (u.die r.die).ras = (s.die r.die).ras)
    (hc : (u.die r.die).rasCount = (s.die r.die).rasCount) (hp : u.ptc = s.ptc) : RasLogged s t r := by
  obtain ⟨h1, h2, h3⟩ := h
  rw [hc] at h1
  rw [hl, hc, hp] at h3
  exact ⟨h1, h2, h3⟩

theorem State.retired_frame (s : State) (d unit index : Nat) (spare : Bool) : (s.retired d unit index spare).bringUp = s.bringUp ∧
    (s.retired d unit index spare).power = s.power ∧ ((s.retired d unit index spare).die d).retiredMemory = (s.die d).retiredMemory := by
  unfold State.retired
  cases spare with
  | true => exact ⟨rfl, rfl, s.rasLog_retiredMemory rfl⟩
  | false => exact ⟨rfl, rfl, (State.rasLog_retiredMemory _ rfl).trans (s.rasLog_retiredMemory rfl)⟩

/-- The unit is retired, and its spare is logged or a replacement asked for. -/
theorem State.retireMemory_spec (s : State) (d k : Nat) (spare : Bool) :
    (s.retireMemory d k spare).bringUp = s.bringUp ∧ (s.retireMemory d k spare).power = s.power ∧
    k ∈ ((s.retireMemory d k spare).die d).retiredMemory ∧ (k ∉ (s.die d).retiredMemory →
      if spare = true then
        RasLogged s (s.retireMemory d k spare) { type := 6, unit := 1, flags := 4, die := d, index := k } ∧
          (s.retireMemory d k spare).replReq = s.replReq
      else (s.retireMemory d k spare).replReq = true) := by
  unfold State.retireMemory
  dsimp only
  split
  · next h => exact ⟨rfl, rfl, List.contains_iff_mem.1 h, fun hn => absurd (List.contains_iff_mem.1 h) hn⟩
  · have hd : (s.setDie d { s.die d with retiredMemory := k :: (s.die d).retiredMemory }).die d =
        { s.die d with retiredMemory := k :: (s.die d).retiredMemory } := SMap.get_put_self ..
    obtain ⟨hb, hw, hm⟩ := (s.setDie d { s.die d with retiredMemory := k :: (s.die d).retiredMemory }).retired_frame d 1 k spare
    refine ⟨hb, hw, by rw [hm, hd]; exact List.mem_cons_self, fun _ => ?_⟩
    cases spare with
    | true => exact ⟨(State.rasLog_rasLogged _ _).of_die (by rw [hd]) (by rw [hd]) rfl, rfl⟩
    | false => exact rfl

theorem Config.choose_mod_lt (n : Nat) {m : Nat} (h : 0 < m) : Config.choose n % m < m := Nat.mod_lt _ h

/-- What the failure of step n of bring-up leaves. -/
def State.stepFails (s : State) : Nat → State
  | 0 | 1 => { s with power := .held }
  | 2 => ({ s with bringUp := 3, fresh := s.fresh + 2 } : State).trainFails (Config.choose s.fresh % 12) (Config.choose (s.fresh + 1))
  | 3 => { s.rasLog { type := 2, unit := 7, die := Config.choose s.fresh % 12 } with power := .held, fresh := s.fresh + 1 }
  | 4 =>
    let p := Config.choose s.fresh % Config.thavyPorts
    { s.setPort p { s.port p with failed := true, aligned := false } with bringUp := 5, fresh := s.fresh + 1 }
  | n => { s with bringUp := n + 1, ports := s.ports.map fun (p, v) => (p, { v with aligned := false }) }

theorem execBringUp_fails {s : State} (h : ¬7 ≤ s.bringUp) : execBringUp false s = .next (s.stepFails s.bringUp) := by
  unfold execBringUp
  rw [if_neg h, if_neg Bool.false_ne_true]
  rfl

/-- A memory unit that fails to train. -/
theorem State.stepFails_train (s : State) : (s.stepFails 2).bringUp = 3 ∧ (s.stepFails 2).power = s.power ∧
    ∃ d < 12, ∃ k, k ∈ ((s.stepFails 2).die d).retiredMemory ∧ (k ∉ (s.die d).retiredMemory →
      if Config.isBX d = false ∧ Config.channelSpare d k (s.die d).retiredMemory = true then
        RasLogged s (s.stepFails 2) { type := 6, unit := 1, flags := 4, die := d, index := k } ∧ (s.stepFails 2).replReq = s.replReq
      else (s.stepFails 2).replReq = true) := by
  obtain ⟨hb, hw, hk, hspare⟩ := ({ s with bringUp := 3, fresh := s.fresh + 2 } : State).retireMemory_spec (Config.choose s.fresh % 12)
    (Config.choose (s.fresh + 1)) (!Config.isBX (Config.choose s.fresh % 12) &&
      Config.channelSpare (Config.choose s.fresh % 12) (Config.choose (s.fresh + 1)) (s.die (Config.choose s.fresh % 12)).retiredMemory)
  refine ⟨hb, hw, _, Config.choose_mod_lt s.fresh (by decide), _, hk, fun hn => ?_⟩
  have hs := hspare hn
  simp only [Bool.and_eq_true, Bool.not_eq_true'] at hs
  exact hs

theorem State.stepFails_link (s : State) : (s.stepFails 4).bringUp = 5 ∧ (s.stepFails 4).power = s.power ∧
    ∃ p < 16, (s.stepFails 4).port p = { s.port p with failed := true, aligned := false } ∧ ∀ q, q ≠ p → (s.stepFails 4).port q = s.port q :=
  ⟨rfl, rfl, _, Config.choose_mod_lt s.fresh (by decide), SMap.get_put_self .., fun _ hq => SMap.get_put_of_ne _ _ _ hq⟩

theorem State.stepFails_ports (s : State) {n : Nat} (h : 5 ≤ n) : (s.stepFails n).bringUp = n + 1 ∧ (s.stepFails n).power = s.power ∧
    ∀ x ∈ (s.stepFails n).ports, x.2.aligned = false := by
  have he : s.stepFails n = { s with bringUp := n + 1, ports := s.ports.map fun (p, v) => (p, { v with aligned := false }) } := by
    obtain ⟨m, rfl⟩ := Nat.exists_eq_add_of_le' h
    rfl
  rw [he]
  refine ⟨rfl, rfl, fun x hx => ?_⟩
  obtain ⟨y, -, rfl⟩ := List.mem_map.1 hx
  rfl

theorem execBringUp_spec (ok : Bool) (s : State) : ∃ t, execBringUp ok s = .next t ∧
    if 7 ≤ s.bringUp then t = s
    else if ok = true then t = { s with bringUp := s.bringUp + 1 }
    else match s.bringUp with
      | 0 | 1 => t = { s with power := .held }
      | 2 => t.bringUp = 3 ∧ t.power = s.power ∧ ∃ d < 12, ∃ k, k ∈ (t.die d).retiredMemory ∧ (k ∉ (s.die d).retiredMemory →
          if Config.isBX d = false ∧ Config.channelSpare d k (s.die d).retiredMemory = true then
            RasLogged s t { type := 6, unit := 1, flags := 4, die := d, index := k } ∧ t.replReq = s.replReq
          else t.replReq = true)
      | 3 => t.bringUp = 3 ∧ t.power = .held ∧ ∃ d < 12, RasLogged s t { type := 2, unit := 7, die := d }
      | 4 => t.bringUp = 5 ∧ t.power = s.power ∧ ∃ p < 16, t.port p = { s.port p with failed := true, aligned := false } ∧
          ∀ q, q ≠ p → t.port q = s.port q
      | n => t.bringUp = n + 1 ∧ t.power = s.power ∧ ∀ x ∈ t.ports, x.2.aligned = false := by
  by_cases h7 : 7 ≤ s.bringUp
  · exact ⟨s, congrArg Host.Outcome.next (if_pos h7), by rw [if_pos h7]⟩
  · cases ok with
    | true =>
      refine ⟨_, congrArg Host.Outcome.next ((if_neg h7).trans (if_pos rfl)), ?_⟩
      rw [if_neg h7, if_pos rfl]
    | false =>
      refine ⟨_, execBringUp_fails h7, ?_⟩
      rw [if_neg h7, if_neg Bool.false_ne_true]
      split
      · next hb => exact congrArg s.stepFails hb
      · next hb => exact congrArg s.stepFails hb
      · next hb =>
        rw [congrArg s.stepFails hb]
        exact s.stepFails_train
      · next hb =>
        rw [congrArg s.stepFails hb]
        exact ⟨hb, rfl, _, Config.choose_mod_lt s.fresh (by decide), s.rasLog_rasLogged _⟩
      · next hb =>
        rw [congrArg s.stepFails hb]
        exact s.stepFails_link
      · next h0 h1 h2 h3 h4 =>
        have h5 : ∀ n, n ≠ 0 → n ≠ 1 → n ≠ 2 → n ≠ 3 → n ≠ 4 → 5 ≤ n := by omega
        exact s.stepFails_ports (h5 _ h0 h1 h2 h3 h4)

/-! ### The throttle (18 R407) -/

/-- Only what goes out changes, and what tasks know of other members' being ready. -/
def ReadyOnly (s t : State) : Prop :=
  t = { s with tasks := t.tasks, outbox := t.outbox } ∧ ∀ i, ∃ b c, t.taskAt i = { s.taskAt i with
    region := { (s.taskAt i).region with ready := b, othersReady := c } }

theorem ReadyOnly.refl (s : State) : ReadyOnly s s := ⟨rfl, fun _ => ⟨_, _, rfl⟩⟩

theorem ReadyOnly.trans {s t u : State} (h : ReadyOnly s t) (k : ReadyOnly t u) : ReadyOnly s u := by
  obtain ⟨ht, hi⟩ := h
  obtain ⟨hu, ki⟩ := k
  refine ⟨?_, fun i => ?_⟩
  · rw [hu, ht]
  · obtain ⟨b, c, h⟩ := hi i
    obtain ⟨b', c', k⟩ := ki i
    exact ⟨b', c', by rw [k, h]⟩

/-- What is so of another focus is so of this one. -/
theorem ReadyOnly.refocus {s t : State} {f : Focus} (h : ReadyOnly { s with cur := f } t) : ReadyOnly s { t with cur := s.cur } := by
  obtain ⟨ht, hi⟩ := h
  exact ⟨congrArg (fun t : State => { t with cur := s.cur }) ht, hi⟩

theorem State.tell_readyOnly (s : State) (n : Nat) (e : Instr) : ReadyOnly s (s.tell n e) := by
  refine ⟨rfl, fun i => ?_⟩
  by_cases hi : i = s.cur.task
  · subst hi
    exact ⟨false, false, SMap.get_put_self ..⟩
  · exact ⟨(s.taskAt i).region.ready, (s.taskAt i).region.othersReady, SMap.get_put_of_ne _ _ _ hi⟩

theorem State.tellPeers_readyOnly (s : State) (e : Instr) : ReadyOnly s (s.tellPeers e) := by
  unfold State.tellPeers
  generalize s.peers = l
  induction l generalizing s with
  | nil => exact .refl s
  | cons n l ih => exact (s.tell_readyOnly n e).trans (ih _)

theorem State.throttleOver_readyOnly (s : State) (i : Nat) (r : Region) :
    ReadyOnly s { ({ s with cur := { task := i } } : State).throttleOver r with cur := s.cur } := by
  unfold State.throttleOver
  split
  · exact (State.tellPeers_readyOnly _ _).refocus
  · exact .refl s

/-- The end of the throttle is told for every region that it froze. -/
theorem foldl_throttleOver_readyOnly (l : SMap Task) (s : State) : ReadyOnly s
    (l.foldl (fun s (i, t) => ({ ({ s with cur := { task := i } } : State).throttleOver t.region with cur := s.cur } : State)) s) := by
  induction l generalizing s with
  | nil => exact .refl s
  | cons p l ih => exact (s.throttleOver_readyOnly p.1 p.2.region).trans (ih _)

theorem execThrottleResume_spec (s : State) : ∃ t, execThrottleResume s = .next t ∧
    if s.throttle.active = false then t = s
    else match s.throttle.below with
      | none => t = { s with throttle := { active := true, below := some s.ptc } }
      | some n => if s.ptc < n + 2 ^ 16 then t = s
        else t = { s with throttle := {}, tasks := t.tasks, outbox := t.outbox } ∧ ∀ i, t.taskAt i = { s.taskAt i with
          region := { (s.taskAt i).region with ready := (t.taskAt i).region.ready, othersReady := (t.taskAt i).region.othersReady } } := by
  unfold execThrottleResume
  refine ⟨_, rfl, ?_⟩
  cases ha : s.throttle.active with
  | false => rfl
  | true =>
    rw [if_neg (by decide), if_neg (by decide)]
    cases hb : s.throttle.below with
    | none => rfl
    | some n =>
      dsimp only
      rw [show 2 ^ 16 = 65536 from rfl]
      by_cases hn : s.ptc < n + 65536
      · rw [if_pos hn, if_pos hn]
      · rw [if_neg hn, if_neg hn]
        obtain ⟨ht, hi⟩ := foldl_throttleOver_readyOnly s.tasks { s with throttle := {} }
        refine ⟨ht, fun i => ?_⟩
        obtain ⟨b, c, h⟩ := hi i
        rw [h]
        rfl

theorem State.throttleMove_spec (s : State) : s.throttleMove = match s.throttle.below with
    | some n => if s.throttle.active = true ∧ n + 2 ^ 16 ≤ s.ptc then some { s with turn := [({}, .event .throttleResume)] } else none
    | none => none := by
  unfold State.throttleMove
  cases s.throttle.below with
  | none => simp
  | some n => simp

/-- A region that runs is frozen while the throttle holds: one of this package at once, a joined one F cycles on. -/
theorem State.regionMove_throttled {s : State} (ht : s.throttle.active = true) (hs : s.task.state = .running)
    (ha : s.region.active = true) (he : s.region.entering = false) (hr : s.region.traps = []) (hl : s.landing = none)
    (hf : s.region.freeze = none) (hh : s.heldStore = none) :
    s.regionMove = if s.region.total = 0 then s.run 0 (.event (.regionFreeze ⟨.throttle, s.rt, none⟩))
      else if s.region.stopAt = none then s.run 0 (.event (.regionFreeze ⟨.throttle, s.rt + s.region.ahead, none⟩))
      else if s.region.cycleTick ≤ s.ptc then s.run 0 (.phase .cycleOpen) else none := by
  have h : s.task.region = s.region := rfl
  simp [State.regionMove, h, ht, hs, ha, he, hr, hl, hf, hh, State.rt]

/-- A region that the throttle froze stays so while it holds, and goes on when it is over. -/
theorem State.frozenMove_throttle {s : State} {f : Freeze} (hw : f.why = .throttle) (hs : s.task.state = .running)
    (hb : s.region.budgetAt = none) (hc : s.cutHop = none) (hq : s.queueFaults = []) (hst : s.region.stopAt = none) :
    s.frozenMove f = if s.throttle.active = false ∧ f.peer = false then s.run 0 (.event .regionResume) else none := by
  simp [State.frozenMove, hw, hs, hb, hc, hq, hst]

/-- Loose code issues nothing while the throttle holds. -/
theorem State.taskMove_throttled {s : State} (ht : s.throttle.active = true) (hs : s.task.state = .running)
    (ha : s.region.active = false) (he : s.region.entering = false) (hn : s.task.noted = s.task.stateCode)
    (hq : s.queuesMove = none) (hb : s.budgetMet = false) : s.taskMove = none := by
  have h : s.task.region = s.region := rfl
  have hm : s.regionMove = none := by simp [State.regionMove, h, ha, he]
  simp [State.taskMove, hs, hn, hq, hb, hm, ht]

theorem Task.tickCounts_frozen {u : Task} {tick k : Nat} {c : Core} (ha : u.region.active = true) (hf : u.region.freeze.isSome = true)
    (hs : u.state = .running) (hp : u.paused tick = false) (hk : k < u.region.ncores) :
    u.tickCounts tick k c = ((c.count true 2 1).foldCounts.count true 4 1).foldCounts := by
  unfold Task.tickCounts
  rw [if_neg (by simp [hp, hs]), if_pos ha, if_pos (by simp [hk, hf])]

/-! ### The restore, clause by clause -/

theorem State.restored_cleared {s : State} {image : CheckpointImage} (h : s.NoRemaps) {pa : Nat} (hd : Config.deviceStorage pa = true)
    (hp : ∀ r ∈ image.granules, pa / 0x10000 ≠ r.granule) : (s.restored image).readPa pa = 0 := by
  rw [State.restored_readPa, foldl_writeGranule_readPa _ (State.cleared_noRemaps h _) hp, State.cleared_readPa h _ hd]

theorem State.restored_granule {s : State} {image : CheckpointImage} {pre post : List GranuleRecord} {r : GranuleRecord}
    (hi : image.granules = pre ++ r :: post) (hr : ∀ x ∈ pre ++ post, x.granule ≠ r.granule) :
    (r.owner < 64 → (s.restored image).ownerOf (r.granule * 0x10000) = r.owner) ∧
    (s.NoRemaps → ∀ i < 0x10000, (s.restored image).readPa (r.granule * 0x10000 + i) = imageByte image r i) := by
  obtain ⟨-, -, -, ho⟩ := s.restored_frame image
  refine ⟨fun hlt => ownerOf_of_image (ho.trans (by rw [hi])) hr hlt, fun h i hlt => ?_⟩
  rw [State.restored_readPa, hi, foldl_writeGranule_readPa_of_mem (State.cleared_noRemaps h _) hr hlt]

/-- A restore that has to wait. -/
theorem execCheckpointRestore_waits {s : State} {image : CheckpointImage} {signature : BitVec 1056} (h : imageGood image signature = true)
    (hp : ∀ p ∈ s.tasks, p.2.places = [])
    (hw : (∃ a ∈ s.imageLines image, s.locked (a / 128) (0, 2 ^ 32, 0) = true) ∨
      (hedgeRun 0 ((s.imageLines image).map fun a => (a, 0, 0)) s).isSome = true) :
    ∃ t, execCheckpointRestore image signature s = .next t ∧ SameMemory s t ∧ t.tasks = s.tasks ∧
      ∃ n, s.ptc < n ∧ (n, .checkpointRestore image signature) ∈ t.inbox := by
  obtain ⟨hm, ht, n, hn, hin⟩ := s.restoreAgain_spec image signature
  refine ⟨_, execCheckpointRestore_good h hp, ?_⟩
  split
  · exact ⟨hm, ht, n, hn, hin⟩
  · next hl =>
    split
    · next c _ =>
      obtain ⟨hc, -, -⟩ := (s.restoreAgain image signature).ask_frame c
      exact ⟨hm.trans (State.ask_sameMemory _ c), hc.trans ht, n, hn, State.ask_inbox c hin⟩
    · next hh =>
      rw [hh] at hw
      exact absurd (List.any_eq_true.2 (hw.resolve_right (by decide))) hl

theorem execCheckpointRestore_restored {s : State} {image : CheckpointImage} {signature : BitVec 1056} (h : imageGood image signature = true)
    (hp : ∀ p ∈ s.tasks, p.2.places = [])
    (hw : ¬((∃ a ∈ s.imageLines image, s.locked (a / 128) (0, 2 ^ 32, 0) = true) ∨
      (hedgeRun 0 ((s.imageLines image).map fun a => (a, 0, 0)) s).isSome = true)) :
    execCheckpointRestore image signature s = .next (s.restored image) := by
  rw [not_or, Bool.not_eq_true, Option.isSome_eq_false_iff, Option.isNone_iff_eq_none] at hw
  obtain ⟨hl, hh⟩ := hw
  rw [execCheckpointRestore_good h hp, if_neg (fun h => hl (List.any_eq_true.1 h)), hh]

/-- Settles O54, with a lemma above for each clause; a restore goes by whether its image is good, and then by whether it has to wait. -/
theorem checkpointsAndPower : Obligations.CheckpointsAndPower := by
  unfold Obligations.CheckpointsAndPower
  intro s
  refine ⟨execMemoryCheckpoint_spec s, s.allSaved_iff, ?full, execCheckpointDrainComplete_spec s, fun h g => ⟨?used, ?owned⟩,
    fun g i hi ho => State.granuleRecord_content hi ho, fun image signature => ?restore, execPowerOnReset_spec s, resetSlices_spec,
    fun ok => execBringUp_spec ok s, ⟨_, rfl, rfl⟩, execThrottleResume_spec s, s.throttleMove_spec, fun ht hs => ⟨?region, ?frozen, ?loose⟩,
    ?resumed, fun u tick b => ⟨rfl, fun k c ha hf hs hp hk => Task.tickCounts_frozen ha hf hs hp hk⟩, fun d => ?trip⟩
  case full =>
    cases h : s.checkpoint.isOpen with
    | true => exact ⟨s, congrArg Host.Outcome.next (if_pos h), rfl⟩
    | false =>
      obtain ⟨t, ht, hm, hc, hi⟩ := execFullCheckpoint_spec h
      refine ⟨t, ht, ?_⟩
      rw [if_neg (by decide)]
      refine ⟨hm, hc, fun i hk hs he => ?_⟩
      have hp := hi i hk hs he
      unfold Preempted at hp
      dsimp only
      cases ha : (s.taskAt i).region.active with
      | false =>
        rw [ha] at hp
        exact hp
      | true =>
        rw [ha] at hp
        obtain ⟨-, b, c, hr⟩ := hp
        rw [if_neg (by decide), hr]
        exact ((s.taskAt i).region.stopFor_stopAt _).trans (by rfl)
  case used => exact fun i hi hd hb => State.usedGranules_of_byte h hi hd hb
  case owned => exact fun o ho h1 h2 => State.usedGranules_of_owner ho h1 h2
  case restore =>
    dsimp only
    by_cases hg : imageGood image signature = true ∧ ∀ p ∈ s.tasks, p.2.places = []
    · obtain ⟨hgood, hp⟩ := hg
      obtain ⟨hsigned, hwhole⟩ := (imageGood_iff image signature).1 hgood
      have hno : ¬(Config.verify signature (manifestDigest image.granules image.retired image.keys) = false ∨
          (∃ p ∈ s.tasks, p.2.places ≠ []) ∨ ∃ r ∈ image.granules, ¬(imageOpens image r = true ∧
            Config.deviceStorage (r.granule * 0x10000) = true ∧ r.digest = BitVec.ofNat 512 (leNat (sha512 (takeBytes r.content 0 0x10000))))) := by
        rintro (hn | ⟨p, hm, hne⟩ | ⟨r, hm, hne⟩)
        · exact absurd (hsigned.symm.trans hn) (by decide)
        · exact hne (hp p hm)
        · exact hne (hwhole r hm)
      by_cases hw : (∃ a ∈ s.imageLines image, s.locked (a / 128) (0, 2 ^ 32, 0) = true) ∨
          (hedgeRun 0 ((s.imageLines image).map fun a => (a, 0, 0)) s).isSome = true
      · obtain ⟨t, ht, hwaits⟩ := execCheckpointRestore_waits hgood hp hw
        exact ⟨t, ht, fun h => absurd h hno, fun _ _ _ => by rw [if_pos hw]; exact hwaits⟩
      · obtain ⟨htasks, hpoison, hcopies, -⟩ := s.restored_frame image
        refine ⟨_, execCheckpointRestore_restored hgood hp hw, fun h => absurd h hno, fun _ _ _ => ?_⟩
        rw [if_neg hw]
        exact ⟨htasks, hpoison, hcopies, fun k hk => s.restored_key hk, fun h pa hd hpa => State.restored_cleared h hd hpa,
          fun pre r post hi hr => State.restored_granule hi hr⟩
    · refine ⟨s, execCheckpointRestore_refused ?_, fun _ => rfl, fun hsigned hp hwhole =>
        absurd ⟨(imageGood_iff image signature).2 ⟨hsigned, hwhole⟩, hp⟩ hg⟩
      rw [not_and_or, Bool.not_eq_true] at hg
      exact hg.imp_right fun h => by simpa using h
  case region =>
    intro ha he hr hl hf hh
    have hmove := State.regionMove_throttled ht hs ha he hr hl hf hh
    refine ⟨fun h0 => hmove.trans (if_pos h0), fun h0 hst => hmove.trans ((if_neg h0).trans (if_pos hst))⟩
  case frozen =>
    intro f hw hb hc hq hst
    rw [State.frozenMove_throttle hw hs hb hc hq hst, if_neg (by simp [ht])]
  case loose => exact fun ha he hn hq hb => State.taskMove_throttled ht hs ha he hn hq hb
  case resumed =>
    intro ht hs hb hc hq hst f hw hp
    rw [State.frozenMove_throttle hw hs hb hc hq hst, if_pos ⟨ht, hp⟩]
    rfl
  case trip =>
    exact ⟨_, rfl, rfl, State.rasLog_sameMemory { s with power := .removed } _, rfl, State.rasLog_rasLogged { s with power := .removed } _⟩

end Sys2Proof.Machine
end

section
/-!
PROOF. Configurations, runs and streams (06 R202 to R204): where the statement fails. A stream that is armed puts its beats on the agenda
and leaves the map of the task's cores alone; the statement (`OnlyHere`) wants the core in focus listed anew, and `SMap.put` of a map that
is not in key order lists it a second time, in front.
-/

namespace Sys2Proof.Machine

/-- The state of a core 0 whose stream of one output beat is ready to begin, in a task that lists core 1 before it. -/
def unorderedCores : State :=
  let s := Tests.streaming (Tests.aDesc 1 0 0x4000) []
  s.setTask { s.task with cores := [(1, {}), (0, s.core)] }

/-- The stream that begins. -/
def oneBeat : Stream := Tests.aStream (Tests.aDesc 1 0 0x4000) []

theorem unorderedCores_stream : unorderedCores.core.stream 6 = some oneBeat ∧ oneBeat.run.bind unorderedCores.core.runOf = some Tests.aRun ∧
    (unorderedCores.core.lastBeat oneBeat.se 6).any (fun last => decide (100 + (Tests.aDesc 1 0 0x4000).off ≤ last)) = false := by
  decide +kernel

/-- The beat is posted, and the two cores stay listed as they were. -/
theorem unorderedCores_armStream_cores : (unorderedCores.armStream 6).task.cores.length = 2 := by decide +kernel

/-- The core in focus put into the map makes three entries. -/
theorem unorderedCores_put_length (c : Core) : (SMap.put unorderedCores.task.cores unorderedCores.cur.core c).length = 3 := by
  have hcores : unorderedCores.task.cores = [(1, {}), (0, unorderedCores.core)] := by decide +kernel
  rw [hcores]
  rfl

/-- What the statement says of a stream with beats to come. -/
theorem GridCommands.armStream_onlyHere (h : Obligations.GridCommands) (s : State) {uid st : Nat} {x : Stream} {d : StreamDesc} {u : Run}
    (hx : s.core.stream uid = some x) (hd : x.desc = some d) (hu : x.run.bind s.core.runOf = some u) (hst : u.start = some st)
    (hlast : (s.core.lastBeat x.se uid).any (fun last => decide (st + d.off ≤ last)) = false) (hn : u.n ≠ 0) (hdir : d.dir ≠ 2) :
    OnlyHere s (s.armStream uid) := by
  obtain ⟨-, -, -, harm, -⟩ := h s
  have hs := harm uid x d u st hx hd hu hst
  dsimp only at hs
  rw [if_neg (by rw [hlast]; decide), if_neg hn, if_neg hdir] at hs
  exact hs.1

/-- The cores of a task of which one core alone changes. -/
theorem OnlyHere.cores {s t : State} (h : OnlyHere s t) : t.task.cores = SMap.put s.task.cores s.cur.core t.core := by
  obtain ⟨-, htask⟩ := h
  rw [htask]

/-- Refutes O32: the stream of `unorderedCores` is armed without listing core 0 a second time. -/
theorem not_gridCommands : ¬ Obligations.GridCommands := by
  intro h
  obtain ⟨hx, hu, hlast⟩ := unorderedCores_stream
  have hcores := (GridCommands.armStream_onlyHere h unorderedCores (d := Tests.aDesc 1 0 0x4000) (u := Tests.aRun) (st := 100)
    hx rfl hu rfl hlast (by decide) (by decide)).cores
  have hlen := unorderedCores_put_length (unorderedCores.armStream 6).core
  rw [← hcores, unorderedCores_armStream_cores] at hlen
  exact absurd hlen (by decide)

end Sys2Proof.Machine
end

section
/-!
PROOF. What a command of an engine does (05 R183, R185, 06 R195, R214): it posts items, it traps, or its sampling is checked; and with
that the rings (06 R188, R189, R195, R196, R213, R214).
-/

namespace Sys2Proof.Machine

/-! ### The region in focus -/

@[simp] theorem State.setRegion_setRegion (s : State) (r q : Region) : (s.setRegion r).setRegion q = s.setRegion q := by
  rw [State.setRegion, State.setRegion_task, State.setRegion, State.setTask_setTask, State.setRegion]

theorem OnlyRegion.cur {s t : State} (h : OnlyRegion s t) : t.cur = s.cur := by rw [h.1]

theorem OnlyRegion.core {s t : State} (h : OnlyRegion s t) : t.core = s.core := by
  rw [State.core, h.2, h.cur]
  rfl

theorem onlyRegion_iff {s t : State} : OnlyRegion s t ↔ t = s.setRegion t.region := by
  constructor
  · rintro ⟨hs, ht⟩
    rwa [ht] at hs
  · intro h
    rw [h]
    exact s.onlyRegion_setRegion _

theorem OnlyRegion.trans {s t u : State} (h : OnlyRegion s t) (k : OnlyRegion t u) : OnlyRegion s u := by
  rw [onlyRegion_iff] at *
  rw [h, State.setRegion_setRegion] at k
  exact k

/-- Items posted one after another. -/
theorem Posted.append {s t u : State} {l m : List (Nat × Nat × Turn)} (h : Posted s t l) (k : Posted t u m) : Posted s u (l ++ m) := by
  obtain ⟨ps, rfl, hp⟩ := h
  obtain ⟨qs, rfl, hq⟩ := k
  exact ⟨ps ++ qs, List.map_append, by rw [hq, hp, List.append_assoc]⟩

/-- Where the region is the same, nothing has been posted. -/
theorem Posted.nil {s t : State} (h : t.region = s.region) : Posted s t [] := ⟨[], rfl, by rw [h, List.append_nil]⟩

theorem State.trapUnit_spec (s : State) (unit cause sub : Nat) (tval epc : Word) (by' : Nat) :
    UnitTraps s (s.trapUnit unit cause sub tval epc by') unit cause sub tval epc by' := by
  refine ⟨s.onlyRegion_setRegion _, fun _ _ _ => rfl, ?_, s.setRegion_region _⟩
  rw [State.trapUnit, State.setRegion_task]

/-- A command of the core in focus that issues with items posted: `r` is the region with them. -/
theorem State.issues_finish (s : State) (r : Region) (ps : List Pend) (hr : r = { s.region with agenda := s.region.agenda ++ ps, seq := r.seq }) :
    Issues s ((s.setRegion r).finish 1) (ps.map fun p => (p.due, p.core, p.act)) := by
  have ha : r.active = s.timed := by rw [hr]; rfl
  have ht : r.rt = s.rt := by rw [hr]; rfl
  rw [← State.finish_setCore, State.setRegion_core, State.setRegion_setCore]
  obtain ⟨h1, h2, h3, h4, h5⟩ := s.finish_near s.core r s.fresh 1
  refine ⟨h1, h2, h5, h4, s.passes_finish _ _ _ _ [] ha ht ⟨rfl, rfl, rfl, rfl⟩ rfl rfl fun _ _ => ⟨rfl, rfl⟩, ps, rfl, ?_⟩
  rw [h3]
  exact hr

/-- A command whose second part is a phase of its core, `n` cycles on. -/
theorem State.issues_phaseIn (s : State) (n rank : Nat) (key : List Nat) (p : Phase) :
    Issues s ((s.phaseIn n rank key p).finish 1) [(s.rt + n, s.cur.core, .phase p)] :=
  s.issues_finish _ [{ due := s.rt + n, rank := rank, key := key, core := s.cur.core, act := .phase p, pc := s.core.pc, by' := s.cur.core
                       seq := s.region.seq, took := s.region.rt }] rfl

/-! ### Commands with a descriptor -/

theorem State.needTimed_timed {s : State} (h : s.timed = true) (i : Instr) (t : State) : s.needTimed i t = .next t := by
  rw [State.needTimed, if_pos h]

/-- The checks of a descriptor's address (06 R195). -/
theorem State.descAddr_eq (s : State) (a : Word) (align size : Nat) (ok : State) :
    s.descAddr a align size ok = match descTrap a align size with
      | some (cause, sub) => s.raise cause sub a
      | none => ok := by
  unfold State.descAddr descTrap Config.scratchBytes
  split
  · rfl
  · split <;> rfl

/-- A command with a descriptor traps, or what follows its checks holds. -/
theorem State.descAddr_spec (s : State) (a : Word) (align size : Nat) (ok : State) {P : State → Prop} (h : P ok) :
    match descTrap a align size with
    | some (cause, sub) => Traps s (s.descAddr a align size ok) cause sub a
    | none => P (s.descAddr a align size ok) := by
  rw [State.descAddr_eq]
  split
  · exact s.raise_spec _ _ _
  · exact h

/-! ### Samplings (06 R214) -/

theorem Core.watched_lt_iff (c : Core) (a n : Nat) :
    (c.watched a n).1 < (c.watched a n).2 ↔ max a c.checker.1 < min (a + n) (c.checker.1 + c.checker.2) := Iff.rfl

/-- The check is made where the checker watches a byte of the spans. -/
theorem State.checkAgain_eq (s : State) (unit k : Nat) (spans : List (Nat × Nat)) (pc : Word) (by' : Nat) :
    s.checkAgain unit k spans pc by' =
      if 0 < (s.coreAt k).checker.2 ∧ ∃ p ∈ spans, ((s.coreAt k).watched p.1 p.2).1 < ((s.coreAt k).watched p.1 p.2).2 then
        s.post { due := s.rt, rank := 26, core := k, act := .phase (.earlyCheck unit spans pc by'), pc := pc, by' := by' }
      else s := by
  unfold State.checkAgain
  dsimp only
  have hc : ((s.coreAt k).checker.2 = 0 || spans.all fun (a, n) => decide (((s.coreAt k).watched a n).2 ≤ ((s.coreAt k).watched a n).1)) =
      !decide (0 < (s.coreAt k).checker.2 ∧ ∃ p ∈ spans, ((s.coreAt k).watched p.1 p.2).1 < ((s.coreAt k).watched p.1 p.2).2) := by
    rw [Bool.eq_iff_iff]
    simp [Nat.pos_iff_ne_zero, or_iff_not_imp_left]
  rw [hc]
  by_cases h : 0 < (s.coreAt k).checker.2 ∧ ∃ p ∈ spans, ((s.coreAt k).watched p.1 p.2).1 < ((s.coreAt k).watched p.1 p.2).2
  · rw [if_pos h, decide_eq_true h]
    rfl
  · rw [if_neg h, decide_eq_false h]
    rfl

/-- A write that is still to perform lies in the range that the checker watches. -/
theorem State.watched_of_earlyRead {s : State} {k a n : Nat} (h : (s.earlyRead k a n).isSome = true) :
    0 < (s.coreAt k).checker.2 ∧ ((s.coreAt k).watched a n).1 < ((s.coreAt k).watched a n).2 := by
  unfold State.earlyRead at h
  dsimp only at h
  split at h
  · cases h
  · next hc =>
    simp only [Bool.or_eq_true, decide_eq_true_eq, not_or, Nat.not_le] at hc
    exact ⟨Nat.pos_of_ne_zero hc.1, hc.2⟩

/-- What a sampling does, where what follows it meets `next`. -/
theorem State.sampled_spec (s : State) (unit a n : Nat) (pc : Word) (ok : State) {next : State → Prop} (h : next ok) :
    Samples s (s.sampled unit a n pc s.cur.core ok) unit a n pc next := by
  unfold Samples State.sampled
  split
  · next he =>
    obtain ⟨hn, hlt⟩ := State.watched_of_earlyRead he
    rw [State.checkAgain_eq, if_pos ⟨hn, _, List.mem_singleton_self _, hlt⟩]
    obtain ⟨ho, -, hp⟩ := s.posted_post _
    exact ⟨ho, hp⟩
  · split
    · exact s.trapUnit_spec _ _ _ _ _ _
    · exact ⟨ok, h, rfl⟩

/-- The least of several early reads. -/
theorem State.earlyReads_eq_none_iff (s : State) (k : Nat) (spans : List (Nat × Nat)) :
    s.earlyReads k spans = none ↔ ∀ p ∈ spans, s.earlyRead k p.1 p.2 = none := by
  rw [State.earlyReads, List.min?_eq_none_iff, List.filterMap_eq_nil_iff]

theorem State.earlyReads_eq_some {s : State} {k due : Nat} {spans : List (Nat × Nat)} (hd : ∃ p ∈ spans, s.earlyRead k p.1 p.2 = some due)
    (hmin : ∀ p ∈ spans, ∀ n, s.earlyRead k p.1 p.2 = some n → due ≤ n) : s.earlyReads k spans = some due := by
  rw [State.earlyReads, List.min?_eq_some_iff]
  refine ⟨List.mem_filterMap.2 hd, fun n hn => ?_⟩
  obtain ⟨p, hp, he⟩ := List.mem_filterMap.1 hn
  exact hmin p hp n he

/-! ### Rings -/

/-- A ring descriptor that RINGCFG accepts (06 R188, R195). -/
def State.ringLegal (s : State) (a : Nat) : Prop :=
  let base := s.snat a 4
  let slot := s.snat (a + 4) 4
  let count := s.snat (a + 8) 1
  s.snat (a + 9) 7 = 0 ∧ base % 64 = 0 ∧ slot % 64 = 0 ∧ 64 ≤ slot ∧ slot ≤ 0x10000 ∧ 1 ≤ count ∧ count ≤ 64 ∧
    base + slot * count ≤ 0x180000

/-- The model's checks of the descriptor are `ringLegal`. -/
theorem State.ringChecks_eq (s : State) (a : Nat) :
    (!s.szero (a + 9) 7 || decide (s.snat a 4 % 64 ≠ 0) || decide (s.snat (a + 4) 4 % 64 ≠ 0) || decide (s.snat (a + 4) 4 < 64) ||
      decide (0x10000 < s.snat (a + 4) 4) || decide (s.snat (a + 8) 1 < 1) || decide (64 < s.snat (a + 8) 1) ||
      decide (Config.scratchBytes < s.snat a 4 + s.snat (a + 4) 4 * s.snat (a + 8) 1)) = true ↔ ¬ s.ringLegal a := by
  have hc : 0x180000 = Config.scratchBytes := rfl
  simp only [State.ringLegal, hc, State.szero, Bool.or_eq_true, Bool.not_eq_true', decide_eq_false_iff_not,
    decide_eq_true_eq, not_and_or, not_le, ne_eq, or_assoc]

/-- What follows the sampling of a ring descriptor. -/
def State.ringSampled (s : State) (n a : Nat) (pc : Word) : State :=
  if (!s.szero (a + 9) 7 || decide (s.snat a 4 % 64 ≠ 0) || decide (s.snat (a + 4) 4 % 64 ≠ 0) || decide (s.snat (a + 4) 4 < 64) ||
      decide (0x10000 < s.snat (a + 4) 4) || decide (s.snat (a + 8) 1 < 1) || decide (64 < s.snat (a + 8) 1) ||
      decide (Config.scratchBytes < s.snat a 4 + s.snat (a + 4) 4 * s.snat (a + 8) 1)) = true then
    s.trapUnit 0 1 0 (BitVec.ofNat 64 a) pc s.cur.core
  else (s.phaseIn 0 26 [] (.ringQuiet n pc)).phaseIn 1 1 []
    (.ringApply n (s.snat a 4) (s.snat (a + 4) 4) (s.snat (a + 8) 1))

theorem phaseRingSample_eq (n a : Nat) (pc : Word) (s : State) :
    phaseRingSample n a pc s = s.sampled 0 a 16 pc s.cur.core (s.ringSampled n a pc) := rfl

theorem State.rt_phaseIn (s : State) (n rank : Nat) (key : List Nat) (p : Phase) : (s.phaseIn n rank key p).rt = s.rt := by
  rw [State.rt, State.phaseIn, State.post, State.setRegion_region]
  rfl

theorem State.phaseIn_spec (s : State) (n rank : Nat) (key : List Nat) (p : Phase) :
    OnlyRegion s (s.phaseIn n rank key p) ∧ Posted s (s.phaseIn n rank key p) [(s.rt + n, s.cur.core, .phase p)] :=
  have ⟨ho, _, hp⟩ := s.posted_post _
  ⟨ho, hp⟩

theorem State.ringSampled_of_legal {s : State} {a : Nat} (h : s.ringLegal a) (n : Nat) (pc : Word) :
    OnlyRegion s (s.ringSampled n a pc) ∧ Posted s (s.ringSampled n a pc) [(s.rt, s.cur.core, .phase (.ringQuiet n pc)),
      (s.rt + 1, s.cur.core, .phase (.ringApply n (s.snat a 4) (s.snat (a + 4) 4) (s.snat (a + 8) 1)))] := by
  rw [State.ringSampled, if_neg fun hc => (s.ringChecks_eq a).1 hc h]
  obtain ⟨ho, hp⟩ := s.phaseIn_spec 0 26 [] (.ringQuiet n pc)
  obtain ⟨ho', hp'⟩ := (s.phaseIn 0 26 [] (.ringQuiet n pc)).phaseIn_spec 1 1 []
    (.ringApply n (s.snat a 4) (s.snat (a + 4) 4) (s.snat (a + 8) 1))
  rw [State.rt_phaseIn, ho.cur] at hp'
  exact ⟨ho.trans ho', hp.append hp'⟩

theorem State.ringSampled_of_not_legal {s : State} {a : Nat} (h : ¬ s.ringLegal a) (n : Nat) (pc : Word) :
    UnitTraps s (s.ringSampled n a pc) 0 1 0 (BitVec.ofNat 64 a) pc s.cur.core := by
  rw [State.ringSampled, if_pos ((s.ringChecks_eq a).2 h)]
  exact s.trapUnit_spec _ _ _ _ _ _

/-- RINGCFG takes effect (06 R195). -/
theorem phaseRingApply_spec (n base slot count : Nat) (s : State) :
    OnlyCore s (phaseRingApply n base slot count s) ∧
    (phaseRingApply n base slot count s).core = { s.core with rings := (phaseRingApply n base slot count s).core.rings } ∧
    (∀ m, m ≠ n → (phaseRingApply n base slot count s).core.ring m = s.core.ring m) ∧
    (phaseRingApply n base slot count s).core.ring n = { configured := true, base := base, slot := slot, count := count } := by
  rw [phaseRingApply]
  refine ⟨s.onlyCore_setCore _, ?_, fun m hm => ?_, ?_⟩ <;> rw [State.setCore_core]
  · rfl
  · exact SMap.get_put_of_ne _ _ _ hm
  · exact SMap.get_put_self _ _ _ _

/-- In loose code RINGQ gives 0, which is a result that is written at once (06 R196). -/
theorem State.result_zero_of_loose {s : State} (h : s.timed = false) (d : Reg) (n : Nat) :
    s.result d 0 n = .next ((s.wx d 0).finish 1) := by
  rw [State.result, State.deliver, if_neg (by simp [h] : ¬ s.timed = true)]
  split
  · next hd =>
    rw [hd, State.wx, Core.wx, if_pos rfl, State.finish_setCore s]
  · rfl

/-- RINGQ in timed code reads a count (06 R196); in loose code it gives 0. -/
theorem execRingq_spec (d n : Reg) (sel : BitVec 3) (s : State) : ∃ t, execRingq d n sel s = .next t ∧
    if s.timed then Issues s t [(s.rt, s.cur.core, .phase (.ringCount d n.toNat sel.toNat))]
    else Delivers s t d 0 2 ∧ Passes s t 1 [] := by
  unfold execRingq
  cases h : s.timed with
  | true => exact ⟨_, rfl, s.issues_phaseIn 0 _ _ _⟩
  | false =>
    obtain ⟨t, ht, hd⟩ := s.result_spec d 0 2
    exact ⟨t, (State.result_zero_of_loose h d 2).symm.trans ht, hd⟩

/-- The count that RINGQ reads (06 R196). -/
theorem Ring.counter_eq (r : Ring) (sel : Nat) :
    r.counter sel = (if r.configured then
      (if sel = 0 then r.pops else if sel = 1 then r.claims else if sel = 2 then r.arrivals else r.dcount) else 0) % 2 ^ 32 := by
  unfold Ring.counter
  cases r.configured <;> rfl

theorem State.deliver_timed {s : State} (h : s.timed = true) (d : Reg) (v : Word) (n : Nat) :
    if d = 0 then s.deliver d v n = s
    else OnlyRegion s (s.deliver d v n) ∧ (s.deliver d v n).region = s.region.with1 (cpItem s d v n) := by
  split
  · next hd => rw [State.deliver, if_pos hd]
  · next hd =>
    rw [State.deliver, if_neg hd, if_pos h]
    exact ⟨(s.posted_post _).1, by rw [State.post, State.setRegion_region]; rfl⟩

/-- ERCHK.on traps where its range ends beyond the scratchpad, and else issues (06 R213). -/
theorem execErchkOn_spec {s : State} (h : s.timed = true) (a b : Reg) : ∃ t, execErchkOn a b s = .next t ∧
    if 0 < (s.rx b).toNat ∧ 0x180000 < (s.rx a).toNat + (s.rx b).toNat then Traps s t 5 5 (s.rx a + s.rx b)
    else Issues s t [(s.rt, s.cur.core, .phase (.checkerSet (s.rx a).toNat (s.rx b).toNat))] := by
  refine ⟨_, State.needTimed_timed h _ _, ?_⟩
  have hs : 0x180000 = Config.scratchBytes := rfl
  simp only [hs, Bool.and_eq_true, decide_eq_true_eq]
  split
  · exact s.raise_spec _ _ _
  · exact s.issues_phaseIn 0 _ _ _

theorem phaseRingQuiet_spec (n : Nat) (pc : Word) (s : State) :
    if (s.core.ring n).configured = true ∧ ((s.core.ring n).claims ≠ (s.core.ring n).arrivals ∨
        (s.core.ring n).arrivals ≠ (s.core.ring n).pops ∨ s.ringBusy s.cur.core n = true) then
      UnitTraps s (phaseRingQuiet n pc s) 0 6 3 (BitVec.ofNat 64 n) pc s.cur.core
    else phaseRingQuiet n pc s = s := by
  unfold phaseRingQuiet
  simp only [Bool.and_eq_true, Bool.or_eq_true, decide_eq_true_eq, or_assoc]
  split
  · exact s.trapUnit_spec _ _ _ _ _ _
  · rfl

/-- The check of several spans at the cycle's end (06 R214): without an early read it changes nothing, and else it traps with the
earliest write. -/
theorem phaseEarlyCheck_eq_self {s : State} {spans : List (Nat × Nat)} (h : ∀ p ∈ spans, s.earlyRead s.cur.core p.1 p.2 = none)
    (unit : Nat) (pc : Word) (by' : Nat) : phaseEarlyCheck unit spans pc by' s = s := by
  rw [phaseEarlyCheck, (s.earlyReads_eq_none_iff _ _).2 h]

theorem phaseEarlyCheck_traps {s : State} {due : Nat} {spans : List (Nat × Nat)}
    (hd : ∃ p ∈ spans, s.earlyRead s.cur.core p.1 p.2 = some due)
    (hmin : ∀ p ∈ spans, ∀ n, s.earlyRead s.cur.core p.1 p.2 = some n → due ≤ n) (unit : Nat) (pc : Word) (by' : Nat) :
    UnitTraps s (phaseEarlyCheck unit spans pc by' s) unit 6 1 (BitVec.ofNat 64 due) pc by' := by
  rw [phaseEarlyCheck, State.earlyReads_eq_some hd hmin]
  exact s.trapUnit_spec _ _ _ _ _ _

theorem State.checkAgain_spec (s : State) (unit k : Nat) (spans : List (Nat × Nat)) (pc : Word) (by' : Nat) :
    if 0 < (s.coreAt k).checker.2 ∧ ∃ p ∈ spans, max p.1 (s.coreAt k).checker.1 <
        min (p.1 + p.2) ((s.coreAt k).checker.1 + (s.coreAt k).checker.2) then
      OnlyRegion s (s.checkAgain unit k spans pc by') ∧
      Posted s (s.checkAgain unit k spans pc by') [(s.rt, k, .phase (.earlyCheck unit spans pc by'))]
    else s.checkAgain unit k spans pc by' = s := by
  rw [State.checkAgain_eq]
  simp only [Core.watched_lt_iff]
  split
  · obtain ⟨ho, -, hp⟩ := s.posted_post _
    exact ⟨ho, hp⟩
  · rfl

theorem phaseRingCount_spec {s : State} (h : s.timed = true) (d : Reg) (n sel : Nat) :
    if d = 0 then phaseRingCount d n sel s = s
    else OnlyRegion s (phaseRingCount d n sel s) ∧ (phaseRingCount d n sel s).region =
      s.region.with1 (cpItem s d (BitVec.ofNat 64 ((if (s.core.ring n).configured then
        (if sel = 0 then (s.core.ring n).pops else if sel = 1 then (s.core.ring n).claims else if sel = 2 then (s.core.ring n).arrivals
          else (s.core.ring n).dcount) else 0) % 2 ^ 32)) 2) := by
  rw [phaseRingCount, Ring.counter_eq]
  exact State.deliver_timed h _ _ _

/-- Settles O24: RINGCFG's checks, sampling and effect, the early-read check over all spans, RINGQ and ERCHK. -/
theorem rings : Obligations.Rings := by
  intro s
  refine ⟨fun a n h => ⟨_, State.needTimed_timed h _ _, ?_⟩, fun n a pc => ?_, fun n pc => phaseRingQuiet_spec n pc s,
    fun unit spans pc by' => ⟨fun hn => phaseEarlyCheck_eq_self hn unit pc by', fun _ hd hmin => phaseEarlyCheck_traps hd hmin unit pc by'⟩,
    fun unit k spans pc by' => s.checkAgain_spec unit k spans pc by', fun n base slot count => phaseRingApply_spec n base slot count s,
    fun d n sel => execRingq_spec d n sel s, fun d n sel h => phaseRingCount_spec h d n sel, fun a b h => execErchkOn_spec h a b,
    fun h => ⟨_, State.needTimed_timed h _ _, s.issues_phaseIn 0 _ _ _⟩⟩
  · exact s.descAddr_spec (P := fun t => Issues s t _) _ _ _ _ (s.issues_phaseIn 3 _ _ _)
  · rw [show runPhase (.ringSample n a pc) s = _ from phaseRingSample_eq n a pc s]
    refine s.sampled_spec 0 a 16 pc (s.ringSampled n a pc) ?_
    split
    · next hl => exact State.ringSampled_of_legal hl n pc
    · next hl => exact State.ringSampled_of_not_legal hl n pc

end Sys2Proof.Machine
end

section
/-!
PROOF. The allotment of copy engines, and the entry of a joined region or its time-out (06 R409, 18 R402).
-/

namespace Sys2Proof.Machine

/-! ### What reads leave of the contexts -/

/-- The members that every context has noted stand as before. -/
def JoiningKept (s t : State) : Prop := ∀ c, (t.ctx c).joining = (s.ctx c).joining

theorem JoiningKept.refl (s : State) : JoiningKept s s := fun _ => rfl

theorem JoiningKept.trans {s t u : State} (h : JoiningKept s t) (k : JoiningKept t u) : JoiningKept s u :=
  fun c => (k c).trans (h c)

theorem JoiningKept.of_contexts {s t : State} (h : t.contexts = s.contexts) : JoiningKept s t := fun c => by
  rw [State.ctx, h, State.ctx]

theorem State.ctx_setCtx_self (s : State) (c : Nat) (x : Context) : (s.setCtx c x).ctx c = x := SMap.get_put_self _ _ _ _

theorem State.ctx_setCtx_of_ne (s : State) {c d : Nat} (x : Context) (h : d ≠ c) : (s.setCtx c x).ctx d = s.ctx d :=
  SMap.get_put_of_ne _ _ _ h

theorem JoiningKept.setCtx (s : State) {c : Nat} {x : Context} (h : x.joining = (s.ctx c).joining) : JoiningKept s (s.setCtx c x) := by
  intro d
  by_cases hd : d = c
  · rw [hd, State.ctx_setCtx_self, h]
  · rw [State.ctx_setCtx_of_ne _ _ hd]

theorem State.noteTlb_joining (s : State) (g : Agent) (va : Nat) : JoiningKept s (s.noteTlb g va) := by
  unfold State.noteTlb
  split
  · exact .refl s
  · split
    · exact .refl s
    · split
      · exact .refl s
      · exact .setCtx s rfl

theorem State.allocate_contexts (s : State) (pa attr : Nat) : (s.allocate pa attr).contexts = s.contexts := by
  unfold State.allocate State.noteAllocated
  split
  · rfl
  · split <;> rfl

theorem State.useCopy_contexts (s : State) (die line : Nat) : (s.useCopy die line).contexts = s.contexts := by
  unfold State.useCopy
  split
  · split <;> rfl
  · rfl

theorem State.fillCopy_contexts (s : State) (die line : Nat) (n : Option Nat) : (s.fillCopy die line n).contexts = s.contexts := by
  unfold State.fillCopy State.noteAllocated
  dsimp only
  split <;> rfl

theorem State.readLine_contexts (s : State) (g : Agent) (old : Old) (va pa attr m : Nat) :
    (s.readLine g old va pa attr m).2.2.contexts = s.contexts := by
  have h0 : (if s.foreign g.ctx pa then s.logForeign g.ctx pa va else s.allocate pa attr).contexts = s.contexts := by
    split
    · rfl
    · exact s.allocate_contexts pa attr
  unfold State.readLine
  dsimp only
  generalize (if s.foreign g.ctx pa then s.logForeign g.ctx pa va else s.allocate pa attr) = u at h0 ⊢
  split
  · split
    · rw [State.useCopy_contexts, h0]
    · rw [State.fillCopy_contexts, h0]
  · exact h0

theorem serveRead_joining {g : Agent} {k : Access} {old : Old} {n : Nat} {s t : State} {va m : Nat} {b : List Byte} {p : Bool}
    (h : serveRead g k old n s va m = .done b p t) : JoiningKept s t := by
  induction n generalizing s va m b p with
  | zero =>
    cases h
    exact .refl _
  | succ n ih =>
    unfold serveRead at h
    split at h
    · cases h
      exact .refl _
    · split at h
      · dsimp only at h
        split at h
        · next hd =>
          cases h
          exact ((s.noteTlb_joining g va).trans (.of_contexts (State.readLine_contexts _ _ _ _ _ _ _))).trans (ih hd)
        · cases h
      · cases h

theorem State.readVa_joining {s t : State} {va n : Nat} {b : List Byte} {p : Bool} (h : s.readVa va n = .ok (b, p, t)) :
    JoiningKept s t := by
  unfold State.readVa at h
  split at h
  · cases h
  · split at h
    · next hd =>
      cases h
      exact (JoiningKept.of_contexts (by rw [s.countPages_eq va n])).trans (serveRead_joining hd)
    · cases h

theorem State.readEntries_joining {s t : State} {a : Word} {ctab k n : Nat} {l : List CoreEntry} (h : s.readEntries a ctab k n = .ok (l, t)) :
    JoiningKept s t := by
  induction n generalizing s k l with
  | zero =>
    cases h
    exact .refl _
  | succ n ih =>
    obtain ⟨⟨b, p, s1⟩, h1, h⟩ := Except.bind_ok h
    dsimp only at h
    split at h
    · cases h
    · obtain ⟨⟨rest, s2⟩, h2, h⟩ := Except.bind_ok h
      cases h
      exact (State.readVa_joining h1).trans (ih h2)

theorem State.readCores_joining {s t : State} {l : List CoreEntry} {r : List CoreImage} (h : s.readCores l = .ok (r, t)) :
    JoiningKept s t := by
  induction l generalizing s r with
  | nil =>
    cases h
    exact .refl _
  | cons e l ih =>
    obtain ⟨⟨b, p, s1⟩, h1, h⟩ := Except.bind_ok h
    obtain ⟨⟨b2, p2, s2⟩, h2, h⟩ := Except.bind_ok h
    obtain ⟨⟨rest, s3⟩, h3, h⟩ := Except.bind_ok h
    cases h
    exact ((State.readVa_joining h1).trans (State.readVa_joining h2)).trans (ih h3)

theorem State.plan_joining {s t : State} {a : Word} {p : Plan} (h : s.plan a = .ok (p, t)) : JoiningKept s t := by
  unfold State.plan at h
  split at h
  · cases h
  · obtain ⟨⟨b, bad, s2⟩, h1, h⟩ := Except.bind_ok h
    dsimp only at h
    split at h
    · cases h
    · obtain ⟨⟨l, s3⟩, h2, h⟩ := Except.bind_ok h
      obtain ⟨⟨cores, s4⟩, h3, h⟩ := Except.bind_ok h
      have hk := ((State.readVa_joining h1).trans (State.readEntries_joining h2)).trans (State.readCores_joining h3)
      dsimp only at h
      split at h
      · cases h
        exact hk
      · obtain ⟨⟨shape, _, s5⟩, h5, h⟩ := Except.bind_ok h
        cases h
        exact hk.trans (State.readVa_joining h5)

/-! ### The allotment of copy engines (06 R409) -/

/-- The engines that the allotment takes on one of the region's dies. -/
def State.allotDie (s : State) (d : Nat) : State :=
  let p := s.physDie d
  let v := s.die p
  let s1 := s.setDie p { v with ceOwner := ((s.freeEngines p).take (s.allotment p)).foldl (fun m e => SMap.put m e s.cur.task) v.ceOwner }
  s1.setRegion { s1.region with engines := SMap.put s1.region.engines d (s.allotment p) }

theorem execAllotCopyEngines_eq (s : State) : execAllotCopyEngines s =
    if !s.enginesFree s.region.ncores then .next s else .next ((s.diesUsed s.region.ncores).foldl State.allotDie s) := rfl

/-- Engines that are put under a new owner leave those that had one. -/
theorem SMap.get_foldl_put_of_not_mem {α : Type} (d : α) (v : α) {l : List Nat} {i : Nat} (m : SMap α) (h : i ∉ l) :
    SMap.get d (l.foldl (fun m e => SMap.put m e v) m) i = SMap.get d m i := by
  induction l generalizing m with
  | nil => rfl
  | cons e l ih =>
    obtain ⟨he, hl⟩ := not_or.1 (mt List.mem_cons.2 h)
    rw [List.foldl_cons, ih _ hl, SMap.get_put_of_ne _ _ _ he]

theorem SMap.has_put_of_has {α : Type} {m : SMap α} {i j : Nat} (v : α) (h : SMap.has m j = true) : SMap.has (SMap.put m i v) j = true := by
  induction m with
  | nil => cases h
  | cons p m ih =>
    obtain ⟨k, w⟩ := p
    simp only [SMap.has, List.any_cons, Bool.or_eq_true, beq_iff_eq] at h ih ⊢
    simp only [SMap.put]
    split
    · simp only [List.any_cons, Bool.or_eq_true, beq_iff_eq]
      exact .inr h
    · split
      · next hk =>
        simp only [List.any_cons, Bool.or_eq_true, beq_iff_eq]
        exact h.imp_left hk.trans
      · simp only [List.any_cons, Bool.or_eq_true, beq_iff_eq]
        exact h.imp_right ih

theorem SMap.has_foldl_put {α : Type} (v : α) (l : List Nat) {i : Nat} {m : SMap α} (h : SMap.has m i = true) :
    SMap.has (l.foldl (fun m e => SMap.put m e v) m) i = true := by
  induction l generalizing m with
  | nil => exact h
  | cons e l ih => exact ih (SMap.has_put_of_has v h)

theorem State.not_mem_freeEngines {s : State} {p e : Nat} (h : SMap.has (s.die p).ceOwner e = true) : e ∉ s.freeEngines p := by
  simp [State.freeEngines, h]

theorem State.allotDie_frame (s : State) (d : Nat) : SameMemory s (s.allotDie d) ∧ (s.allotDie d).cur = s.cur ∧
    (s.allotDie d).contexts = s.contexts ∧
    (s.allotDie d).task = { s.task with region := { s.region with engines := SMap.put s.region.engines d (s.allotment (s.physDie d)) } } := by
  refine ⟨sameMemory_of rfl rfl fun p => ?_, rfl, rfl, State.setRegion_task _ _⟩
  by_cases hp : p = s.physDie d
  · subst hp
    exact (congrArg Die.remaps (SMap.get_put_self _ _ _ _)).trans rfl
  · exact congrArg Die.remaps (SMap.get_put_of_ne _ _ _ hp)

/-- An engine that a region holds stays with it. -/
theorem State.allotDie_owner {s : State} {p e : Nat} (d : Nat) (h : SMap.has (s.die p).ceOwner e = true) :
    SMap.has ((s.allotDie d).die p).ceOwner e = true ∧
      SMap.get 0 ((s.allotDie d).die p).ceOwner e = SMap.get 0 (s.die p).ceOwner e := by
  by_cases hp : p = s.physDie d
  · subst hp
    have hdie : ((s.allotDie d).die (s.physDie d)).ceOwner = ((s.freeEngines (s.physDie d)).take (s.allotment (s.physDie d))).foldl
        (fun m e => SMap.put m e s.cur.task) (s.die (s.physDie d)).ceOwner :=
      congrArg Die.ceOwner (SMap.get_put_self _ _ _ _)
    rw [hdie]
    exact ⟨SMap.has_foldl_put _ _ h,
      SMap.get_foldl_put_of_not_mem _ _ _ fun hm => State.not_mem_freeEngines h (List.mem_of_mem_take hm)⟩
  · have hdie : (s.allotDie d).die p = s.die p := SMap.get_put_of_ne _ _ _ hp
    rw [hdie]
    exact ⟨h, rfl⟩

/-- The number of engines on a die depends on the task's placement and its context. -/
theorem State.allotment_congr {s t : State} (hd : t.task.dies = s.task.dies) (hx : t.task.ctx = s.task.ctx) (hc : t.contexts = s.contexts)
    (d : Nat) : t.allotment (t.physDie d) = s.allotment (s.physDie d) := by
  rw [State.allotment, State.physDie, hd, hx, State.ctx, hc]
  rfl

/-- What the allotment over several dies leaves, and what it gives. -/
theorem foldl_allotDie_spec (l : List Nat) (s : State) :
    let t := l.foldl State.allotDie s
    SameMemory s t ∧ t.task.cores = s.task.cores ∧
    (∀ d, SMap.get 0 t.region.engines d = if d ∈ l then s.allotment (s.physDie d) else SMap.get 0 s.region.engines d) ∧
    (∀ d e, SMap.has (s.die d).ceOwner e = true → SMap.get 0 (t.die d).ceOwner e = SMap.get 0 (s.die d).ceOwner e) := by
  induction l generalizing s with
  | nil => exact ⟨.refl s, rfl, fun d => by simp, fun _ _ _ => rfl⟩
  | cons a l ih =>
    obtain ⟨hm, -, hc, ht⟩ := s.allotDie_frame a
    obtain ⟨im, icores, ieng, iown⟩ := ih (s.allotDie a)
    have hcores : (s.allotDie a).task.cores = s.task.cores := by rw [ht]
    have halloc : ∀ d, (s.allotDie a).allotment ((s.allotDie a).physDie d) = s.allotment (s.physDie d) :=
      State.allotment_congr (by rw [ht]) (by rw [ht]) hc
    have hreg : (s.allotDie a).region.engines = SMap.put s.region.engines a (s.allotment (s.physDie a)) :=
      congrArg (fun u : Task => u.region.engines) ht
    refine ⟨hm.trans im, icores.trans hcores, fun d => ?_, fun d e h => ?_⟩
    · rw [List.foldl_cons, ieng, halloc, hreg]
      by_cases hl : d ∈ l
      · rw [if_pos hl, if_pos (List.mem_cons_of_mem _ hl)]
      · rw [if_neg hl]
        by_cases hd : d = a
        · rw [hd, SMap.get_put_self, if_pos List.mem_cons_self]
        · rw [SMap.get_put_of_ne _ _ _ hd, if_neg (by simp [hd, hl])]
    · obtain ⟨h1, h2⟩ := State.allotDie_owner a h
      exact (iown d e h1).trans h2

/-- ALLOT_COPY_ENGINES where the engines are free (06 R409). -/
theorem execAllotCopyEngines_spec {s : State} (h : s.enginesFree s.region.ncores = true) :
    ∃ t, execAllotCopyEngines s = .next t ∧ SameMemory s t ∧ t.task.cores = s.task.cores ∧
      (∀ d ∈ s.diesUsed s.region.ncores, SMap.get 0 t.region.engines d = s.allotment (s.physDie d)) ∧
      (∀ d e, SMap.has (s.die d).ceOwner e = true → SMap.get 0 (t.die d).ceOwner e = SMap.get 0 (s.die d).ceOwner e) := by
  obtain ⟨hm, hcores, heng, hown⟩ := foldl_allotDie_spec (s.diesUsed s.region.ncores) s
  refine ⟨_, by rw [execAllotCopyEngines_eq, h]; rfl, hm, hcores, fun d hd => ?_, hown⟩
  rw [heng, if_pos hd]

/-! ### The joined entry (18 R402) -/

/-- The greatest of a start value and the values of a list. -/
theorem foldl_max_spec {α : Type} (f : α → Nat) (l : List α) (n : Nat) :
    let e := l.foldl (fun e p => max e (f p)) n
    n ≤ e ∧ (∀ q ∈ l, f q ≤ e) ∧ (e = n ∨ ∃ q ∈ l, e = f q) := by
  induction l generalizing n with
  | nil => exact ⟨le_rfl, nofun, .inl rfl⟩
  | cons a l ih =>
    obtain ⟨h1, h2, h3⟩ := ih (max n (f a))
    refine ⟨(le_max_left _ _).trans h1, fun q hq => ?_, ?_⟩
    · obtain rfl | hq := List.mem_cons.1 hq
      · exact (le_max_right _ _).trans h1
      · exact h2 q hq
    · obtain h | ⟨q, hq, h⟩ := h3
      · obtain hm | hm := max_choice n (f a)
        · exact .inl (h.trans hm)
        · exact .inr ⟨a, List.mem_cons_self, h.trans hm⟩
      · exact .inr ⟨q, List.mem_cons_of_mem _ hq, h⟩

theorem foldl_add_eq_sum {α : Type} (f : α → Nat) (l : List α) : l.foldl (fun n p => n + f p) 0 = (l.map f).sum := by
  rw [List.sum_eq_foldl, List.foldl_map]

/-- A trap of loose code keeps the focus. -/
theorem State.takeTrap_cur (s : State) (cause sub : Nat) (tval : Word) : (s.takeTrap cause sub tval).cur = s.cur := by
  have hu : (if cause = 0x0C then s.logPoison sub tval else s).cur = s.cur := by
    split
    · exact (s.logPoison_spec sub tval).2.1
    · rfl
  unfold State.takeTrap State.takeTrapAt
  dsimp only
  generalize (if cause = 0x0C then s.logPoison sub tval else s) = u at hu ⊢
  split <;> exact hu

/-- A trap of a task without a region is one of loose code. -/
theorem State.takeTrap_spec {s : State} (h : s.timed = false) (cause sub : Nat) (tval : Word) :
    Traps s (s.takeTrap cause sub tval) cause sub tval := by
  have hr := s.raise_spec cause sub tval
  rwa [State.raise, if_neg (by simp [h])] at hr

theorem State.releaseAll_timed (s : State) : s.releaseAll.timed = s.timed := rfl

theorem State.setRegion_none_timed (s : State) : ((s.setRegion {}).releaseAll).timed = false := by
  rw [State.releaseAll_timed, State.timed, State.setRegion_region]

/-- The focus on the first core of a task, its context having no member left to wait for. -/
def State.joinFocus (s : State) : State := (s.at' 0).setCtx s.task.ctx { s.ctx s.task.ctx with joining := [] }

theorem State.joinFocus_joining (s : State) : (s.joinFocus.ctx s.task.ctx).joining = [] := by
  rw [State.joinFocus, State.ctx_setCtx_self]

/-- The entry tick of a joined region (18 R402). -/
def State.joinEntryTick (s : State) (joining : SMap JoinSize) : Nat := joining.foldl (fun e p => max e p.2.proposal) s.region.entry

/-- The greatest dpl among the dies of another member (05 R172, 18 R402). -/
def Join.othersDpl (j : Join) (joining : SMap JoinSize) : Nat :=
  joining.foldl (fun n p => if p.1 = j.self then n else max n p.2.dpl) 0

/-- The state whose region has been loaded with the joined entry tick. -/
def State.joinLoaded (s : State) (p : Plan) (s2 : State) (j : Join) (joining : SMap JoinSize) : State :=
  (s2.count 1 1).enterRegion p s.region.dest s.region.desc (s.joinEntryTick joining) (j.othersDpl joining)

/-- The loaded region with what the members make of it. -/
def State.joinRegion (s : State) (p : Plan) (s2 : State) (j : Join) (joining : SMap JoinSize) : Region :=
  { (s.joinLoaded p s2 j joining).region with base := j.bases.getD j.self 0, total := joining.foldl (fun n p => n + p.2.cores) 0 }

theorem State.enterJoined_ok {s s2 : State} {p : Plan} (j : Join) (joining : SMap JoinSize) (again : Instr)
    (h : s.joinFocus.plan (BitVec.ofNat 64 s.region.desc) = .ok (p, s2)) :
    s.enterJoined j joining again = (s.joinLoaded p s2 j joining).setRegion (s.joinRegion p s2 j joining) := by
  unfold State.enterJoined
  dsimp only
  rw [show (s.at' 0).setCtx s.task.ctx { s.ctx s.task.ctx with joining := [] } = s.joinFocus from rfl, h]
  rfl

theorem State.enterJoined_trap {s : State} {e : Trapped} {c : Core} (j : Join) (joining : SMap JoinSize) (again : Instr)
    (h : s.joinFocus.plan (BitVec.ofNat 64 s.region.desc) = .error (.trap e c)) :
    s.enterJoined j joining again = ((s.joinFocus.setCore c).setRegion {}).releaseAll.takeTrap e.cause e.sub e.tval := by
  unfold State.enterJoined
  dsimp only
  rw [show (s.at' 0).setCtx s.task.ctx { s.ctx s.task.ctx with joining := [] } = s.joinFocus from rfl, h]

theorem State.enterJoined_wait {s : State} (j : Join) (joining : SMap JoinSize) (again : Instr)
    (h : s.joinFocus.plan (BitVec.ofNat 64 s.region.desc) = .error .wait) :
    s.enterJoined j joining again = { s with inbox := s.inbox ++ [(s.later, again)], fresh := s.fresh + 1 } := by
  unfold State.enterJoined
  dsimp only
  rw [show (s.at' 0).setCtx s.task.ctx { s.ctx s.task.ctx with joining := [] } = s.joinFocus from rfl, h]

theorem State.sameMemory_setRegion (s : State) (r : Region) : SameMemory s (s.setRegion r) := fun _ _ _ => rfl

theorem State.setRegion_focus (s : State) (r : Region) : (s.setRegion r).cur = s.cur := rfl

/-- The loading of a region changes the task in focus and the counter of free values, and it turns the focus to core 0. -/
theorem State.enterRegion_eq (s : State) (p : Plan) (d : Reg) (addr e others : Nat) :
    ∃ t n, s.enterRegion p d addr e others = { (s.at' 0).setTask t with fresh := n } :=
  ⟨_, _, by rw [State.enterRegion, State.wx, State.setCore, State.setTask_setTask]⟩

theorem State.enterRegion_contexts (s : State) (p : Plan) (d : Reg) (addr e others : Nat) :
    (s.enterRegion p d addr e others).contexts = s.contexts := by
  obtain ⟨t, n, h⟩ := s.enterRegion_eq p d addr e others
  rw [h]
  rfl

theorem State.enterRegion_cur (s : State) (p : Plan) (d : Reg) (addr e others : Nat) :
    (s.enterRegion p d addr e others).cur = { s.cur with core := 0 } := by
  obtain ⟨t, n, h⟩ := s.enterRegion_eq p d addr e others
  rw [h]
  rfl

theorem State.count_contexts (s : State) (ev n : Nat) : (s.count ev n).contexts = s.contexts := by rw [s.count_eq]

section
variable {s s2 : State} {p : Plan} {j : Join} {joining : SMap JoinSize} {again : Instr}
variable (h : s.joinFocus.plan (BitVec.ofNat 64 s.region.desc) = .ok (p, s2))
include h

/-- Memory and the context after a joined entry. -/
theorem State.enterJoined_frame : SameMemory s (s.enterJoined j joining again) ∧
    ((s.enterJoined j joining again).ctx s.task.ctx).joining = [] ∧ (s.enterJoined j joining again).cur.task = s.cur.task := by
  obtain ⟨⟨hm, hcur, -⟩, -⟩ := State.plan_ok h
  obtain ⟨cm, cc, -⟩ := s2.count_spec 1 1
  rw [State.enterJoined_ok j joining again h]
  refine ⟨?_, ?_, ?_⟩
  · have hfocus : SameMemory s s.joinFocus := fun _ _ _ => rfl
    have hl : SameMemory (s2.count 1 1) (s.joinLoaded p s2 j joining) := State.enterRegion_sameMemory _ _ _ _ _ _
    exact ((hfocus.trans hm).trans (cm.trans hl)).trans (State.sameMemory_setRegion _ _)
  · have hk : JoiningKept s2 ((s.joinLoaded p s2 j joining).setRegion (s.joinRegion p s2 j joining)) :=
      .of_contexts (by rw [State.setRegion_contexts, State.joinLoaded, State.enterRegion_contexts, State.count_contexts])
    rw [hk, State.plan_joining h, State.joinFocus_joining]
  · rw [State.setRegion_focus, State.joinLoaded, State.enterRegion_cur, cc, hcur]
    rfl

/-- The region that a joined entry loads. -/
theorem State.enterJoined_region : (s.enterJoined j joining again).region = s.joinRegion p s2 j joining := by
  rw [State.enterJoined_ok j joining again h, State.setRegion_region]

/-- The cores that a joined entry loads. -/
theorem State.enterJoined_cores :
    (s.enterJoined j joining again).task.cores = (s2.count 1 1).enteredCores p s.region.dest (s.joinEntryTick joining) := by
  rw [State.enterJoined_ok j joining again h, State.setRegion_task]
  exact State.enterRegion_cores _ _ _ _ _ _

end

theorem State.joinRegion_spec (s : State) (p : Plan) (s2 : State) (j : Join) (joining : SMap JoinSize) :
    let r := s.joinRegion p s2 j joining
    r.entering = true ∧ r.joinSince = none ∧ r.entry = s.joinEntryTick joining ∧ r.total = (joining.map fun q => q.2.cores).sum ∧
      r.base = j.bases.getD j.self 0 := by
  have hl : (s.joinLoaded p s2 j joining).region = _ := State.enterRegion_region _ _ _ _ _ _
  refine ⟨?_, ?_, ?_, foldl_add_eq_sum (fun q : Nat × JoinSize => q.2.cores) joining, rfl⟩ <;>
    (unfold State.joinRegion; rw [hl]; rfl)

theorem WalksOnly.counted {s t : State} (h : WalksOnly s t) : Counted s (s.setCore t.core) [0x0B, 0x0C] := by
  have hcore := h.core
  obtain ⟨-, -, -, -, hn⟩ := h
  refine ⟨s.onlyCore_setCore _, s.sameMemory_setCore _, ?_, fun i hi => ?_⟩ <;> rw [State.setCore_core]
  · exact hcore
  · exact hn i hi

/-- The proposals of a context's members with one more noted, or taken back (18 R402). -/
def State.joiningWith (s : State) (who : JoinWho) (what : JoinSize) : SMap JoinSize :=
  if what.proposal = 0 then SMap.del (s.ctx who.ctx).joining who.member else SMap.put (s.ctx who.ctx).joining who.member what

/-- The state that has noted a member's proposal. -/
def State.joinNoted (s : State) (who : JoinWho) (what : JoinSize) : State :=
  s.setCtx who.ctx { s.ctx who.ctx with joining := s.joiningWith who what }

/-- The state that has noted it, with the focus on the task that waits. -/
def State.joinTurn (s : State) (who : JoinWho) (what : JoinSize) (i : Nat) : State := { s.joinNoted who what with cur := { task := i } }

/-- A member's notice where a member is missing, or none waits here (18 R402). -/
theorem execJoinEntry_noted {who : JoinWho} {what : JoinSize} {s : State}
    (h : (s.ctx who.ctx).join = none ∨ (s.joinNoted who what).joiner who.ctx = none ∨
      ∃ j, (s.ctx who.ctx).join = some j ∧ ∃ k < j.bases.length, SMap.has (s.joiningWith who what) k = false) :
    execJoinEntry who what s = .next (s.joinNoted who what) := by
  refine congrArg Host.Outcome.next ?_
  split
  · next j i hj hi =>
    obtain h | h | ⟨j', hj', k, hk, hm⟩ := h
    · exact nomatch h.symm.trans hj
    · exact nomatch h.symm.trans hi
    · obtain rfl : j' = j := Option.some.inj (hj'.symm.trans hj)
      refine if_neg fun hall => ?_
      have := List.all_eq_true.1 hall k (List.mem_range.2 hk)
      exact absurd (this.symm.trans hm) (by decide)
  · rfl

/-- The last member's notice (18 R402). -/
theorem execJoinEntry_last {who : JoinWho} {what : JoinSize} {s : State} {j : Join} {i : Nat} (hj : (s.ctx who.ctx).join = some j)
    (hi : (s.joinNoted who what).joiner who.ctx = some i) (hall : ∀ k < j.bases.length, SMap.has (s.joiningWith who what) k = true) :
    execJoinEntry who what s =
      .next { (s.joinTurn who what i).enterJoined j (s.joiningWith who what) (.joinEntry who what) with cur := s.cur } := by
  refine congrArg Host.Outcome.next ?_
  split
  · next j' i' hj' hi' =>
    obtain rfl : j = j' := Option.some.inj (hj.symm.trans hj')
    obtain rfl : i = i' := Option.some.inj (hi.symm.trans hi')
    exact if_pos (List.all_eq_true.2 fun k hk => hall k (List.mem_range.1 hk))
  · next hn => exact (hn j i hj hi).elim

/-- With the focus on the task that waits, the context is the one whose member has given notice. -/
theorem State.joinFocus_joinTurn {s : State} {who : JoinWho} {i : Nat} (what : JoinSize) (h : (s.taskAt i).ctx = who.ctx) :
    (s.joinTurn who what i).joinFocus = ({ s.joinNoted who what with cur := { task := i } } : State).setCtx who.ctx
      { (s.joinNoted who what).ctx who.ctx with joining := [] } := by
  have hx : (s.joinTurn who what i).task.ctx = who.ctx := h
  rw [State.joinFocus, hx]
  rfl

section
variable {s : State} {who : JoinWho} {what : JoinSize} {j : Join} {i : Nat} (hj : (s.ctx who.ctx).join = some j)
variable (hi : (s.joinNoted who what).joiner who.ctx = some i) (hall : ∀ k < j.bases.length, SMap.has (s.joiningWith who what) k = true)
include hj hi hall

theorem execJoinEntry_loads (hx : (s.taskAt i).ctx = who.ctx) {p : Plan} {s2 : State}
    (h : (s.joinTurn who what i).joinFocus.plan (BitVec.ofNat 64 (s.taskAt i).region.desc) = .ok (p, s2)) :
    ∃ t, execJoinEntry who what s = .next t ∧ SameMemory s t ∧ t.cur = s.cur ∧ (t.ctx who.ctx).joining = [] ∧
      (t.taskAt i).region = (s.joinTurn who what i).joinRegion p s2 j (s.joiningWith who what) ∧
      (t.taskAt i).cores = (s2.count 1 1).enteredCores p (s.taskAt i).region.dest
        ((s.joinTurn who what i).joinEntryTick (s.joiningWith who what)) := by
  obtain ⟨hm, hc, ht⟩ := State.enterJoined_frame (j := j) (joining := s.joiningWith who what) (again := .joinEntry who what) h
  have hr := State.enterJoined_region (j := j) (joining := s.joiningWith who what) (again := .joinEntry who what) h
  have hk := State.enterJoined_cores (j := j) (joining := s.joiningWith who what) (again := .joinEntry who what) h
  have hx' : (s.joinTurn who what i).task.ctx = who.ctx := hx
  rw [hx'] at hc
  have hnoted : SameMemory s (s.joinTurn who what i) := fun _ _ _ => rfl
  rw [execJoinEntry_last hj hi hall]
  generalize (s.joinTurn who what i).enterJoined j (s.joiningWith who what) (.joinEntry who what) = t at hm hc ht hr hk ⊢
  have hfocus : t.task = t.taskAt i := by
    rw [State.task, ht]
    rfl
  refine ⟨_, rfl, hnoted.trans fun view pa hv => hm view pa hv, rfl, hc, ?_, ?_⟩
  · rw [← hr, State.region, hfocus]
    rfl
  · rw [hfocus] at hk
    exact hk

theorem execJoinEntry_traps {e : Trapped} {c : Core}
    (h : (s.joinTurn who what i).joinFocus.plan (BitVec.ofNat 64 (s.taskAt i).region.desc) = .error (.trap e c)) :
    ∃ t f1, execJoinEntry who what s = .next t ∧ Counted (s.joinTurn who what i).joinFocus f1 [0x0B, 0x0C] ∧ t.cur = s.cur ∧
      Traps ((f1.setRegion {}).releaseAll) { t with cur := (s.joinTurn who what i).joinFocus.cur } e.cause e.sub e.tval := by
  obtain ⟨t, hw, rfl⟩ := State.plan_trap h
  rw [execJoinEntry_last hj hi hall, State.enterJoined_trap _ _ _ h]
  refine ⟨_, _, rfl, hw.counted, rfl, ?_⟩
  have ht := State.takeTrap_spec ((s.joinTurn who what i).joinFocus.setCore t.core).setRegion_none_timed e.cause e.sub e.tval
  have hc := State.takeTrap_cur ((((s.joinTurn who what i).joinFocus.setCore t.core).setRegion {}).releaseAll) e.cause e.sub e.tval
  generalize ((((s.joinTurn who what i).joinFocus.setCore t.core).setRegion {}).releaseAll).takeTrap e.cause e.sub e.tval = v at ht hc ⊢
  have hv : ({ v with cur := (s.joinTurn who what i).joinFocus.cur } : State) = v := by
    rw [show (s.joinTurn who what i).joinFocus.cur = v.cur from hc.symm]
  exact hv ▸ ht

theorem execJoinEntry_waits
    (h : (s.joinTurn who what i).joinFocus.plan (BitVec.ofNat 64 (s.taskAt i).region.desc) = .error .wait) :
    ∃ n, s.ptc < n ∧ execJoinEntry who what s =
      .next { s.joinNoted who what with inbox := s.inbox ++ [(n, .joinEntry who what)], fresh := s.fresh + 1 } := by
  refine ⟨s.later, s.lt_later, ?_⟩
  rw [execJoinEntry_last hj hi hall, State.enterJoined_wait _ _ _ h]
  rfl

end

/-! ### A member that does not come (18 R402) -/

theorem execJoinEntryTimeout_spec {s : State} (k : Nat) (he : s.region.entering = true) (hs : s.region.joinSince.isSome = true) :
    ∃ t, execJoinEntryTimeout k s = .next t ∧ Traps ((s.joinFocus.setRegion {}).releaseAll) t 6 6 (BitVec.ofNat 64 k) := by
  refine ⟨_, if_neg (by simp [he, Option.isSome_iff_ne_none.1 hs]), ?_⟩
  exact State.takeTrap_spec s.joinFocus.setRegion_none_timed _ _ _

theorem State.joinMissing_eq_none {s : State} (h : ∀ p ∈ (s.ctx s.task.ctx).joining, s.ptc < p.2.issued + s.slidemax) :
    s.joinMissing = none := by
  unfold State.joinMissing
  dsimp only
  split
  · rfl
  · exact if_neg fun ha => by
      obtain ⟨p, hp, hle⟩ := List.any_eq_true.1 ha
      exact absurd (of_decide_eq_true hle) (Nat.not_le.2 (h p hp))

theorem State.joinMissing_eq_some {s : State} {j : Join} {k : Nat} (hj : (s.ctx s.task.ctx).join = some j) (h : s.joinMissing = some k) :
    ∃ m < j.bases.length, k = j.bases.getD m 0 ∧ SMap.has (s.ctx s.task.ctx).joining m = false := by
  unfold State.joinMissing at h
  dsimp only at h
  split at h
  · cases h
  · next j' hj' =>
    obtain rfl : j = j' := Option.some.inj (hj.symm.trans hj')
    split at h
    · obtain ⟨m, hm, hk⟩ := Option.map_eq_some_iff.1 h
      exact ⟨m, List.mem_range.1 (List.mem_of_find?_eq_some hm), hk.symm, by simpa using List.find?_some hm⟩
    · cases h

/-- Settles O21: the allotment die by die; a member's notice, the last of which loads the region, traps or waits; and the time-out. -/
theorem joinedEntry : Obligations.JoinedEntry := by
  intro s
  refine ⟨fun h => execAllotCopyEngines_spec h, fun h => ?_, fun who what => ⟨fun h => execJoinEntry_noted h, fun j i hj hi hall hx => ?_⟩,
    fun k he hs => execJoinEntryTimeout_spec k he hs, fun j hj => ⟨State.joinMissing_eq_none, fun k h => State.joinMissing_eq_some hj h⟩⟩
  · rw [exec_allotCopyEngines, execAllotCopyEngines_eq, h]
    rfl
  · have hf := State.joinFocus_joinTurn (s := s) what hx
    refine ⟨fun p s2 h => ?_, fun e c h => ?_, fun h => ?_⟩
    · obtain ⟨t, ht, hm, hc, hn, hr, hk⟩ := execJoinEntry_loads hj hi hall hx (hf ▸ h)
      obtain ⟨h1, h2, h3, h4, h5⟩ := (s.joinTurn who what i).joinRegion_spec p s2 j (s.joiningWith who what)
      obtain ⟨e1, e2, e3⟩ := foldl_max_spec (fun q : Nat × JoinSize => q.2.proposal) (s.joiningWith who what) (s.taskAt i).region.entry
      refine ⟨t, ht, hm, hc, hn, ?_⟩
      rw [hr, hk]
      dsimp only
      rw [h3]
      refine ⟨h1, h2, e1, e2, e3, h4, h5, fun hd => ?_, fun k q hq => State.enteredCores_loaded _ _ _ hq⟩
      rw [State.enteredCores_lead, Core.rx_wx, if_pos ⟨rfl, hd⟩]
    · obtain ⟨t, f1, ht⟩ := execJoinEntry_traps hj hi hall (hf ▸ h)
      rw [hf] at ht
      exact ⟨t, f1, ht⟩
    · exact execJoinEntry_waits hj hi hall (hf ▸ h)

end Sys2Proof.Machine
end

section
/-!
PROOF. What a write of an engine leaves in memory (06 R207, 08 R253, R264, 12 R322, R332): the bytes of its view, and no others.
-/

namespace Sys2Proof.Machine

/-! ### Bytes listed in a map -/

theorem get_putBytes_of_le (m : SMap Byte) (a : Nat) (l : List Byte) (x : Nat) (h : a + l.length ≤ x) :
    SMap.get 0 (putBytes m a l) x = SMap.get 0 m x := by
  induction l generalizing m a with
  | nil => rfl
  | cons b l ih =>
    rw [List.length_cons] at h
    rw [putBytes, ih _ _ (by omega), SMap.get_set, if_neg (by omega)]

/-- Every byte of a map after a run of bytes has been listed. -/
theorem get_putBytes_eq (m : SMap Byte) (a : Nat) (l : List Byte) (x : Nat) :
    SMap.get 0 (putBytes m a l) x = if a ≤ x ∧ x < a + l.length then l.getD (x - a) 0 else SMap.get 0 m x := by
  split
  · next h =>
    obtain ⟨i, rfl⟩ := Nat.exists_eq_add_of_le h.1
    have hi : i < l.length := by omega
    rw [get_putBytes m a l i hi, Nat.add_sub_cancel_left, List.getD_eq_getElem _ _ hi]
  · next h =>
    by_cases hx : x < a
    · exact get_putBytes_of_lt m a l x hx
    · exact get_putBytes_of_le m a l x (by omega)

/-! ### Bytes of physical memory -/

theorem State.storage_mod (s : State) (pa : Nat) : s.storage pa % 0x10000 = pa % 0x10000 := by
  unfold State.storage
  split
  · omega
  · rfl

theorem State.mirror_mod {s : State} {pa m : Nat} (h : s.mirror pa = some m) : m % 0x10000 = pa % 0x10000 := by
  unfold State.mirror at h
  split at h
  · split at h
    · cases h
      omega
    · cases h
  · cases h

theorem State.mirror_congr {s t : State} (h : t.dies = s.dies) (pa : Nat) : t.mirror pa = s.mirror pa := by
  simp only [State.mirror, State.remap, State.die, h]

theorem State.writePa_versions (s : State) (pa : Nat) (b : Byte) : (s.writePa pa b).versions = s.versions := by
  unfold State.writePa
  split <;> rfl

theorem State.writePas_versions (s : State) (pa : Nat) (l : List Byte) : (s.writePas pa l).versions = s.versions := by
  induction l generalizing s pa with
  | nil => rfl
  | cons b l ih => rw [State.writePas, ih, State.writePa_versions]

theorem State.writePas_dies (s : State) (pa : Nat) (l : List Byte) : (s.writePas pa l).dies = s.dies := by
  induction l generalizing s pa with
  | nil => rfl
  | cons b l ih => rw [State.writePas, ih, State.writePa_dies]

/-- A byte at another storage address than those that a write reaches reads as before (11 R315). -/
theorem State.readPa_writePas_of_storage_ne (s : State) {pa x : Nat} (l : List Byte)
    (h : ∀ i < l.length, s.storage x ≠ s.storage (pa + i) ∧ s.mirror (pa + i) ≠ some (s.storage x)) :
    (s.writePas pa l).readPa x = s.readPa x := by
  induction l generalizing s pa with
  | nil => rfl
  | cons b l ih =>
    rw [State.writePas, ih]
    · obtain ⟨h1, h2⟩ := h 0 (Nat.succ_pos _)
      exact s.readPa_writePa_of_ne pa x b h1 h2
    · intro i hi
      rw [State.writePa_storage, State.writePa_storage, State.mirror_congr (s.writePa_dies pa b), Nat.add_right_comm, Nat.add_assoc]
      exact h (i + 1) (Nat.succ_lt_succ hi)

/-- The bytes that a write within a line has written read back. -/
theorem State.readPa_writePas_line (s : State) {pa i : Nat} (l : List Byte) (hl : pa % 128 + l.length ≤ 128) (hi : i < l.length) :
    (s.writePas pa l).readPa (pa + i) = l[i] := by
  induction l generalizing s pa i with
  | nil => cases hi
  | cons b l ih =>
    rw [List.length_cons] at hl hi
    rw [State.writePas]
    cases i with
    | zero =>
      refine (State.readPa_writePas_of_storage_ne _ l fun k hk => ?_).trans (s.readPa_writePa_self pa b)
      have hx := (s.writePa pa b).storage_mod pa
      have hy := (s.writePa pa b).storage_mod (pa + 1 + k)
      refine ⟨fun he => ?_, fun he => ?_⟩
      · rw [Nat.add_zero] at he
        omega
      · have hm := State.mirror_mod he
        rw [Nat.add_zero] at hm
        omega
    | succ i =>
      cases l with
      | nil => simp at hi
      | cons c l =>
        rw [List.length_cons] at hl
        rw [List.getElem_cons_succ, show pa + (i + 1) = pa + 1 + i by omega]
        exact ih _ (by rw [List.length_cons]; omega) (Nat.lt_of_succ_lt_succ hi)

/-! ### Versions of lines (12 R318, R322, R332) -/

theorem State.version_putVersion_self (s : State) (v : Version) : (s.putVersion v).version v.line v.view v.level = some v := by
  simp [State.version, State.putVersion]

/-- A version that goes does not change another place's. -/
theorem find?_filter_of_imp {α : Type} {p q : α → Bool} (l : List α) (h : ∀ x, q x = true → p x = true) :
    (l.filter p).find? q = l.find? q := by
  rw [List.find?_filter]
  congr 1
  funext x
  cases hq : q x with
  | false => simp
  | true => simp [h x hq]

theorem State.version_putVersion_of_ne (s : State) {v : Version} {line view level : Nat}
    (h : line ≠ v.line ∨ view ≠ v.view ∨ level ≠ v.level) :
    (s.putVersion v).version line view level = s.version line view level := by
  have hne : ¬ (v.line = line ∧ v.view = view ∧ v.level = level) := by
    rintro ⟨rfl, rfl, rfl⟩
    exact h.elim (· rfl) (·.elim (· rfl) (· rfl))
  unfold State.version State.putVersion
  rw [List.find?_cons_of_neg (by simpa [and_assoc] using hne)]
  refine find?_filter_of_imp _ fun w hw => ?_
  simp only [Bool.and_eq_true, beq_iff_eq, and_assoc] at hw
  obtain ⟨rfl, rfl, rfl⟩ := hw
  rw [Bool.not_eq_true', ← Bool.not_eq_true]
  simp only [Bool.and_eq_true, beq_iff_eq, and_assoc]
  rintro ⟨h1, h2, h3⟩
  exact hne ⟨h1.symm, h2.symm, h3.symm⟩

theorem State.cover_pos {s : State} {line tv c k depth : Nat} (h : s.cover line tv = some (c, k, depth)) : 0 < depth := by
  obtain ⟨x, -, hx⟩ := List.exists_of_findSome?_eq_some h
  obtain ⟨⟨n, r⟩, -, hy⟩ := List.exists_of_findSome?_eq_some hx
  dsimp only at hy
  split at hy
  · next hc =>
    simp only [Bool.and_eq_true, decide_eq_true_eq] at hc
    cases hy
    exact hc.1.1
  · cases hy

/-- A shadow stands at a level above the line's own. -/
theorem State.shadowFor_level {s : State} {line tv c k : Nat} {v : Version} (h : s.shadowFor line tv = some (c, k, v)) : v.level ≠ 0 := by
  unfold State.shadowFor at h
  split at h
  · cases h
  · next c' k' level hc =>
    have hpos := State.cover_pos hc
    split at h
    · cases h
    · split at h <;> (cases h; exact hpos.ne')

theorem State.saveSystem_version (s : State) (line : Nat) {l view : Nat} (h : view ≠ systemView) :
    (s.saveSystem line).version l view 0 = s.version l view 0 := by
  unfold State.saveSystem
  split
  · split
    · exact s.version_putVersion_of_ne (.inr (.inl h))
    · refine find?_filter_of_imp _ fun w hw => ?_
      simp only [Bool.and_eq_true, beq_iff_eq] at hw
      obtain ⟨⟨-, rfl⟩, -⟩ := hw
      simpa using h
  · rfl

/-- Saving shadows leaves the lines that views read (12 R322). -/
theorem State.saveShadows_version (s : State) (line tv : Nat) {l view : Nat} (h : tv ≠ 0 ∨ view ≠ systemView) :
    (s.saveShadows line tv).version l view 0 = s.version l view 0 := by
  have h0 : (if tv = 0 then s.saveSystem line else s).version l view 0 = s.version l view 0 := by
    split
    · next htv => exact s.saveSystem_version line (h.resolve_left (not_not.2 htv))
    · rfl
  unfold State.saveShadows
  dsimp only
  generalize (if tv = 0 then s.saveSystem line else s) = u at h0 ⊢
  rw [← h0]
  split
  · rfl
  · next c k v hs =>
    have hv := u.version_putVersion_of_ne (v := v) (line := l) (view := view) (level := 0) (.inr (.inr (State.shadowFor_level hs).symm))
    split
    · exact hv
    · exact hv

theorem State.makePrivate_version_of_ne (s : State) (owner : Nat) {line tv l view : Nat} (h : l ≠ line ∨ view ≠ tv) :
    (s.makePrivate owner line tv).version l view 0 = s.version l view 0 := by
  unfold State.makePrivate
  split
  · exact s.version_putVersion_of_ne (h.imp_right .inl)
  · rfl

theorem State.makePrivate_zero (s : State) (owner line : Nat) : s.makePrivate owner line 0 = s := by
  rw [State.makePrivate, if_neg (by simp)]

theorem State.get_lineBytes (s : State) (line : Nat) {o : Nat} (h : o < 128) : SMap.get 0 (s.lineBytes line) o = s.readPa (line * 128 + o) := by
  have hlen := s.length_readPas (line * 128) 128
  have hg := get_putBytes [] 0 (s.readPas (line * 128) 128) o (by rwa [hlen])
  rw [Nat.zero_add] at hg
  rw [State.lineBytes, hg]
  have := s.getElem?_readPas (line * 128) h
  rwa [List.getElem?_eq_getElem (by rwa [hlen]), Option.some_inj] at this

/-- A view has a line of its own once it has been made, which reads as the view did (12 R332). -/
theorem State.makePrivate_reads (s : State) (owner line : Nat) {tv : Nat} (h : tv ≠ 0) :
    ∃ v, (s.makePrivate owner line tv).version line tv 0 = some v ∧ v.line = line ∧ v.view = tv ∧ v.level = 0 ∧
      ∀ o < 128, SMap.get 0 (v.content.getD []) o = s.readView tv (line * 128 + o) := by
  have hline : ∀ o < 128, (line * 128 + o) / 128 = line ∧ (line * 128 + o) % 128 = o := fun o ho => by omega
  unfold State.makePrivate
  cases hv : s.version line tv 0 with
  | none =>
    rw [if_pos (by simp [h])]
    refine ⟨_, s.version_putVersion_self _, rfl, rfl, rfl, fun o ho => ?_⟩
    rw [State.readView, if_neg h, (hline o ho).1, hv]
    exact s.get_lineBytes line ho
  | some v =>
    rw [if_neg (by simp)]
    have hk := List.find?_some hv
    simp only [Bool.and_eq_true, beq_iff_eq] at hk
    refine ⟨v, hv, hk.1.1, hk.1.2, hk.2, fun o ho => ?_⟩
    rw [State.readView, if_neg h, (hline o ho).1, hv, (hline o ho).2]

/-! ### A write of bytes of one line at its home (08 R253, 12 R322) -/

theorem State.readView_of_version {s t : State} {view pa : Nat} (hv : t.version (pa / 128) view 0 = s.version (pa / 128) view 0)
    (hp : t.readPa pa = s.readPa pa) : t.readView view pa = s.readView view pa := by
  simp only [State.readView, hv, hp]

theorem State.readPa_congr {s t : State} (hm : t.mem = s.mem) (hd : t.dies = s.dies) (pa : Nat) : t.readPa pa = s.readPa pa := by
  rw [State.readPa, hm, State.storage_congr hd, State.readPa]

theorem State.makePrivate_dies (s : State) (owner line tv : Nat) : (s.makePrivate owner line tv).dies = s.dies := by
  unfold State.makePrivate
  split <;> rfl

theorem State.version_congr {s t : State} (h : t.versions = s.versions) (line view level : Nat) :
    t.version line view level = s.version line view level := by
  rw [State.version, h, State.version]

/-- Bytes that are written to physical memory: view 0 reads them, and a view reads another byte only with view 0. -/
theorem State.writePas_stores {s t : State} {pa : Nat} {l : List Byte} (hl : pa % 128 + l.length ≤ 128) (hm : t.mem = (s.writePas pa l).mem)
    (hd : t.dies = (s.writePas pa l).dies) (hv : ∀ line view, view < 0x10000 → t.version line view 0 = s.version line view 0) :
    StoresBytes s t 0 pa l := by
  have hp : ∀ x, t.readPa x = (s.writePas pa l).readPa x := State.readPa_congr hm hd
  refine ⟨fun i hi => ?_, fun view x hview _ hx => State.readView_of_version (hv _ _ hview) ?_⟩
  · rw [State.readView, if_pos rfl, hp]
    exact s.readPa_writePas_line l hl hi
  · rw [hp]
    exact s.readPa_writePas_of_storage_ne l (hx rfl)

theorem State.writePas_mem_congr {s t : State} (hm : t.mem = s.mem) (hd : t.dies = s.dies) (pa : Nat) (l : List Byte) :
    (t.writePas pa l).mem = (s.writePas pa l).mem := by
  induction l generalizing s t pa with
  | nil => exact hm
  | cons b l ih =>
    refine ih ?_ (by rw [State.writePa_dies, State.writePa_dies, hd]) _
    rw [State.writePa, State.writePa, State.mirror_congr hd, State.storage_congr hd, hm]
    split <;> rfl

/-- Bytes that are written to the line of a view's own: that view reads them, and nothing else reads anew (12 R332). -/
theorem State.putVersion_stores {s u : State} {tv pa : Nat} {l : List Byte} {w : Version} {old : SMap Byte} (htv : tv ≠ 0)
    (hl : pa % 128 + l.length ≤ 128) (hu : ∀ x, u.readPa x = s.readPa x)
    (hne : ∀ line view, view < 0x10000 → line ≠ pa / 128 ∨ view ≠ tv → u.version line view 0 = s.version line view 0)
    (hold : ∀ o < 128, SMap.get 0 old o = s.readView tv (pa / 128 * 128 + o))
    (hw : w.line = pa / 128 ∧ w.view = tv ∧ w.level = 0 ∧ w.content = some (putBytes old (pa % 128) l)) :
    StoresBytes s (u.putVersion w) tv pa l := by
  obtain ⟨hline, hview, hlevel, hcontent⟩ := hw
  have hself := u.version_putVersion_self w
  rw [hline, hview, hlevel] at hself
  have hread : ∀ x, x / 128 = pa / 128 → (u.putVersion w).readView tv x =
      if pa % 128 ≤ x % 128 ∧ x % 128 < pa % 128 + l.length then l.getD (x % 128 - pa % 128) 0 else s.readView tv x := by
    intro x hx
    rw [State.readView, if_neg htv, hx, hself]
    dsimp only
    rw [hcontent, Option.getD_some, get_putBytes_eq, hold _ (Nat.mod_lt _ (by decide)), show pa / 128 * 128 + x % 128 = x by omega]
  refine ⟨fun i hi => ?_, fun view x hv hx _ => ?_⟩
  · rw [hread _ (by omega), if_pos (by omega), show (pa + i) % 128 - pa % 128 = i by omega, List.getD_eq_getElem _ _ hi]
  · by_cases hxl : x / 128 = pa / 128 ∧ view = tv
    · obtain ⟨hxl, rfl⟩ := hxl
      have hx := hx htv rfl
      rw [hread x hxl, if_neg (by omega)]
    · have hother : x / 128 ≠ pa / 128 ∨ view ≠ tv := not_and_or.1 hxl
      refine State.readView_of_version ?_ (hu x)
      rw [State.version_putVersion_of_ne _ (by
        rw [hline, hview]
        exact hother.imp_right .inl)]
      exact hne _ _ hv hother

/-- A write to device memory or host memory within a line of the writer's own. -/
theorem State.applyBytes_stores {s : State} {owner tv pa : Nat} {l : List Byte} (p : Bool) (hl : pa % 128 + l.length ≤ 128)
    (hf : s.foreign owner pa = false) : StoresBytes s (s.applyBytes owner tv pa l p) (if 2 ^ 51 ≤ pa then 0 else tv) pa l := by
  unfold State.applyBytes
  dsimp only
  by_cases hh : Config.hostBase ≤ pa
  · rw [if_pos hh, if_pos (show 2 ^ 51 ≤ pa from hh)]
    exact State.writePas_stores hl rfl rfl fun _ _ _ => State.version_congr (s.writePas_versions pa l) _ _ _
  · rw [if_neg hh, if_neg (show ¬ 2 ^ 51 ≤ pa from hh), hf, if_neg Bool.false_ne_true]
    generalize hw : ({ s with deadKey := cutRanges s.deadKey (pa / 128 * 128) 128 } : State) = w
    have hwv : ∀ line view level, w.version line view level = s.version line view level := fun _ _ _ => by rw [← hw]; rfl
    have hsm : (w.saveShadows (pa / 128) tv).mem = s.mem := by rw [State.saveShadows_mem, ← hw]
    have hsd : (w.saveShadows (pa / 128) tv).dies = s.dies := by rw [State.saveShadows_dies, ← hw]
    by_cases htv : tv = 0
    · subst htv
      rw [if_pos rfl, State.makePrivate_zero]
      refine State.writePas_stores hl (State.writePas_mem_congr hsm hsd pa l) ?_ fun line view hv => ?_
      · exact (State.writePas_dies _ pa l).trans (hsd.trans (s.writePas_dies pa l).symm)
      · refine (State.version_congr (State.writePas_versions _ pa l) _ _ _).trans ?_
        exact (w.saveShadows_version _ _ (.inr (Nat.ne_of_lt hv))).trans (hwv _ _ _)
    · have hsv : ∀ line view, (w.saveShadows (pa / 128) tv).version line view 0 = s.version line view 0 :=
        fun line view => (w.saveShadows_version _ _ (.inl htv)).trans (hwv _ _ _)
      rw [if_neg htv]
      obtain ⟨v, hv, h1, h2, h3, hc⟩ := (w.saveShadows (pa / 128) tv).makePrivate_reads owner (pa / 128) htv
      rw [hv]
      refine State.putVersion_stores htv hl (fun x => ?_) (fun line view hview hne => ?_) (fun o ho => ?_) ⟨h1, h2, h3, rfl⟩
      · exact State.readPa_congr ((State.makePrivate_mem _ _ _ _).trans hsm) ((State.makePrivate_dies _ _ _ _).trans hsd) x
      · exact (State.makePrivate_version_of_ne _ _ hne).trans (hsv _ _)
      · rw [hc o ho]
        exact State.readView_of_version (hsv _ _) (State.readPa_congr hsm hsd _)

/-! ### A write of an engine (06 R207, 08 R264) -/

theorem StoresBytes.congr {s t t' : State} {tv pa : Nat} {l : List Byte} (h : StoresBytes s t tv pa l)
    (ht : ∀ view x, t'.readView view x = t.readView view x) : StoresBytes s t' tv pa l := by
  obtain ⟨h1, h2⟩ := h
  exact ⟨fun i hi => (ht _ _).trans (h1 i hi), fun view x hv hx hs => (ht _ _).trans (h2 view x hv hx hs)⟩

theorem StoresBytes.of_reads {s s' t : State} {tv pa : Nat} {l : List Byte} (h : StoresBytes s' t tv pa l)
    (hs : ∀ view x, s'.readView view x = s.readView view x) (hd : s'.dies = s.dies) : StoresBytes s t tv pa l := by
  obtain ⟨h1, h2⟩ := h
  refine ⟨h1, fun view x hv hx hst => (h2 view x hv hx fun h0 i hi => ?_).trans (hs _ _)⟩
  rw [State.storage_congr hd, State.storage_congr hd, State.mirror_congr hd]
  exact hst h0 i hi

theorem State.noteTlb_dies (s : State) (g : Agent) (va : Nat) : (s.noteTlb g va).dies = s.dies := by
  unfold State.noteTlb
  split
  · rfl
  · split
    · rfl
    · split <;> rfl

theorem State.engineHome_stores {s : State} {g : Agent} {va pa attr : Nat} {l : List Byte} (cycle : Option Nat) (p : Bool)
    (hl : pa % 128 + l.length ≤ 128) (hf : s.foreign g.ctx pa = false) :
    StoresBytes s (s.engineHome g cycle va pa attr l p) (if 2 ^ 51 ≤ pa then 0 else g.target va attr) pa l := by
  have h := (State.applyBytes_stores (tv := g.target va attr) p hl hf).congr fun view x =>
    State.allocate_readView (s.applyBytes g.ctx (g.target va attr) pa l p) pa attr view x
  unfold State.engineHome
  dsimp only
  split
  · split
    · exact h
    · exact h.congr fun _ _ => rfl
  · exact h.congr fun _ _ => rfl

/-- A line that is not remote is written at its home alone (14 R356). -/
theorem State.engineCopy_home (s : State) {g : Agent} {pa attr : Nat} (h : g.remote pa attr = false) (cycle : Option Nat) (l : List Byte)
    (p : Bool) : s.engineCopy g cycle pa attr l p = s := by
  simp [State.engineCopy, h]

theorem Config.deviceStorage_lt {pa : Nat} (h : Config.deviceStorage pa = true) : pa < 2 ^ 51 := by
  simp only [Config.deviceStorage, Bool.and_eq_true, decide_eq_true_eq] at h
  omega

theorem writeLines_line {g : Agent} {k : Access} {s : State} {va n pa attr : Nat} (h0 : 0 < n) (hn : va % 128 + n ≤ 128)
    (ht : translateAs s g va k = .ok pa attr) : writeLines g k (lineFuel n) s va n = .ok [(pa, g.target va attr, attr)] := by
  have hin : inLine va n = n := by
    unfold inLine
    omega
  rw [lineFuel, writeLines, if_neg h0.ne', ht]
  dsimp only
  rw [hin, Nat.sub_self, writeLines, if_pos rfl]

theorem applyWrite_line {g : Agent} {k : Access} {s : State} {va pa attr : Nat} {l : List Byte} (cycle : Option Nat) (bad : List Nat)
    (h0 : 0 < l.length) (hn : va % 128 + l.length ≤ 128) (ht : translateAs s g va k = .ok pa attr) :
    applyWrite g k (some cycle) bad (lineFuel l.length) s va l =
      (s.noteTlb g va).engineLine g cycle va pa attr l (bad.any fun i => decide (i < l.length)) := by
  have hin : inLine va l.length = l.length := by
    unfold inLine
    omega
  have he : l.isEmpty = false := by
    cases l with
    | nil => cases h0
    | cons b l => rfl
  rw [lineFuel, applyWrite, he, if_neg Bool.false_ne_true, ht]
  dsimp only
  rw [hin, List.take_length, List.drop_length, applyWrite, List.isEmpty_nil, if_pos rfl]

/-- A write of an engine within a line of its own that finds its Hedgerow lines is done, and stores its bytes. -/
theorem State.engineStore_stores {s : State} {g : Agent} {va pa attr : Nat} {l : List Byte} (bad : List Nat) (h0 : 0 < l.length)
    (hn : va % 128 + l.length ≤ 128) (ha : pa % 128 = va % 128) (ht : translateAs s g va .write = .ok pa attr)
    (hr : g.remote pa attr = false) (hf : s.foreign g.ctx pa = false)
    (hh : pa < 2 ^ 51 → s.hedgeOk g.ctx (pa / 128) (g.target va attr) = true) :
    ∃ t, s.engineStore g va l bad = .done t ∧ StoresBytes s t (if 2 ^ 51 ≤ pa then 0 else g.target va attr) pa l := by
  have hcheck : writeCheck g .write (lineFuel l.length) s va l.length = .done s := by
    have hrun : hedgeRun g.ctx [(pa, g.target va attr, attr)] s = none := by
      rw [hedgeRun]
      split
      · next hd =>
        rw [State.hedgeShort, if_pos (hh (Config.deviceStorage_lt hd))]
        rfl
      · rfl
    rw [writeCheck, writeLines_line h0 hn ht]
    dsimp only
    rw [hrun]
  obtain ⟨hreads, -, hforeign⟩ := s.noteTlb_reads g va
  refine ⟨_, by rw [State.engineStore, State.store, hcheck, applyWrite_line _ _ h0 hn ht], ?_⟩
  rw [State.engineLine, State.engineCopy_home _ hr]
  exact (State.engineHome_stores (some s.rt) _ (by omega) ((hforeign _ _).trans hf)).of_reads hreads (s.noteTlb_dies g va)

/-- What a meaning does with a write of an engine meets `EngineStores`, where it keeps the memory of one that is done. -/
theorem engineStores_of_done {s t : State} {g : Agent} {va : Nat} {l : List Byte} (bad : List Nat)
    (h : ∀ u, s.engineStore g va l bad = .done u → ∀ view x, t.readView view x = u.readView view x) : EngineStores s t g va l := by
  intro pa attr h0 hn ha ht hr hf hh
  obtain ⟨u, hu, hs⟩ := State.engineStore_stores bad h0 hn ha ht hr hf hh
  exact hs.congr (h u hu)

end Sys2Proof.Machine
end

section
/-!
PROOF. The beats of streams (06 R187, R191, R199, 04 R132), and a producer's write into a ring (06 R189 to R193).
-/

namespace Sys2Proof.Machine

/-! ### States that have only posted items -/

/-- Items have been posted; memory, the focus and every core stand. -/
def PostsOnly (s t : State) (l : List (Nat × Nat × Turn)) : Prop :=
  SameMemory s t ∧ t.cur = s.cur ∧ t.task.cores = s.task.cores ∧ Posted s t l

theorem PostsOnly.append {s t u : State} {l m : List (Nat × Nat × Turn)} (h : PostsOnly s t l) (k : PostsOnly t u m) :
    PostsOnly s u (l ++ m) := by
  obtain ⟨hm, hc, ht, hp⟩ := h
  obtain ⟨km, kc, kt, kp⟩ := k
  exact ⟨hm.trans km, kc.trans hc, kt.trans ht, hp.append kp⟩

theorem PostsOnly.coreAt {s t : State} {l : List (Nat × Nat × Turn)} (h : PostsOnly s t l) (k : Nat) : t.coreAt k = s.coreAt k := by
  obtain ⟨-, -, ht, -⟩ := h
  rw [State.coreAt, ht, State.coreAt]

theorem PostsOnly.core {s t : State} {l : List (Nat × Nat × Turn)} (h : PostsOnly s t l) : t.core = s.core := by
  rw [t.core_eq_coreAt, h.coreAt, h.2.1, s.core_eq_coreAt]

theorem State.postsOnly_post (s : State) (p : Pend) : PostsOnly s (s.post p) [(p.due, p.core, p.act)] := by
  obtain ⟨-, hm, hp⟩ := s.posted_post p
  exact ⟨hm, rfl, by rw [State.post, State.setRegion_task], hp⟩

theorem PostsOnly.of_outside {s t : State} (hm : SameMemory s t) (h : SameOutside s t) : PostsOnly s t [] :=
  ⟨hm, h.cur, by rw [h.task], .nil h.region⟩

theorem State.postsOnly_fresh (s : State) (n : Nat) : PostsOnly s { s with fresh := n } [] :=
  ⟨fun _ _ _ => rfl, rfl, rfl, .nil rfl⟩

/-- The next beat of a stream that is no input from a scratchpad goes on the agenda (06 R199). -/
theorem State.postBeat_eq (s : State) {x : Stream} {u : Run} {d : StreamDesc} {st j : Nat} (h : ¬ (d.dir = 0 ∧ d.space ≠ 2)) :
    s.postBeat x u d st j = if d.beats ≤ j then s else
      ({ s with fresh := s.fresh + 1 } : State).post
        { due := st + d.off + j, rank := if d.dir = 0 then 1 else 22, key := [s.cur.core, 1 + x.se], core := s.cur.core
          act := .event (.streamBeat x.se u.uid j), landed := decide (d.space ≠ 2), landAt := s.later, die := s.myDie
          pc := u.pc, by' := s.cur.core } := by
  unfold State.postBeat
  split
  · rfl
  · exact if_neg (by simpa using h)

theorem State.postBeat_posts (s : State) {x : Stream} {u : Run} {d : StreamDesc} {st j : Nat} (h : ¬ (d.dir = 0 ∧ d.space ≠ 2)) :
    PostsOnly s (s.postBeat x u d st j)
      (if j < d.beats then [(st + d.off + j, s.cur.core, .event (.streamBeat x.se u.uid j))] else []) := by
  rw [s.postBeat_eq h]
  by_cases hj : j < d.beats
  · rw [if_pos hj, if_neg (Nat.not_le.2 hj)]
    exact (s.postsOnly_fresh _).append (State.postsOnly_post _ _)
  · rw [if_neg hj, if_pos (Nat.not_lt.1 hj)]
    exact ⟨.refl s, rfl, rfl, .nil rfl⟩

/-- An item posted where the core in focus has been replaced. -/
theorem State.here_post (s : State) (c : Core) (r : Region) (n : Nat) (p : Pend) : ∃ q, (s.here c r n).post p = s.here c q n :=
  ⟨_, by rw [State.post, State.here_setRegion]⟩

/-- A beat posted changes nothing of the state but the region and the counter of free values. -/
theorem State.postBeat_here (s : State) (c : Core) {x : Stream} {u : Run} {d : StreamDesc} {st j : Nat} (h : ¬ (d.dir = 0 ∧ d.space ≠ 2)) :
    ∃ r n, (s.setCore c).postBeat x u d st j = s.here c r n := by
  rw [State.postBeat_eq _ h]
  split
  · exact ⟨_, _, s.setCore_eq c⟩
  · exact (s.here_post c s.region (s.fresh + 1) _).imp fun q hq => ⟨s.fresh + 1, hq⟩

/-! ### Input beats -/

/-- The core in focus once an input beat has landed. -/
def State.landBeat (s : State) (se j : Nat) (x : Stream) (d : StreamDesc) : Core :=
  let c := (s.count 0x12 1).core
  (c.setElem (streamElement se) { c.elem (streamElement se) with strmIn := beatVec (SMap.get [] x.fetched j) }).setStream
    { x with fetched := SMap.del x.fetched j, done := x.done || decide (d.beats ≤ j + 1) }

section
variable {s : State} {se run j : Nat} {x : Stream} {u : Run} {d : StreamDesc}
variable (hx : s.core.streamIn se run = some x) (hu : s.core.runOf run = some u) (hd : x.desc = some d)
include hx hu hd

theorem execStreamBeat_input (hdir : d.dir = 0) (hhas : SMap.has x.fetched j = true) (hne : SMap.get [] x.fetched j ≠ []) :
    execStreamBeat se run j s = .next (if d.space = 2 then (s.setCore (s.landBeat se j x d)).postBeat x u d (u.start.getD 0) (j + 64)
      else s.setCore (s.landBeat se j x d)) := by
  unfold execStreamBeat
  rw [hx, hu]
  dsimp only
  split
  · next h => exact nomatch h.symm.trans hd
  · next d' h =>
    obtain rfl : d' = d := Option.some.inj (h.symm.trans hd)
    rw [if_pos hdir, if_pos hhas]
    dsimp only
    rw [if_neg (by simpa using hne), State.count_setCore]
    rfl

theorem execStreamBeat_fails {v : Nat} {f : Tr}
    (h : (d.dir = 0 ∧ SMap.has x.fetched j = false ∧ s.regionLoad (s.streamAgent se) .read u.issue (d.addr d.base j) 64 = .failed v f) ∨
      (d.dir ≠ 0 ∧ d.space = 2 ∧ writeLines (s.streamAgent se) .write (lineFuel 64) s (d.addr d.base j) 64 = .error (v, f))) :
    execStreamBeat se run j s = .next (s.streamTrap u (trCause f).1 (trCause f).2 (beatTval f (d.addr d.base j) v)) := by
  unfold execStreamBeat
  rw [hx, hu]
  dsimp only
  rw [hd]
  dsimp only
  obtain ⟨hdir, hhas, hl⟩ | ⟨hdir, hspace, hl⟩ := h
  · rw [if_pos hdir, if_neg (by simp [hhas]), hl]
  · rw [if_neg hdir, if_pos hspace, hl]

end

theorem beatTval_eq (f : Tr) (beat failing : Nat) :
    beatTval f beat failing = BitVec.ofNat 64 (match f with | .pfault _ => beat | _ => failing) := by
  cases f <;> rfl

theorem State.landBeat_spec (s : State) (se j : Nat) (x : Stream) (d : StreamDesc) :
    let c := s.landBeat se j x d
    (∀ r, c.rx r = s.core.rx r) ∧ CountsOnly s (s.setCore c) [0x12] ∧
    c.elem (streamElement se) = { s.core.elem (streamElement se) with strmIn := beatVec (SMap.get [] x.fetched j) } ∧
    (∀ e, e ≠ streamElement se → c.elem e = s.core.elem e) ∧
    ({ s.core with els := c.els, streams := c.streams }).SameUnits c := by
  obtain ⟨hc, hcount⟩ := s.count_core 0x12 1
  obtain ⟨h, n, hc⟩ : ∃ h n, (s.count 0x12 1).core = { s.core with hpc := h, hpcNow := n } := ⟨_, _, hc⟩
  have hels : (s.count 0x12 1).core.els = s.core.els := by rw [hc]
  refine ⟨fun r => ?_, fun i hi => ?_, ?_, fun e he => ?_, ?_⟩
  · rw [State.landBeat, hc]
    rfl
  · rw [State.setCore_core]
    exact hcount i (hi _ (List.mem_singleton_self _))
  · refine (SMap.get_put_self _ _ _ _).trans ?_
    rw [Core.elem, hels, Core.elem]
  · refine (SMap.get_put_of_ne _ _ _ he).trans ?_
    rw [hels, Core.elem]
  · rw [State.landBeat, hc]
    rfl

/-- A beat of a stream that is no input from a scratchpad, where the core in focus has been replaced. -/
theorem State.setCore_postBeat_spec (s : State) (c : Core) {x : Stream} {u : Run} {d : StreamDesc} {st j : Nat}
    (h : ¬ (d.dir = 0 ∧ d.space ≠ 2)) :
    let t := (s.setCore c).postBeat x u d st j
    OnlyHere s t ∧ SameMemory s t ∧ t.core = c ∧
      Posted s t (if j < d.beats then [(st + d.off + j, s.cur.core, .event (.streamBeat x.se u.uid j))] else []) := by
  intro t
  have hp := (s.setCore c).postBeat_posts (x := x) (u := u) (st := st) (j := j) h
  obtain ⟨r, n, hr⟩ := s.postBeat_here c (x := x) (u := u) (st := st) (j := j) h
  have hcore := hp.core
  obtain ⟨hm, -, -, hpost⟩ := hp
  refine ⟨(show t = s.here c r n from hr) ▸ s.onlyHere_here c r n, (s.sameMemory_setCore c).trans hm, hcore.trans (s.setCore_core c), ?_⟩
  obtain ⟨ps, hps, hreg⟩ := hpost
  exact ⟨ps, hps, by rw [hreg, State.setCore_region]⟩

theorem streamIn_se {c : Core} {se run : Nat} {x : Stream} (h : c.streamIn se run = some x) : x.se = se := by
  have := List.find?_some h
  simp only [Bool.and_eq_true, beq_iff_eq] at this
  exact this.1

/-- An input beat that has been fetched (06 R199, 04 R132). -/
theorem execStreamBeat_input_spec {s : State} {se run j : Nat} {x : Stream} {u : Run} {d : StreamDesc}
    (hx : s.core.streamIn se run = some x) (hu : s.core.runOf run = some u) (hd : x.desc = some d) (hdir : d.dir = 0)
    (hhas : SMap.has x.fetched j = true) (hne : SMap.get [] x.fetched j ≠ []) :
    ∃ t, execStreamBeat se run j s = .next t ∧ OnlyHere s t ∧ SameMemory s t ∧ t.core = s.landBeat se j x d ∧
      Posted s t (if d.space = 2 ∧ j + 64 < d.beats then [(u.start.getD 0 + d.off + (j + 64), s.cur.core, .event (.streamBeat se u.uid (j + 64)))]
        else []) := by
  have hse := streamIn_se hx
  refine ⟨_, execStreamBeat_input hx hu hd hdir hhas hne, ?_⟩
  by_cases hs : d.space = 2
  · rw [if_pos hs]
    obtain ⟨ho, hm, hc, hp⟩ := s.setCore_postBeat_spec (s.landBeat se j x d) (x := x) (u := u) (st := u.start.getD 0) (j := j + 64)
      fun h => h.2 hs
    rw [hse] at hp
    exact ⟨ho, hm, hc, by simpa only [hs, true_and] using hp⟩
  · rw [if_neg hs, if_neg fun h => hs h.1]
    exact ⟨(s.onlyCore_setCore _).1, s.sameMemory_setCore _, s.setCore_core _, .nil (s.setCore_region _)⟩

/-! ### Output beats -/

/-- An output beat begins a slot of its ring (06 R190). -/
def StreamDesc.begins (d : StreamDesc) (j : Nat) : Bool := d.space == 1 && j % d.perSlot == 0

/-- The sequence number of the slot that an output beat goes into. -/
def State.beatSeq (s : State) (x : Stream) (d : StreamDesc) (j : Nat) : Nat :=
  if d.begins j then ((s.coreAt d.core).ring d.base).claims else SMap.get 0 x.slots (d.index 3 j)

/-- The stream once an output beat has its slot. -/
def State.slotStream (s : State) (x : Stream) (d : StreamDesc) (j : Nat) : Stream :=
  if d.begins j then { x with slots := SMap.put x.slots (d.index 3 j) ((s.coreAt d.core).ring d.base).claims } else x

/-- The state once an output beat has its slot. -/
def State.slotTaken (s : State) (d : StreamDesc) (j : Nat) : State :=
  if d.begins j then s.setCoreAt d.core ((s.coreAt d.core).setRing d.base ((s.coreAt d.core).ring d.base).take.2) else s

/-- The state of an output beat that has its slot, its stream and the next page's translation. -/
def State.beatReady (s : State) (se : Nat) (x : Stream) (d : StreamDesc) (j : Nat) : State :=
  let s0 := s.count 0x12 1
  let s1 := s0.slotTaken d j
  let s2 := s1.setCore (s1.core.setStream (s0.slotStream x d j))
  if d.space = 2 then s2.prefetch (s.streamAgent se) (d.addr d.base j) fun _ => d.addrsFrom (j + 1) else s2

/-- An output beat on its way. -/
def State.beatSent (s : State) (se run : Nat) (x : Stream) (u : Run) (d : StreamDesc) (j : Nat) : State :=
  let s0 := s.count 0x12 1
  let to' := (s0.slotTaken d j).beatTarget (s0.slotStream x d j) u d j
  let s2 := s.beatReady se x d j
  ({ s2 with fresh := s2.fresh + 1 } : State).post
    { due := to'.2.1, rank := 3, key := [u.issue, 8 + se, s.cur.core], core := if d.space = 1 then to'.2.2 else s.cur.core, el := s.cur.core
      act := .event (.streamWritePerform se run to'.1 (vecBytes (s.core.elem (streamElement se)).strmOut))
      landed := decide (d.space = 0) || (d.space == 1 && decide (d.core = s.cur.core)), landAt := s2.later, die := s.myDie
      pc := u.pc, by' := s.cur.core }

theorem execStreamBeat_output {s : State} {se run j : Nat} {x : Stream} {u : Run} {d : StreamDesc}
    (hx : s.core.streamIn se run = some x) (hu : s.core.runOf run = some u) (hd : x.desc = some d) (hdir : d.dir ≠ 0)
    (hl : d.space = 2 → ∃ l, writeLines (s.streamAgent se) .write (lineFuel 64) s (d.addr d.base j) 64 = .ok l) :
    execStreamBeat se run j s = .next ((s.beatSent se run x u d j).postBeat ((s.count 0x12 1).slotStream x d j) u d (u.start.getD 0) (j + 1)) := by
  have hw : ∃ l, (if d.space = 2 then writeLines (s.streamAgent se) .write (lineFuel 64) s (d.addr d.base j) 64 else .ok []) =
      (.ok l : Except (Nat × Tr) (List (Nat × Nat × Nat))) := by
    split
    · next h => exact hl h
    · exact ⟨[], rfl⟩
  obtain ⟨l, hw⟩ := hw
  unfold execStreamBeat
  rw [hx, hu]
  dsimp only
  split
  · next h => exact nomatch h.symm.trans hd
  · next d' h =>
    obtain rfl : d' = d := Option.some.inj (h.symm.trans hd)
    rw [if_neg hdir, hw]
    unfold State.beatSent State.beatReady State.slotTaken State.slotStream StreamDesc.begins
    cases hb : d'.space == 1 && j % d'.perSlot == 0 with
    | true => rfl
    | false => rfl

/-! What an output beat leaves -/

theorem State.count_frame (s : State) (ev n : Nat) : (s.count ev n).cur = s.cur ∧ (s.count ev n).region = s.region ∧
    (s.count ev n).task.places = s.task.places ∧ (s.count ev n).task.dies = s.task.dies := by
  unfold State.count
  split
  · exact ⟨rfl, rfl, rfl, rfl⟩
  · rw [State.setCore_region, State.setCore_task]
    exact ⟨rfl, rfl, rfl, rfl⟩

theorem State.coreAt_setCoreAt (s : State) (k : Nat) (c : Core) (m : Nat) :
    (s.setCoreAt k c).coreAt m = if m = k then c else s.coreAt m := by
  rw [State.coreAt, State.setCoreAt_task]
  split
  · next h =>
    subst h
    exact SMap.get_put_self _ _ _ _
  · next h => exact SMap.get_put_of_ne _ _ _ h

theorem State.coreAt_setCore (s : State) (c : Core) (m : Nat) : (s.setCore c).coreAt m = if m = s.cur.core then c else s.coreAt m :=
  s.coreAt_setCoreAt s.cur.core c m

theorem Core.ring_setRing_self (c : Core) (n : Nat) (r : Ring) : (c.setRing n r).ring n = r := SMap.get_put_self _ _ _ _

theorem State.slotTaken_spec (s : State) (d : StreamDesc) (j : Nat) : SameMemory s (s.slotTaken d j) ∧ (s.slotTaken d j).cur = s.cur ∧
    (s.slotTaken d j).region = s.region ∧ (s.slotTaken d j).task.places = s.task.places ∧ (s.slotTaken d j).task.dies = s.task.dies ∧
    (∀ k, ∃ r, (s.slotTaken d j).coreAt k = { s.coreAt k with rings := r }) ∧
    (((s.slotTaken d j).coreAt d.core).ring d.base).claims =
      if d.begins j then (((s.coreAt d.core).ring d.base).claims + 1) % 2 ^ 32 else ((s.coreAt d.core).ring d.base).claims := by
  unfold State.slotTaken
  split
  · refine ⟨fun _ _ _ => rfl, rfl, State.setCoreAt_region _ _ _, by rw [State.setCoreAt_task], by rw [State.setCoreAt_task], fun k => ?_, ?_⟩
    · rw [State.coreAt_setCoreAt]
      split
      · next h =>
        subst h
        exact ⟨_, rfl⟩
      · exact ⟨_, rfl⟩
    · rw [State.coreAt_setCoreAt, if_pos rfl, Core.ring_setRing_self]
      rfl
  · exact ⟨.refl s, rfl, rfl, rfl, rfl, fun k => ⟨_, rfl⟩, rfl⟩

theorem State.beatReady_spec (s : State) (se : Nat) (x : Stream) (d : StreamDesc) (j : Nat) :
    SameMemory s (s.beatReady se x d j) ∧ (s.beatReady se x d j).cur = s.cur ∧ (s.beatReady se x d j).region = s.region ∧
    SameRegs s (s.beatReady se x d j) ∧ CountsOnly s (s.beatReady se x d j) [0x12] ∧
    (((s.beatReady se x d j).coreAt d.core).ring d.base).claims =
      if d.begins j then (((s.coreAt d.core).ring d.base).claims + 1) % 2 ^ 32 else ((s.coreAt d.core).ring d.base).claims := by
  let s0 := s.count 0x12 1
  let s1 := s0.slotTaken d j
  let s2 := s1.setCore (s1.core.setStream (s0.slotStream x d j))
  obtain ⟨hm0, hc0, hr0, hk0⟩ := s.count_spec 0x12 1
  obtain ⟨hm1, hc1, hr1, -, -, hk1, hcl⟩ := s0.slotTaken_spec d j
  have hfetch : SameMemory s2 (s.beatReady se x d j) ∧ SameOutside s2 (s.beatReady se x d j) := by
    unfold State.beatReady
    dsimp only
    split
    · exact State.prefetch_spec _ _ _ _
    · exact ⟨.refl _, .refl _⟩
  obtain ⟨hm2, ho2⟩ := hfetch
  have hcore : (s.beatReady se x d j).core = s1.core.setStream (s0.slotStream x d j) := by rw [ho2.core, State.setCore_core]
  obtain ⟨q, hq⟩ : ∃ q, s1.core = { s0.core with rings := q } := by
    rw [s1.core_eq_coreAt, hc1]
    exact hk1 _
  have hcount := s.count_core 0x12 1
  refine ⟨(hm0.trans hm1).trans ((s1.sameMemory_setCore _).trans hm2), ho2.cur.trans (hc1.trans hc0), ?_, fun r => ?_, fun i hi => ?_, ?_⟩
  · rw [ho2.region, State.setCore_region, hr1, hr0]
  · rw [hcore, hq]
    have h := congrArg (Core.rx · r) hcount.1
    exact h
  · rw [hcore, hq]
    exact hcount.2 i (hi _ (List.mem_singleton_self _))
  · have hk : ((s.beatReady se x d j).coreAt d.core).ring d.base = (s1.coreAt d.core).ring d.base := by
      rw [State.coreAt, ho2.task, ← State.coreAt, State.coreAt_setCore]
      split
      · next h =>
        rw [h]
        rfl
      · rfl
    obtain ⟨h, n, hk0⟩ := hk0 d.core
    rw [hk, hcl, hk0]
    rfl

/-- Where an output beat goes depends on the task's placement, the region and the focus (06 R187, R199). -/
theorem State.beatTarget_eq {s t : State} (hc : t.cur = s.cur) (hr : t.region = s.region) (hp : t.task.places = s.task.places)
    (hd : t.task.dies = s.task.dies) (x : Stream) (u : Run) (d : StreamDesc) (j : Nat) :
    t.beatTarget x u d j = s.beatGoes u d j (SMap.get 0 x.slots (d.index 3 j)) := by
  have hrt : t.rt = s.rt := congrArg Region.rt hr
  have hdie : ∀ k, t.physDie k = s.physDie k := fun k => by rw [State.physDie, hd, State.physDie]
  have hof : ∀ k, t.dieOf k = s.dieOf k := fun k => by rw [State.dieOf, hp, State.dieOf]
  have hmy : t.myDie = s.myDie := by rw [State.myDie, hdie, hof, hc, State.myDie]
  have hlam : ∀ k, t.lambda k = s.lambda k := fun k => by rw [State.lambda, hr, hmy, hdie, hof, State.lambda]
  simp only [State.beatTarget, State.beatGoes, hc, hrt, hmy, hdie, hlam]
  generalize d.space = n
  match n with
  | 0 => rfl
  | 1 => rfl
  | n + 2 => rfl

theorem State.slotStream_seq (s : State) (x : Stream) (d : StreamDesc) (j : Nat) :
    SMap.get 0 (s.slotStream x d j).slots (d.index 3 j) = s.beatSeq x d j := by
  unfold State.slotStream State.beatSeq
  split
  · exact SMap.get_put_self _ _ _ _
  · rfl

/-- An output beat (06 R187, R190, R199). -/
theorem execStreamBeat_output_spec {s : State} {se run j : Nat} {x : Stream} {u : Run} {d : StreamDesc}
    (hx : s.core.streamIn se run = some x) (hu : s.core.runOf run = some u) (hd : x.desc = some d) (hdir : d.dir ≠ 0)
    (hl : d.space = 2 → ∃ l, writeLines (s.streamAgent se) .write (lineFuel 64) s (d.addr d.base j) 64 = .ok l) :
    ∃ t, execStreamBeat se run j s = .next t ∧ SameMemory s t ∧ SameRegs s t ∧ CountsOnly s t [0x12] ∧
      ((t.coreAt d.core).ring d.base).claims =
        (if d.begins j then (((s.coreAt d.core).ring d.base).claims + 1) % 2 ^ 32 else ((s.coreAt d.core).ring d.base).claims) ∧
      Posted s t (((s.beatGoes u d j (s.beatSeq x d j)).2.1, (if d.space = 1 then (s.beatGoes u d j (s.beatSeq x d j)).2.2 else s.cur.core),
          .event (.streamWritePerform se run (s.beatGoes u d j (s.beatSeq x d j)).1 (vecBytes (s.core.elem (streamElement se)).strmOut))) ::
        (if j + 1 < d.beats then [(u.start.getD 0 + d.off + (j + 1), s.cur.core, .event (.streamBeat se u.uid (j + 1)))] else [])) := by
  have hse : x.se = se := streamIn_se hx
  obtain ⟨c1, c2, c3, c4⟩ := s.count_frame 0x12 1
  obtain ⟨-, t1, t2, t3, t4, -⟩ := (s.count 0x12 1).slotTaken_spec d j
  have hring : ((s.count 0x12 1).coreAt d.core).rings = (s.coreAt d.core).rings := by
    obtain ⟨-, -, -, hk⟩ := s.count_spec 0x12 1
    obtain ⟨h, n, hk⟩ := hk d.core
    rw [hk]
  have hseq : (s.count 0x12 1).beatSeq x d j = s.beatSeq x d j := by
    rw [State.beatSeq, State.beatSeq, Core.ring, Core.ring, hring]
  have htarget : ((s.count 0x12 1).slotTaken d j).beatTarget ((s.count 0x12 1).slotStream x d j) u d j =
      s.beatGoes u d j (s.beatSeq x d j) := by
    rw [State.beatTarget_eq (t1.trans c1) (t2.trans c2) (t3.trans c3) (t4.trans c4), State.slotStream_seq, hseq]
  obtain ⟨hm, hc, hr, hx', hn, hcl⟩ := s.beatReady_spec se x d j
  refine ⟨_, execStreamBeat_output hx hu hd hdir hl, ?_⟩
  have hsent : PostsOnly (s.beatReady se x d j) (s.beatSent se run x u d j) _ := ((s.beatReady se x d j).postsOnly_fresh _).append
    (State.postsOnly_post _ _)
  have hnext := (s.beatSent se run x u d j).postBeat_posts (x := (s.count 0x12 1).slotStream x d j) (u := u) (d := d)
    (st := u.start.getD 0) (j := j + 1) fun h => hdir h.1
  have hall := hsent.append hnext
  have hcore := hall.core
  have hat := hall.coreAt d.core
  obtain ⟨am, -, -, ap⟩ := hall
  have hcur : (s.beatSent se run x u d j).cur = s.cur := hsent.2.1.trans hc
  have hse' : ((s.count 0x12 1).slotStream x d j).se = se := by
    rw [← hse]
    unfold State.slotStream
    split <;> rfl
  refine ⟨hm.trans am, fun r => ?_, fun i hi => ?_, ?_, ?_⟩
  · rw [hcore]
    exact hx' r
  · rw [hcore]
    exact hn i hi
  · rw [hat]
    exact hcl
  · obtain ⟨ps, hps, hreg⟩ := ap
    refine ⟨ps, hps.trans ?_, by rw [hreg, hr]⟩
    rw [htarget, hcur, hse']
    rfl

/-! ### Where a beat performs -/

/-- Bytes written to the scratchpad of the core in focus (06 R187). -/
theorem State.swrite_spec (s : State) (a : Nat) (l : List Byte) : ScratchWritten s (s.setCore (s.core.swrite a l)) a l := by
  refine ⟨s.onlyCore_setCore _, s.sameMemory_setCore _, ?_, fun x => ?_⟩
  · rw [State.setCore_core]
    rfl
  · rw [State.spad, State.setCore_core]
    exact get_putBytes_eq _ _ _ _

theorem Core.smark_eq (c : Core) (a : Nat) (bad : List Nat) : c.smark a bad = { c with scratchPoison := (c.smark a bad).scratchPoison } := by
  unfold Core.smark
  split <;> rfl

theorem Core.smark_rings (c : Core) (a : Nat) (bad : List Nat) : (c.smark a bad).rings = c.rings := by rw [Core.smark_eq]

/-- The ring once a producer's write has performed in a slot. -/
def Ring.written (r : Ring) (w : RingWrite) : Ring :=
  let k := r.index w.seq
  let r1 := if r.begun.contains w.seq then r else { r with arrived := SMap.put r.arrived k false, begun := w.seq :: r.begun }
  if w.last then
    { r1 with tags := SMap.put r1.tags k (w.seq % 0x10000), arrived := SMap.put r1.arrived k true,
              arrivals := (r1.arrivals + 1) % ringWrap, begun := r1.begun.filter (· != w.seq) }
  else r1

theorem Ring.written_spec (r : Ring) (w : RingWrite) :
    r.written w = { r with tags := (r.written w).tags, arrived := (r.written w).arrived, begun := (r.written w).begun
                           arrivals := if w.last then (r.arrivals + 1) % 2 ^ 32 else r.arrivals } ∧
    (w.last = true → SMap.get false (r.written w).arrived (r.index w.seq) = true ∧
      SMap.get 0 (r.written w).tags (r.index w.seq) = w.seq % 0x10000) := by
  obtain ⟨a, b, h⟩ : ∃ a b, (if r.begun.contains w.seq then r
      else { r with arrived := SMap.put r.arrived (r.index w.seq) false, begun := w.seq :: r.begun }) = { r with arrived := a, begun := b } := by
    split <;> exact ⟨_, _, rfl⟩
  unfold Ring.written
  dsimp only
  rw [h]
  cases w.last with
  | true => exact ⟨rfl, fun _ => ⟨SMap.get_put_self _ _ _ _, SMap.get_put_self _ _ _ _⟩⟩
  | false => exact ⟨rfl, nofun⟩

/-- The ring of the core in focus as a producer's write finds it. -/
def State.ringFor (s : State) (w : RingWrite) : Ring :=
  let r0 := s.core.ring w.ring
  if r0.full w.seq then r0.popEarly (s.wholeSlots s.cur.core w.ring) w.seq 64 else r0

theorem State.ringWrite_eq (s : State) (unit : Nat) (w : RingWrite) : s.ringWrite unit w =
    if !(s.ringFor w).configured || (s.ringFor w).full w.seq then
      s.trapUnit unit 6 3 (BitVec.ofNat 64 w.ring) (BitVec.ofNat 64 w.pc) w.by'
    else s.setCore (((s.core.swrite ((s.ringFor w).slotAddr w.seq + w.off) w.bytes).smark ((s.ringFor w).slotAddr w.seq + w.off) w.poison).setRing
      w.ring ((s.ringFor w).written w)) := rfl

/-- A producer's write traps where its slot is not free, and else stands in its slot (06 R191). -/
theorem State.ringWrite_spec (s : State) (unit : Nat) (w : RingWrite) : RingWritten s (s.ringWrite unit w) unit w := by
  have hfull : (!(s.ringFor w).configured || (s.ringFor w).full w.seq) = true ↔ (s.ringFor w).configured = false ∨
      (s.ringFor w).count ≤ (w.seq + (2 ^ 32 - (s.ringFor w).pops % 2 ^ 32)) % 2 ^ 32 := by
    rw [Bool.or_eq_true, Bool.not_eq_true', Ring.full, decide_eq_true_eq]
    rfl
  rw [State.ringWrite_eq]
  unfold RingWritten
  by_cases h : (s.ringFor w).configured = false ∨ (s.ringFor w).count ≤ (w.seq + (2 ^ 32 - (s.ringFor w).pops % 2 ^ 32)) % 2 ^ 32
  · rw [if_pos (hfull.2 h)]
    exact (if_pos h).mpr (s.trapUnit_spec _ _ _ _ _ _)
  · rw [if_neg (mt hfull.1 h)]
    refine (if_neg h).mpr ?_
    obtain ⟨hq, hlast⟩ := (s.ringFor w).written_spec w
    have hcore := s.setCore_core (((s.core.swrite ((s.ringFor w).slotAddr w.seq + w.off) w.bytes).smark ((s.ringFor w).slotAddr w.seq + w.off)
      w.poison).setRing w.ring ((s.ringFor w).written w))
    have hring : (s.setCore (((s.core.swrite ((s.ringFor w).slotAddr w.seq + w.off) w.bytes).smark ((s.ringFor w).slotAddr w.seq + w.off)
        w.poison).setRing w.ring ((s.ringFor w).written w))).core.ring w.ring = (s.ringFor w).written w := by
      rw [hcore, Core.ring_setRing_self]
    refine ⟨s.onlyCore_setCore _, s.sameMemory_setCore _, ?_, fun x => ?_, fun n hn => ?_, ?_, ?_⟩
    · rw [hcore, Core.smark_eq]
      rfl
    · rw [State.spad, hcore]
      exact (congrArg (SMap.get 0 · x) (Core.smark_scratch _ _ _)).trans (get_putBytes_eq _ _ _ _)
    · rw [hcore]
      exact (SMap.get_put_of_ne _ _ _ hn).trans (congrArg (SMap.get {} · n) (Core.smark_rings _ _ _))
    · rw [hring]
      exact hq
    · rw [hring]
      exact hlast

/-- A write of a beat to memory (08 R253, 12 R322). -/
theorem execStreamWritePerform_mem (se run va : Nat) (bytes : List Byte) (s : State) :
    ∃ t, execStreamWritePerform se run (.mem va) bytes s = .next t ∧ EngineStores s t (s.streamAgent se) va bytes := by
  refine ⟨_, rfl, engineStores_of_done [] fun u hu view x => ?_⟩
  dsimp only
  rw [hu]
  rfl

theorem StreamDesc.begins_iff (d : StreamDesc) (j : Nat) : d.begins j = true ↔ d.space = 1 ∧ j % d.perSlot = 0 := by
  simp [StreamDesc.begins]

/-- Settles O34: the beats that land, those that go on their way, those that fail, and where they perform. -/
theorem streamBeats : Obligations.StreamBeats := by
  refine ⟨fun s se run j x u d hx hu hd => ⟨fun hdir hhas hne => ?_, fun hdir hl => ?_, fun v f h => ?_⟩, fun s se run bytes =>
    ⟨fun a => ⟨_, _, rfl, s.swrite_spec a bytes, rfl⟩, fun w => ⟨_, _, rfl, s.ringWrite_spec 5 _, rfl⟩,
      fun va => execStreamWritePerform_mem se run va bytes s⟩⟩
  · obtain ⟨t, ht, ho, hm, hc, hp⟩ := execStreamBeat_input_spec hx hu hd hdir hhas hne
    obtain ⟨hregs, hcount, hel, hne', hunits⟩ := s.landBeat_spec se j x d
    refine ⟨t, ht, ho, hm, fun r => ?_, fun i hi => ?_, ?_⟩
    · rw [hc]
      exact hregs r
    · have := hcount i hi
      rw [State.setCore_core] at this
      rwa [hc]
    · rw [hc]
      exact ⟨hel, hne', hunits, hp⟩
  · obtain ⟨t, ht, h⟩ := execStreamBeat_output_spec hx hu hd hdir hl
    refine ⟨t, ht, ?_⟩
    simp only [State.beatSeq, StreamDesc.begins_iff] at h
    exact h
  · refine ⟨_, execStreamBeat_fails hx hu hd h, ?_⟩
    rw [beatTval_eq]
    exact s.trapUnit_spec _ _ _ _ _ _

end Sys2Proof.Machine
end

section
/-!
PROOF. COPY and COPYD: issue, sampling, staging, rows and the digest (06 R190, R205 to R208, R210, R214, 17 R382, R408).
-/

namespace Sys2Proof.Machine

/-! ### States in which the region alone has moved on -/

/-- Memory and the focus stand, and of the task its region alone changes. -/
def RegionMoves (s t : State) : Prop := SameMemory s t ∧ t.cur = s.cur ∧ t.task = { s.task with region := t.region }

theorem RegionMoves.refl (s : State) : RegionMoves s s := ⟨.refl s, rfl, rfl⟩

theorem RegionMoves.trans {s t u : State} (h : RegionMoves s t) (k : RegionMoves t u) : RegionMoves s u := by
  obtain ⟨hm, hc, ht⟩ := h
  obtain ⟨km, kc, kt⟩ := k
  refine ⟨hm.trans km, kc.trans hc, ?_⟩
  rw [ht] at kt
  exact kt

theorem RegionMoves.of_outside {s t : State} (hm : SameMemory s t) (h : SameOutside s t) : RegionMoves s t := by
  refine ⟨hm, h.cur, ?_⟩
  rw [h.region]
  exact h.task

theorem State.regionMoves_setRegion (s : State) (r : Region) : RegionMoves s (s.setRegion r) := by
  refine ⟨s.sameMemory_setRegion r, rfl, ?_⟩
  rw [State.setRegion_task, State.setRegion_region]

theorem State.regionMoves_post (s : State) (p : Pend) : RegionMoves s (s.post p) := s.regionMoves_setRegion _

theorem State.regionMoves_fresh (s : State) (n : Nat) : RegionMoves s { s with fresh := n } := ⟨fun _ _ _ => rfl, rfl, rfl⟩

theorem State.regionMoves_checkAgain (s : State) (unit k : Nat) (spans : List (Nat × Nat)) (pc : Word) (by' : Nat) :
    RegionMoves s (s.checkAgain unit k spans pc by') := by
  rw [State.checkAgain_eq]
  split
  · exact s.regionMoves_post _
  · exact .refl s

theorem RegionMoves.cores {s t : State} (h : RegionMoves s t) : t.task.cores = s.task.cores := by
  obtain ⟨-, -, ht⟩ := h
  rw [ht]

theorem RegionMoves.coreAt {s t : State} (h : RegionMoves s t) (k : Nat) : t.coreAt k = s.coreAt k := by
  rw [State.coreAt, h.cores, State.coreAt]

theorem RegionMoves.core {s t : State} (h : RegionMoves s t) : t.core = s.core := by
  rw [t.core_eq_coreAt, h.coreAt, h.2.1, s.core_eq_coreAt]

theorem RegionMoves.rowAt {s t : State} (h : RegionMoves s t) (c : Copy) (d : CopyDesc) (start r : Nat) :
    t.rowAt c d start r = s.rowAt c d start r := by
  obtain ⟨-, -, ht⟩ := h
  have hd : ∀ k, t.physDie k = s.physDie k := fun k => by rw [State.physDie, ht, State.physDie]
  have hof : ∀ k, t.dieOf k = s.dieOf k := fun k => by rw [State.dieOf, ht, State.dieOf]
  simp only [State.rowAt, State.endLatency, hd, hof]

/-- Items posted leave the copy commands. -/
theorem Posted.copy {s t : State} {l : List (Nat × Nat × Turn)} (h : Posted s t l) (uid : Nat) :
    t.region.copy uid = s.region.copy uid := by
  obtain ⟨ps, -, hr⟩ := h
  rw [hr]
  rfl

/-! ### Copy commands by identity -/

theorem Region.copy_uid {r : Region} {uid : Nat} {c : Copy} (h : r.copy uid = some c) : c.uid = uid := by
  simpa using List.find?_some h

theorem State.setCopy_copy {s : State} {uid : Nat} {c c' : Copy} (h : s.region.copy uid = some c) (hu : c'.uid = uid) :
    (s.setCopy c').region.copy uid = some c' := by
  rw [State.setCopy, State.setRegion_region, Region.copy]
  dsimp only
  rw [Region.copy] at h
  generalize s.region.copies = l at h ⊢
  induction l with
  | nil => cases h
  | cons x l ih =>
    rw [List.map_cons]
    by_cases hx : x.uid = uid
    · rw [List.find?_cons_of_pos (by simp [hx, hu])]
      simp [hx, hu]
    · rw [List.find?_cons_of_neg (by simpa using hx)] at h
      rw [List.find?_cons_of_neg (by simp [hx, hu])]
      exact ih h

/-- A command that is found after one of its identity has been replaced is that one. -/
theorem State.eq_of_setCopy_copy {s : State} {uid : Nat} {c c' : Copy} (hu : c'.uid = uid) (h : (s.setCopy c').region.copy uid = some c) :
    c = c' := by
  have hc := Region.copy_uid h
  rw [State.setCopy, State.setRegion_region, Region.copy] at h
  obtain ⟨x, -, hx⟩ := List.mem_map.1 (List.mem_of_find?_eq_some h)
  split at hx
  · exact hx.symm
  · next hn =>
    subst hx
    exact absurd (by simp [hc, hu]) hn

theorem State.setCopy_rt (s : State) (c : Copy) : (s.setCopy c).rt = s.rt := by
  rw [State.setCopy, State.setRegion_rt]
  rfl

theorem Region.copy_filter (r : Region) (uid : Nat) : ({ r with copies := r.copies.filter (·.uid != uid) } : Region).copy uid = none := by
  simp [Region.copy]

/-! ### Issue and sampling -/

/-- The command that COPY and COPYD enter (06 R210). -/
def State.newCopy (s : State) (a n : Reg) (digest : Bool) : Copy :=
  { uid := s.region.seq, digest := digest, engine := n.toNat, core := s.cur.core, die := s.dieOf s.cur.core, addr := (s.rx a).toNat,
    pc := s.core.pc, issue := s.rt, start := none, desc := none, dslots := [], sslots := [], staged := [],
    moved := [], bad := [], stagedRows := 0, rowsDone := 0, done := false }

/-- The region that has entered it. -/
def State.copying (s : State) (c : Copy) : Region := { s.region with copies := s.region.copies ++ [c] }

/-- What follows the checks of COPY and COPYD. -/
def State.copyEntered (s : State) (a n : Reg) (digest : Bool) : State :=
  let s1 := s.newUid.2
  let s2 := s1.setRegion { s1.region with copies := s1.region.copies ++ [s.newCopy a n digest] }
  (s2.phaseIn 3 10 [s.cur.core] (.copySample s.region.seq)).finish 1

/-- An item of the core in focus goes on the agenda of a region that has replaced its own. -/
theorem State.setRegion_phaseIn (s : State) (r : Region) (n rank : Nat) (key : List Nat) (p : Phase) :
    (s.setRegion r).phaseIn n rank key p = s.setRegion { r with
      agenda := r.agenda ++ [{ due := r.rt + n, rank := rank, key := key, core := s.cur.core, act := .phase p, pc := s.core.pc
                               by' := s.cur.core, seq := r.seq, took := r.rt }]
      seq := r.seq + 1 } := by
  rw [State.phaseIn, State.post, State.setRegion_setRegion, State.rt, State.setRegion_region, State.setRegion_core]
  rfl

theorem State.copyEntered_issues (s : State) (a n : Reg) (digest : Bool) :
    Issues (s.setRegion (s.copying (s.newCopy a n digest))) (s.copyEntered a n digest)
      [(s.rt + 3, s.cur.core, .phase (.copySample s.region.seq))] := by
  let s1 := s.setRegion (s.copying (s.newCopy a n digest))
  let p : Pend := { due := s.rt + 3, rank := 10, key := [s.cur.core], core := s.cur.core, act := .phase (.copySample s.region.seq)
                    pc := s.core.pc, by' := s.cur.core, seq := s.region.seq + 1, took := s.region.rt }
  have hr : s1.region = s.copying (s.newCopy a n digest) := s.setRegion_region _
  have hp : s.copyEntered a n digest = (s1.setRegion { s1.region with agenda := s1.region.agenda ++ [p], seq := s.region.seq + 2 }).finish 1 := by
    rw [State.setRegion_setRegion, hr, State.copyEntered, State.newUid]
    dsimp only
    rw [State.setRegion_setRegion, State.setRegion_phaseIn, State.setRegion_region]
    rfl
  rw [hp]
  exact s1.issues_finish _ [p] rfl

theorem State.startCopy_spec {s : State} (h : s.timed = true) (i : Instr) (a n : Reg) (digest : Bool) : ∃ t, s.startCopy i a n digest = .next t ∧
    if s.cecount ≤ n.toNat then Traps s t 1 0 (wordOf i)
    else if 16 ≤ (s.region.copies.filter fun c => c.die == s.dieOf s.cur.core && c.engine == n.toNat && !c.done).length then
      Traps s t 6 9 (n.setWidth 64)
    else match descTrap (s.rx a) 128 128 with
      | some (cause, sub) => Traps s t cause sub (s.rx a)
      | none => Issues (s.setRegion (s.copying (s.newCopy a n digest))) t [(s.rt + 3, s.cur.core, .phase (.copySample s.region.seq))] := by
  unfold State.startCopy
  split
  · exact ⟨_, rfl, s.raise_spec _ _ _⟩
  · rw [State.needTimed_timed h]
    refine ⟨_, rfl, ?_⟩
    dsimp only
    split
    · exact s.raise_spec _ _ _
    · exact s.descAddr_spec (P := fun t => Issues (s.setRegion (s.copying (s.newCopy a n digest))) t _) _ _ _ _
        (s.copyEntered_issues a n digest)

/-- The start of a command: its issue, or once its engine has moved the bytes before (06 R207). -/
def State.copyStart (s : State) (c : Copy) : Nat :=
  max c.issue ((SMap.get (0, 0) s.region.engineLast (c.die * 8 + c.engine)).1 +
    ((SMap.get (0, 0) s.region.engineLast (c.die * 8 + c.engine)).2 + 255) / 256)

/-- What the sampling of a copy's descriptor gives (06 R207, R210). -/
def State.copySampled (s : State) (uid : Nat) (c : Copy) : State :=
  let d := readCopyDesc s.localCore s.core c.addr
  if !s.copyOk c.addr d c.digest then s.copyTrap c 1 0 c.addr
  else
    let e := c.die * 8 + c.engine
    let last := SMap.get (0, 0) s.region.engineLast e
    let start := max c.issue (last.1 + ceilDiv last.2 256)
    let s1 := s.setRegion { s.region with engineLast := SMap.put s.region.engineLast e (start, d.total) }
    (s1.setCopy { c with desc := some d, start := some start }).phaseIn 0 22 [c.core, 0] (.copyTake uid)

theorem phaseCopySample_eq {s : State} {uid : Nat} {c : Copy} (h : s.region.copy uid = some c) (hc : c.core = s.cur.core) :
    phaseCopySample uid s = s.sampled 4 c.addr 128 c.pc s.cur.core (s.copySampled uid c) := by
  rw [← hc, phaseCopySample, h]
  rfl

theorem phaseCopySample_spec {s : State} {uid : Nat} {c : Copy} (h : s.region.copy uid = some c) (hc : c.core = s.cur.core) :
    Samples s (phaseCopySample uid s) 4 c.addr 128 c.pc fun s1 =>
      let d := readCopyDesc s.localCore s.core c.addr
      if s.copyOk c.addr d c.digest = false then UnitTraps s s1 4 1 0 (BitVec.ofNat 64 c.addr) c.pc s.cur.core
      else
        let e := c.die * 8 + c.engine
        let last := SMap.get (0, 0) s.region.engineLast e
        let start := max c.issue (last.1 + (last.2 + 255) / 256)
        let s2 := (s.setRegion { s.region with engineLast := SMap.put s.region.engineLast e (start, d.total) }).setCopy
          { c with desc := some d, start := some start }
        OnlyRegion s s1 ∧ Posted s2 s1 [(s.rt, c.core, .phase (.copyTake uid))] := by
  rw [phaseCopySample_eq h hc]
  refine s.sampled_spec _ _ _ _ _ ?_
  unfold State.copySampled
  dsimp only
  cases hok : s.copyOk c.addr (readCopyDesc s.localCore s.core c.addr) c.digest with
  | false =>
    rw [if_pos rfl, ← hc]
    exact s.trapUnit_spec _ _ _ _ _ _
  | true =>
    rw [if_neg (by decide), if_neg (by decide)]
    obtain ⟨ho, hp⟩ := State.phaseIn_spec ((s.setRegion { s.region with
      engineLast := SMap.put s.region.engineLast (c.die * 8 + c.engine) (s.copyStart c, (readCopyDesc s.localCore s.core c.addr).total) }).setCopy
        { c with desc := some (readCopyDesc s.localCore s.core c.addr), start := some (s.copyStart c) }) 0 22 [c.core, 0] (.copyTake uid)
    refine ⟨((s.onlyRegion_setRegion _).trans (State.onlyRegion_setRegion _ _)).trans ho, ?_⟩
    rw [State.setCopy_rt, State.setRegion_rt] at hp
    have hl : [(s.rt, c.core, Turn.phase (.copyTake uid))] = [(s.rt, s.cur.core, .phase (.copyTake uid))] := by rw [hc]
    rw [hl]
    exact hp

/-! ### Staging -/

theorem foldl_postRows_spec (s0 : State) (c : Copy) (d : CopyDesc) (start q : Nat) (l : List Nat) (s : State) (h : RegionMoves s0 s) :
    let t := l.foldl (fun s j =>
      let r := q * d.perStage + j
      let s1 : State := { s with fresh := s.fresh + 1 }
      s1.post { due := s.rowAt c d start r, rank := 3, key := [c.issue, c.engine, c.core], core := c.core,
                act := .event (.copyRowPerform c.uid r), landed := false, landAt := s.later, die := s.physDie c.die
                pc := c.pc, by' := c.core }) s
    RegionMoves s t ∧ Posted s t (l.map fun j => (s0.rowAt c d start (q * d.perStage + j), c.core,
      .event (.copyRowPerform c.uid (q * d.perStage + j)))) := by
  induction l generalizing s with
  | nil => exact ⟨.refl s, .nil rfl⟩
  | cons j l ih =>
    let p : Pend := { due := s.rowAt c d start (q * d.perStage + j), rank := 3, key := [c.issue, c.engine, c.core], core := c.core,
                      act := .event (.copyRowPerform c.uid (q * d.perStage + j)), landed := false, landAt := s.later
                      die := s.physDie c.die, pc := c.pc, by' := c.core }
    let s1 := ({ s with fresh := s.fresh + 1 } : State).post p
    have h1 : RegionMoves s s1 := (s.regionMoves_fresh _).trans (State.regionMoves_post _ _)
    obtain ⟨-, -, hp⟩ := ({ s with fresh := s.fresh + 1 } : State).posted_post p
    obtain ⟨im, ip⟩ := ih s1 (h.trans h1)
    have hp' : Posted s s1 [(s0.rowAt c d start (q * d.perStage + j), c.core, .event (.copyRowPerform c.uid (q * d.perStage + j)))] := by
      rw [← h.rowAt]
      exact hp
    exact ⟨h1.trans im, hp'.append ip⟩

theorem State.postRows_spec (s : State) (c : Copy) (d : CopyDesc) (start q : Nat) :
    RegionMoves s (s.postRows c d start q) ∧ Posted s (s.postRows c d start q) ((List.range d.perStage).map fun j =>
      (s.rowAt c d start (q * d.perStage + j), c.core, .event (.copyRowPerform c.uid (q * d.perStage + j)))) :=
  foldl_postRows_spec s c d start q _ s (.refl s)

theorem State.postStage_spec (s : State) (c : Copy) (d : CopyDesc) (start q : Nat) :
    RegionMoves s (s.postStage c d start q) ∧ ∃ l, Posted s (s.postStage c d start q) l := by
  unfold State.postStage
  split
  · exact ⟨.refl s, [], .nil rfl⟩
  · exact ⟨s.regionMoves_post _, _, (s.posted_post _).2.2⟩

theorem State.checkAgain_posts (s : State) (unit k : Nat) (spans : List (Nat × Nat)) (pc : Word) (by' : Nat) :
    ∃ l, Posted s (s.checkAgain unit k spans pc by') l := by
  rw [State.checkAgain_eq]
  split
  · exact ⟨_, (s.posted_post _).2.2⟩
  · exact ⟨[], .nil rfl⟩

/-- The agenda after items have been posted. -/
theorem Posted.agenda {s t : State} {l : List (Nat × Nat × Turn)} (h : Posted s t l) :
    ∃ ps : List Pend, t.region.agenda = s.region.agenda ++ ps ∧ ps.map (fun p => (p.due, p.core, p.act)) = l := by
  obtain ⟨ps, hps, hr⟩ := h
  exact ⟨ps, by rw [hr], hps⟩

theorem State.setCopy_agenda (s : State) (c : Copy) : (s.setCopy c).region.agenda = s.region.agenda := by
  rw [State.setCopy, State.setRegion_region]

theorem Copy.noteBad_eq (c : Copy) (q : Nat) (l : List Nat) : c.noteBad q l = { c with bad := (c.noteBad q l).bad } := by
  unfold Copy.noteBad
  split <;> rfl

/-- The command once a stage of its scratchpad source is staged (06 R206, R209). -/
def State.stagedCopy (s : State) (c : Copy) (d : CopyDesc) (q : Nat) : Copy :=
  ({ c with stagedRows := q + 1, staged := SMap.put c.staged q (sourceBytes (s.coreAt d.score) (d.srcRows d.sbase q) d.count0) }).noteBad q
    (stageBad d.count0 ((d.srcRows d.sbase q).map fun a => (s.coreAt d.score).sbad a d.count0))

theorem State.stagedCopy_spec (s : State) (c : Copy) (d : CopyDesc) (q : Nat) :
    (s.stagedCopy c d q).uid = c.uid ∧ (s.stagedCopy c d q).die = c.die ∧ (s.stagedCopy c d q).stagedRows = q + 1 ∧
    SMap.get [] (s.stagedCopy c d q).staged q = (d.srcRows d.sbase q).flatMap fun a => takeBytes (s.coreAt d.score).scratch a d.count0 := by
  rw [State.stagedCopy, Copy.noteBad_eq]
  exact ⟨rfl, rfl, rfl, SMap.get_put_self _ _ _ _⟩

/-- The scratchpad bytes that a stage samples. -/
def CopyDesc.stageSpans (d : CopyDesc) (q : Nat) : List (Nat × Nat) := (d.srcRows d.sbase q).map fun a => (a, d.count0)

theorem execCopyRowStage_scratch {s : State} {uid q start : Nat} {c : Copy} {d : CopyDesc} (h : s.region.copy uid = some c)
    (hd : c.desc = some d) (hst : c.start = some start) (hs : d.ssp = 1) : execCopyRowStage uid q s = .next (
      if (s.earlyReads d.score (d.stageSpans q)).isSome then s.checkAgain 4 d.score (d.stageSpans q) c.pc c.core
      else (((s.checkAgain 4 d.score (d.stageSpans q) c.pc c.core).setCopy (s.stagedCopy c d q)).postRows (s.stagedCopy c d q) d start q).postStage
        (s.stagedCopy c d q) d start (q + 1)) := by
  unfold execCopyRowStage
  rw [h]
  dsimp only
  rw [hd, hst]
  dsimp only
  rw [if_neg (by rw [hs]; decide), State.stage, hs]
  rfl

/-- A stage of a scratchpad source without an early read (06 R206, R214). -/
theorem execCopyRowStage_spec {s : State} {uid q start : Nat} {c : Copy} {d : CopyDesc} (h : s.region.copy uid = some c)
    (hd : c.desc = some d) (hst : c.start = some start) (hs : d.ssp = 1)
    (hearly : ∀ a ∈ d.srcRows d.sbase q, s.earlyRead d.score a d.count0 = none) : ∃ t, execCopyRowStage uid q s = .next t ∧
      SameMemory s t ∧ t.task.cores = s.task.cores ∧
      (∃ c', t.region.copy uid = some c' ∧ c'.stagedRows = q + 1 ∧
        SMap.get [] c'.staged q = (d.srcRows d.sbase q).flatMap fun a => takeBytes (s.coreAt d.score).scratch a d.count0) ∧
      ∃ ps : List Pend, t.region.agenda = s.region.agenda ++ ps ∧
        ∀ k < d.perStage, ∃ p ∈ ps, p.due = s.rowAt c d start (q * d.perStage + k) ∧ p.act = .event (.copyRowPerform uid (q * d.perStage + k)) := by
  have hnone : s.earlyReads d.score (d.stageSpans q) = none := by
    rw [State.earlyReads_eq_none_iff]
    intro p hp
    obtain ⟨a, ha, rfl⟩ := List.mem_map.1 hp
    exact hearly a ha
  obtain ⟨huid, hdie, hrows, hstaged⟩ := s.stagedCopy_spec c d q
  rw [Region.copy_uid h] at huid
  let s1 := s.checkAgain 4 d.score (d.stageSpans q) c.pc c.core
  let s2 := s1.setCopy (s.stagedCopy c d q)
  let s3 := s2.postRows (s.stagedCopy c d q) d start q
  have m1 : RegionMoves s s1 := s.regionMoves_checkAgain _ _ _ _ _
  obtain ⟨l1, p1⟩ := s.checkAgain_posts 4 d.score (d.stageSpans q) c.pc c.core
  have m2 : RegionMoves s s2 := m1.trans (s1.regionMoves_setRegion _)
  obtain ⟨m3, p3⟩ := s2.postRows_spec (s.stagedCopy c d q) d start q
  obtain ⟨m4, l4, p4⟩ := s3.postStage_spec (s.stagedCopy c d q) d start (q + 1)
  obtain ⟨hm, -, ht⟩ := (m2.trans m3).trans m4
  refine ⟨_, execCopyRowStage_scratch h hd hst hs, ?_⟩
  rw [hnone, if_neg (by decide)]
  refine ⟨hm, by rw [ht], ⟨s.stagedCopy c d q, ?_, hrows, hstaged⟩, ?_⟩
  · rw [p4.copy, p3.copy]
    exact State.setCopy_copy ((p1.copy uid).trans h) huid
  · obtain ⟨ps1, a1, -⟩ := p1.agenda
    obtain ⟨ps3, a3, e3⟩ := p3.agenda
    obtain ⟨ps4, a4, -⟩ := p4.agenda
    refine ⟨ps1 ++ ps3 ++ ps4, ?_, fun k hk => ?_⟩
    · rw [a4, a3, State.setCopy_agenda, a1, List.append_assoc, List.append_assoc, List.append_assoc]
    · have hmem : (s2.rowAt (s.stagedCopy c d q) d start (q * d.perStage + k), (s.stagedCopy c d q).core,
          Turn.event (.copyRowPerform (s.stagedCopy c d q).uid (q * d.perStage + k))) ∈ ps3.map fun p => (p.due, p.core, p.act) := by
        rw [e3]
        exact List.mem_map.2 ⟨k, List.mem_range.2 hk, rfl⟩
      obtain ⟨p, hp, he⟩ := List.mem_map.1 hmem
      obtain ⟨hdue, -, hact⟩ : p.due = _ ∧ p.core = _ ∧ p.act = _ := by simpa only [Prod.mk.injEq] using he
      refine ⟨p, List.mem_append_left _ (List.mem_append_right _ hp), ?_, by rw [hact, huid]⟩
      rw [hdue, m2.rowAt, State.rowAt, hdie, State.rowAt]

/-! ### Rows -/

theorem State.rowSource_moves {s t : State} {c : Copy} {d : CopyDesc} {start q : Nat} (h : s.rowSource c d start q = .ready t) :
    RegionMoves s t := by
  unfold State.rowSource at h
  split at h
  · cases h
    exact .refl s
  · dsimp only at h
    split at h
    · next h1 =>
      cases h
      obtain ⟨hm, ho⟩ := State.prefetch_spec _ _ _ _
      obtain ⟨hm1, ho1⟩ := fetchRows_spec h1
      exact (RegionMoves.of_outside (hm.trans hm1) (ho.trans ho1)).trans (State.regionMoves_setRegion _ _)
    · split at h <;> cases h

theorem State.rowReady_moves {s t : State} {c : Copy} {d : CopyDesc} {start r : Nat} (h : s.rowReady c d start r = .ready t) :
    RegionMoves s t := by
  unfold State.rowReady at h
  split at h
  · next s1 h1 =>
    have m1 := State.rowSource_moves h1
    split at h
    · cases h
      exact m1
    · dsimp only at h
      split at h
      · cases h
        obtain ⟨hm, ho⟩ := s1.prefetch_spec _ _ _
        exact m1.trans (.of_outside hm ho)
      · cases h
      · split at h <;> cases h
  · next hn => exact (hn t h).elim

theorem State.ringWrite_cur (s : State) (unit : Nat) (w : RingWrite) : (s.ringWrite unit w).cur = s.cur := by
  rw [State.ringWrite_eq]
  split <;> rfl

/-- A producer's write leaves memory, and every core's registers. -/
theorem State.ringWrite_frame (s : State) (unit : Nat) (w : RingWrite) :
    SameMemory s (s.ringWrite unit w) ∧ ∀ k r, ((s.ringWrite unit w).coreAt k).rx r = (s.coreAt k).rx r := by
  rw [State.ringWrite_eq]
  split
  · exact ⟨s.sameMemory_setRegion _, fun k r => by rw [State.trapUnit, (s.regionMoves_setRegion _).coreAt]⟩
  · refine ⟨s.sameMemory_setCore _, fun k r => ?_⟩
    rw [State.coreAt_setCore]
    split
    · next hk =>
      rw [hk, Core.smark_eq]
      rfl
    · rfl

/-- What a row that lands leaves. -/
theorem State.putRow_frame (s : State) (c : Copy) (d : CopyDesc) (r : Nat) (bytes : List Byte) (bad : List Nat) :
    (s.putRow c d r bytes bad).cur = s.cur ∧ (∀ k x, ((s.putRow c d r bytes bad).coreAt k).rx x = (s.coreAt k).rx x) ∧
    (d.dsp ≠ 0 → SameMemory s (s.putRow c d r bytes bad)) := by
  unfold State.putRow
  split
  · next h0 =>
    refine ⟨?_, ?_, fun h => absurd h0 h⟩ <;> split
    · next h => exact (State.store_outside _ _ _ _ _ _ _ _ h).cur
    · rfl
    · rfl
    · next h =>
      intro k x
      rw [State.coreAt, (State.store_outside _ _ _ _ _ _ _ _ h).task, State.coreAt]
    · exact fun _ _ => rfl
    · exact fun k x => by rw [State.copyTrap, State.trapUnit, (s.regionMoves_setRegion _).coreAt]
  · split
    · refine ⟨rfl, fun k x => ?_, fun _ _ _ _ => rfl⟩
      rw [State.coreAt_setCoreAt]
      split
      · next hk =>
        rw [hk, Core.smark_eq]
        rfl
      · rfl
    · obtain ⟨hm, hx⟩ := (s.at' d.dcore).ringWrite_frame 4 { ring := d.dbase, seq := SMap.get 0 c.dslots (r / (d.rows / (d.level 5).count))
                                                             off := d.dstRow 0 r, bytes := bytes
                                                             last := decide (r % (d.rows / (d.level 5).count) = d.rows / (d.level 5).count - 1)
                                                             pc := c.pc.toNat, by' := c.core, poison := bad }
      refine ⟨?_, hx, fun _ => hm⟩
      rw [State.at', State.ringWrite_cur]
      rfl

/-- A row for a scratchpad. -/
theorem State.putRow_scratch (s : State) (c : Copy) {d : CopyDesc} (r : Nat) (bytes : List Byte) (bad : List Nat) (h : d.dsp = 1) (x : Nat) :
    SMap.get 0 ((s.putRow c d r bytes bad).coreAt d.dcore).scratch x =
      if d.dstRow d.dbase r ≤ x ∧ x < d.dstRow d.dbase r + bytes.length then bytes.getD (x - d.dstRow d.dbase r) 0
      else SMap.get 0 (s.coreAt d.dcore).scratch x := by
  rw [State.putRow, if_neg (by rw [h]; decide), if_pos h, State.coreAt_setCoreAt, if_pos rfl, Core.smark_scratch]
  exact get_putBytes_eq _ _ _ _

/-- A row for memory. -/
theorem State.putRow_memory {s u : State} {c : Copy} {d : CopyDesc} {r : Nat} {bytes : List Byte} {bad : List Nat} (h : d.dsp = 0)
    (hu : s.engineStore (s.copyAgent c.die c.engine) (d.dstRow d.dbase r) bytes bad = .done u) : s.putRow c d r bytes bad = u := by
  rw [State.putRow, if_pos h, hu]

/-- The command behind row r. -/
def Copy.afterRow (c : Copy) (d : CopyDesc) (r : Nat) (bytes : List Byte) : Copy :=
  let q := r / d.perStage
  { c with rowsDone := r + 1, moved := if c.digest then c.moved ++ bytes else [], done := decide (d.rows ≤ r + 1)
           staged := if (r + 1) % d.perStage = 0 then SMap.del c.staged q else c.staged
           bad := if (r + 1) % d.perStage = 0 then SMap.del c.bad q else c.bad }

/-- What follows row r: the count, the command's progress, and its end or its digest, due in cycle `due`. -/
def State.rowCounted (s : State) (uid due : Nat) (c : Copy) (d : CopyDesc) (r : Nat) (bytes : List Byte) : State :=
  let s3 := (s.count 0x11 1).setCopy (c.afterRow d r bytes)
  if decide (d.rows ≤ r + 1) && c.digest then
    s3.post { due := due, rank := 3, key := [c.issue, c.engine, c.core], core := c.core
              act := .event (.copydDigestPerform uid), pc := c.pc, by' := c.core }
  else if decide (d.rows ≤ r + 1) then s3.setRegion { s3.region with copies := s3.region.copies.filter (·.uid != uid) }
  else s3

theorem State.rowCounted_frame (s : State) (uid due : Nat) (c : Copy) (d : CopyDesc) (r : Nat) (bytes : List Byte) :
    SameMemory s (s.rowCounted uid due c d r bytes) ∧ (s.rowCounted uid due c d r bytes).cur = s.cur ∧
    ∀ k, ∃ h n, (s.rowCounted uid due c d r bytes).coreAt k = { s.coreAt k with hpc := h, hpcNow := n } := by
  obtain ⟨cm, cc, -, ck⟩ := s.count_spec 0x11 1
  have hm : RegionMoves (s.count 0x11 1) (s.rowCounted uid due c d r bytes) := by
    have h0 : RegionMoves (s.count 0x11 1) ((s.count 0x11 1).setCopy (c.afterRow d r bytes)) := State.regionMoves_setRegion _ _
    unfold State.rowCounted
    dsimp only
    split
    · exact h0.trans (State.regionMoves_post _ _)
    · split
      · exact h0.trans (State.regionMoves_setRegion _ _)
      · exact h0
  refine ⟨cm.trans hm.1, hm.2.1.trans cc, fun k => ?_⟩
  rw [hm.coreAt]
  exact ck k

theorem State.rowCounted_readView (s : State) (uid due : Nat) (c : Copy) (d : CopyDesc) (r : Nat) (bytes : List Byte) (view x : Nat) :
    (s.rowCounted uid due c d r bytes).readView view x = s.readView view x := by
  have h0 : ((s.count 0x11 1).setCopy (c.afterRow d r bytes)).readView view x = s.readView view x := by
    rw [s.count_eq]
    rfl
  rw [← h0]
  unfold State.rowCounted
  dsimp only
  split
  · rfl
  · split <;> rfl

theorem State.rowCounted_copy {s : State} {uid due : Nat} {c : Copy} {d : CopyDesc} {r : Nat} {bytes : List Byte} (hu : c.uid = uid)
    (h : r + 1 < d.rows ∨ c.digest = true) {c' : Copy} (hc : (s.rowCounted uid due c d r bytes).region.copy uid = some c') :
    c' = c.afterRow d r bytes := by
  refine State.eq_of_setCopy_copy (s := s.count 0x11 1) (uid := uid) hu ?_
  unfold State.rowCounted at hc
  dsimp only at hc
  split at hc
  · rwa [(State.posted_post _ _).2.2.copy] at hc
  · next hn =>
    split at hc
    · next hl =>
      obtain h | h := h
      · exact absurd (of_decide_eq_true hl) (Nat.not_le.2 h)
      · exact absurd (by rw [hl, h]; rfl) hn
    · exact hc

/-- The bytes of row r, from the staged bytes of its stage. -/
def Copy.rowOf (c : Copy) (d : CopyDesc) (r : Nat) : List Byte := d.rowBytesOf (SMap.get [] c.staged (r / d.perStage)) r

/-- The offsets of the poisoned bytes of row r. -/
def Copy.badRow (c : Copy) (d : CopyDesc) (r : Nat) : List Nat :=
  d.badOf ((SMap.get [] c.staged (r / d.perStage)).length) (SMap.get [] c.bad (r / d.perStage)) r

/-- A poisoned row is refused for host memory and for a digest (17 R382). -/
theorem Copy.refuses_iff (c : Copy) (d : CopyDesc) (r : Nat) :
    (!(c.badRow d r).isEmpty && (c.digest || (d.dsp == 0 && d.dcls == 3))) = true ↔
      c.badRow d r ≠ [] ∧ (c.digest = true ∨ d.dsp = 0 ∧ d.dcls = 3) := by
  simp

theorem execCopyRowPerform_eq {s s1 : State} {uid r start : Nat} {c0 : Copy} {d : CopyDesc} (h : s.region.copy uid = some c0)
    (hd : c0.desc = some d) (hst : c0.start = some start) (hr : s.rowReady c0 d start r = .ready s1) {c : Copy}
    (hc : (s1.region.copy uid).getD c0 = c) : execCopyRowPerform uid r s = .next (
      if !(c.badRow d r).isEmpty && (c.digest || (d.dsp == 0 && d.dcls == 3)) then s1.copyTrap c 0x0C 6 (s1.rowSourceAt c d r)
      else (s1.putRow c d r (c.rowOf d r) (c.badRow d r)).rowCounted uid (s.rt + 64) c d r (c.rowOf d r)) := by
  subst hc
  unfold execCopyRowPerform
  rw [h]
  dsimp only
  rw [hd, hst]
  dsimp only
  rw [hr]
  dsimp only
  split
  · next hb => exact congrArg Host.Outcome.next (if_pos hb).symm
  · next hb => exact congrArg Host.Outcome.next (if_neg hb).symm

/-- A row that lands (06 R207, R208). -/
theorem execCopyRowPerform_lands {s s1 : State} {uid r start due : Nat} {c0 c : Copy} {d : CopyDesc} (h : s.region.copy uid = some c0)
    (hr : s.rowReady c0 d start r = .ready s1) (hc : (s1.region.copy uid).getD c0 = c) (bytes : List Byte) (bad : List Nat) :
    let t := (s1.putRow c d r bytes bad).rowCounted uid due c d r bytes
    SameRegs s t ∧
    (d.dsp = 1 → ∀ x, SMap.get 0 (t.coreAt d.dcore).scratch x =
      if d.dstRow d.dbase r ≤ x ∧ x < d.dstRow d.dbase r + bytes.length then bytes.getD (x - d.dstRow d.dbase r) 0
      else SMap.get 0 (s.coreAt d.dcore).scratch x) ∧
  (d.dsp = 0 → ∀ u, s1.engineStore (s1.copyAgent c.die c.engine) (d.dstRow d.dbase r) bytes bad = .done u →
      ∀ view x, t.readView view x = u.readView view x) ∧
  (d.dsp ≠ 0 → SameMemory s t) ∧
    (r + 1 < d.rows ∨ c.digest = true → ∀ c', t.region.copy uid = some c' →
      c'.rowsDone = r + 1 ∧ c'.moved = if c.digest then c.moved ++ bytes else []) := by
  intro t
  have hm := State.rowReady_moves hr
  obtain ⟨pc, px, pm⟩ := s1.putRow_frame c d r bytes bad
  obtain ⟨fm, fc, fk⟩ := (s1.putRow c d r bytes bad).rowCounted_frame uid due c d r bytes
  have huid : c.uid = uid := by
    rw [← hc]
    cases hf : s1.region.copy uid with
    | none => exact Region.copy_uid h
    | some c1 => exact Region.copy_uid hf
  refine ⟨fun x => ?_, fun hd x => ?_, fun hd u hu view x => ?_, fun hd => (hm.1.trans (pm hd)).trans fm, fun hl c' hc' => ?_⟩
  · obtain ⟨p, n, hk⟩ := fk s.cur.core
    rw [t.core_eq_coreAt, fc, pc, hm.2.1, hk]
    refine (px s.cur.core x).trans ?_
    rw [hm.coreAt]
    rfl
  · obtain ⟨p, n, hk⟩ := fk d.dcore
    rw [hk, ← hm.coreAt]
    exact s1.putRow_scratch c r bytes bad hd x
  · rw [State.rowCounted_readView, State.putRow_memory hd hu]
  · rw [State.rowCounted_copy huid hl hc']
    exact ⟨rfl, rfl⟩

/-! ### The digest -/

theorem execCopydDigestPerform_spec {s : State} {uid : Nat} {c : Copy} {d : CopyDesc} (h : s.region.copy uid = some c) (hd : c.desc = some d) :
    ∃ t, execCopydDigestPerform uid s = .next t ∧ SameMemory s t ∧ SameRegs s t ∧ t.region.copy uid = none ∧
      ∀ x, t.spad x = if d.digest ≤ x ∧ x < d.digest + (sha512 c.moved).length then (sha512 c.moved).getD (x - d.digest) 0 else s.spad x := by
  let s1 := s.setCore (s.core.swrite d.digest (sha512 c.moved))
  have hm := s1.regionMoves_setRegion { s1.region with copies := s1.region.copies.filter (·.uid != uid) }
  have hcore := hm.core.trans (s.setCore_core _)
  refine ⟨s1.setRegion { s1.region with copies := s1.region.copies.filter (·.uid != uid) }, ?_, (s.sameMemory_setCore _).trans hm.1,
    fun r => ?_, ?_, fun x => ?_⟩
  · rw [execCopydDigestPerform, h]
    dsimp only
    rw [hd]
    rfl
  · rw [hcore]
    rfl
  · rw [State.setRegion_region]
    exact s1.region.copy_filter uid
  · rw [State.spad, hcore]
    exact get_putBytes_eq _ _ _ _

/-- Settles O35: issue and sampling, staging with and without an early read, a row's bytes at its destination, and the digest. -/
theorem copies : Obligations.Copies := by
  intro s
  refine ⟨fun ht i a n digest hi => ?_, fun uid c h hc => phaseCopySample_spec h hc, fun uid q c d start spans h hd hst hs hspans he => ?_,
    fun uid q c d start h hd hst hs he => execCopyRowStage_spec h hd hst hs he, fun uid r c0 d start s1 h hd hst hr => ?_,
    fun uid c d h hd => execCopydDigestPerform_spec h hd⟩
  · have he : exec i s = s.startCopy i a n digest := by
      obtain ⟨rfl, rfl⟩ | ⟨rfl, rfl⟩ := hi <;> rfl
    obtain ⟨t, h, hspec⟩ := s.startCopy_spec ht i a n digest
    refine ⟨t, he.trans h, ?_⟩
    dsimp only
    split
    · next hn => rwa [if_pos hn] at hspec
    · next hn =>
      rw [if_neg hn] at hspec
      split
      · next hq => rwa [if_pos hq] at hspec
      · next hq =>
        rw [if_neg hq] at hspec
        cases hx : descTrap (s.rx a) 128 128 with
        | some p =>
          rw [hx] at hspec
          exact hspec
        | none =>
          rw [hx] at hspec
          exact ⟨s.newCopy a n digest, rfl, rfl, rfl, rfl, rfl, rfl, rfl, rfl, rfl, rfl, hspec⟩
  · subst hspans
    refine ⟨_, execCopyRowStage_scratch h hd hst hs, ?_⟩
    exact if_pos he
  · obtain ⟨hregs, hscratch, hmem, hsame, hcopy⟩ := execCopyRowPerform_lands (due := s.rt + 64) h hr rfl
      (((s1.region.copy uid).getD c0).rowOf d r) (((s1.region.copy uid).getD c0).badRow d r)
    refine ⟨_, execCopyRowPerform_eq h hd hst hr rfl, ?_⟩
    have hrefused := ((s1.region.copy uid).getD c0).refuses_iff d r
    by_cases hb : ((s1.region.copy uid).getD c0).badRow d r ≠ [] ∧
        (((s1.region.copy uid).getD c0).digest = true ∨ d.dsp = 0 ∧ d.dcls = 3)
    · rw [if_pos (hrefused.2 hb)]
      exact (if_pos hb).mpr (s1.trapUnit_spec _ _ _ _ _ _)
    · rw [if_neg (mt hrefused.1 hb)]
      exact (if_neg hb).mpr ⟨hregs, hscratch, fun h0 => engineStores_of_done _ (hmem h0), fun _ h2 => hsame h2, hcopy⟩

end Sys2Proof.Machine
end
